-- ==== Sys2Proof/Word.lean ====
section
/-! DEFINITION. The word types of the machine (spec/00_scope.md R4, spec/03_registers.md R72). -/

namespace Sys2Proof

/-- A g register, a control register, an address while it is computed. -/
abbrev Word := BitVec 64

/-- One byte of a memory (little-endian, spec/00_scope.md R6). -/
abbrev Byte := BitVec 8

/-- A register number 0-63 (spec/02_encoding.md R44). -/
abbrev Reg := BitVec 6

/-- A full vector register: 256 lanes of 64 bits, lane k at bits 64k (spec/01_machine.md R16, spec/06_vector_isa.md R127). -/
abbrev VReg := BitVec 16384

/-- One bit per element number 0-16,383: EM and the mask-stack entries (spec/06_vector_isa.md R129). -/
abbrev EMask := BitVec 16384

/-- An accumulator tile: element (m, n) of 32 bits at bit 32 (32 m + n) (spec/07_matrix_isa.md R157). -/
abbrev Tile := BitVec 32768

/-- A weight-buffer panel of 4 KiB, byte k at bits 8k (spec/07_matrix_isa.md R161). -/
abbrev Panel := BitVec 32768

/-- A decode table: entry c as the 32-bit word at bit 32 c (spec/04_numbers.md R93). -/
abbrev DTable := BitVec 8192

/-- n is a power of two. -/
def isPow2 (n : Nat) : Bool := n != 0 && n == 2 ^ Nat.log2 n

end Sys2Proof
end

