-- ==== Sys2Proof/Config.lean ====
section
/-! DEFINITION. What an implementation fixes, and the free values: constants with no body, so no proof knows them
(notes/assumptions/8.md). A free value is applied to the counter State.fresh, which every use advances, or to the
operands it depends on. -/

namespace Sys2Proof.Config

/-- A free bit: which of two outcomes the spec allows occurs. -/
opaque freeBit : Nat → Bool

/-- A free 64-bit value. -/
opaque freeWord : Nat → Word

/-- A free byte, at a place of a free block. -/
opaque freeByte : Nat → Nat → Byte

/-- Pool pages that building a tree of so many items newly takes (spec/16_rays.md R363, R371): free, by the count of
items and the fresh number of the command. -/
opaque treePages : Nat → Nat → Nat

/-- The side on which the builder puts a primitive when it parts the primitives of a node (spec/16_rays.md R373: the tree is the
builder's own): free by the fresh number of the command, the node and the primitive. -/
opaque treeSide : Nat → Nat → Nat → Nat

/-- SAH and OVERLAP of a tree whose quotients have no value, its areas being 0 (spec/16_rays.md R373): free by the fresh number of
the command that made it. -/
opaque treeSah : Nat → BitVec 32
opaque treeOverlap : Nat → BitVec 32

/-- The largest number of pages a BUILD of so many items can need (spec/16_rays.md R368 QUERY). -/
opaque treeEstimate : Nat → Nat → BitVec 32

/-- Node visits a traversal spends before it meets its next hit or is exhausted (spec/16_rays.md R380): free by the tree,
the ray's record, and how many hits it has met with the bound on t that prunes it. -/
opaque visitsNeeded : Nat → Nat → Nat → Nat

/-- The order in which a traversal meets the hits of a ray (spec/16_rays.md R380): a rank by the tree, the ray's record and
the hit. -/
opaque visitRank : Nat → Nat → Nat → Nat

/-- What a ray whose object-space form is no finite number hits (spec/16_rays.md R376, R377 give no result there), by the
ray's record, the instance and the primitive: t as a fraction, b1, b2 and the facing. -/
opaque overflowHit : Nat → Nat → Nat → Option (Int × Nat × BitVec 32 × BitVec 32 × Bool)

/-- The module serial number (spec/17_counters_debug.md R399). -/
opaque serial : Word

/-- The bytes of the SHA-384 digest of a firmware image copy (spec/19_host_device.md R431). -/
opaque imageByte : Nat → Nat → Byte

/-- The bytes of an SPDM response (spec/19_host_device.md R432), by the fresh number and the place. -/
opaque spdmByte : Nat → Nat → Byte

/-- The length of an SPDM response. -/
opaque spdmLength : Nat → Nat

/-- A byte of the SHA-384 digest of the ROM, measurement index 1 (spec/19_host_device.md R432). -/
opaque romByte : Nat → Byte

end Sys2Proof.Config
end

