-- ==== Sys2Proof/Syntax/Kinds.lean ====
section
/-! DEFINITION. The kinds of operand an instruction's entry names, and the data that device events carry. -/

namespace Sys2Proof

/-- Float formats of FN (spec/05_scalar_isa.md Table 05.3): binary16, bfloat16, binary32, binary64. -/
inductive Fmt where
  | h | bf | s | d
  deriving DecidableEq, Repr

/-- Formats of mld.t and mst.t (spec/07_matrix_isa.md R165). -/
inductive TFmt where
  | h | bf | s
  deriving DecidableEq, Repr

/-- Formats of mma (spec/07_matrix_isa.md R165). -/
inductive MFmt where
  | h | bf | q8 | q4
  deriving DecidableEq, Repr

/-- The format is one of table codes with block scales. -/
def MFmt.coded : MFmt → Bool
  | .q8 | .q4 => true
  | .h | .bf => false

/-- Code width of the narrow-format instructions (spec/07_matrix_isa.md R165). -/
inductive Code where
  | q8 | q4
  deriving DecidableEq, Repr

/-- RM of an instruction (spec/02_encoding.md R45): a static mode or VCFG.RM. -/
inductive RmF where
  | rne | rtz | rdn | rup | rmm | dyn
  deriving DecidableEq, Repr

/-- Conditions of fcmp and vfcmp (spec/05_scalar_isa.md R114). -/
inductive FCond where
  | eq | lt | le | un
  deriving DecidableEq, Repr

/-- Integer types of fcvti and icvtf (spec/05_scalar_isa.md R115). -/
inductive IntTy where
  | s64 | u64 | s32 | u32
  deriving DecidableEq, Repr

/-- k of fsgn and vfsgn (spec/05_scalar_isa.md R117): the sign of B, its inverse, or the exclusive or. -/
inductive SgnOp where
  | copy | neg | xor
  deriving DecidableEq, Repr

/-- Conditions of br and vcmp (spec/05_scalar_isa.md Table 05.5). -/
inductive Cond where
  | eq | ne | lt | ge | lo | hs
  deriving DecidableEq, Repr

/-- Conditions of bvf (spec/05_scalar_isa.md Table 05.5). -/
inductive VfCond where
  | none | some | all | notall
  deriving DecidableEq, Repr

/-- Atomic operations (spec/10_memory_isa.md Table 10.2). -/
inductive AmoOp where
  | add | and | or | xor | min | max | umin | umax | swap | fadd
  deriving DecidableEq, Repr

/-- Element widths 8, 16, 32, 64 (spec/03_registers.md Table 03.3). -/
inductive Ew where
  | e8 | e16 | e32 | e64
  deriving DecidableEq, Repr

/-- The suffixes .s (signed) and .z (unsigned). -/
inductive Sign where
  | s | z
  deriving DecidableEq, Repr

/-- Forms of mld.w (spec/07_matrix_isa.md Table 07.3). -/
inductive WForm where
  | dense | c24 | s48
  deriving DecidableEq, Repr

/-- What q.notify does (spec/11_queues_scheduling.md R267). -/
inductive Notify where
  | tail | hold | release
  deriving DecidableEq, Repr

/-- Modes 0, 1 and 2 of msg.send (spec/12_engines_handlers.md R299). -/
inductive MsgMode where
  | post | reply | port
  deriving DecidableEq, Repr

/-- What rast.attr computes (spec/13_raster_shading.md R315). -/
inductive Attr where
  | z | b0 | b1 | b2 | px | py
  deriving DecidableEq, Repr

/-- Fields of rq.get (spec/16_rays.md R381). -/
inductive RqField where
  | t | prim | inst | iid | b1 | b2 | info
  deriving DecidableEq, Repr

/-- Conditions of wait (spec/10_memory_isa.md R246). -/
inductive WCond where
  | ne | eq | reached
  deriving DecidableEq, Repr

/-- Operations of grp.red (spec/10_memory_isa.md R248). -/
inductive RedOp where
  | add | and | or | xor | min | max | umin | umax | fadd
  deriving DecidableEq, Repr

/-- Kinds of tlbinv (spec/10_memory_isa.md R250). -/
inductive TlbKind where
  | page | asid | vi
  deriving DecidableEq, Repr

/-- Spaces of tlbinv (spec/10_memory_isa.md R250). -/
inductive TlbSpace where
  | data | inst | both
  deriving DecidableEq, Repr

/-- The mask operand: none, ?vC or ?!vC (spec/02_encoding.md R44, Table 02.5). -/
inductive Mask where
  | none
  | on (c : Reg)
  | off (c : Reg)
  deriving DecidableEq, Repr

/-- The second operand of a vector instruction by FORM: a register group, a g register or an immediate
(spec/06_vector_isa.md R130). -/
inductive VSrc where
  | vec (b : Reg)
  | gpr (b : Reg)
  | imm (w : Word)
  deriving DecidableEq, Repr

/-- The offset of a slide: a g register or IMM[13:0] (spec/06_vector_isa.md R150). -/
inductive SlideOff where
  | gpr (b : Reg)
  | imm (n : BitVec 14)
  deriving DecidableEq, Repr

/-- The two causes of a poisoned value (spec/02_encoding.md R58). -/
inductive ErrCause where
  | dataEcc | linkLost
  deriving DecidableEq, Repr

/-- How a long-latency instruction inside its window goes on (spec/02_encoding.md R55, R56, R58): all its results
land, the named vector elements and g results and, with flags, its flags land before the rest, or an error poisons what it
writes. -/
inductive Landing where
  | whole
  | part (elems regs : List Nat) (flags : Bool)
  | error (cause : ErrCause)
  deriving DecidableEq, Repr

/-- Whom the scheduler names to receive reclaimed lane groups (spec/01_machine.md R26): nobody, a hart, or the waiting
instance of a device queue. -/
inductive Recipient where
  | nobody
  | hart (h : Nat)
  | waiting (q : Nat) (lseq index : BitVec 32)
  deriving DecidableEq, Repr

/-- An access that arrives from another module (spec/19_host_device.md R437, R438). -/
inductive SheetReq where
  | read (bytes : Nat)
  | write (data : List Byte)
  | atomic (op : AmoOp) (wide : Bool) (x : Word)
  deriving DecidableEq, Repr

/-- What the scrubber finds in a line (spec/08_memories.md R205). -/
inductive ScrubFinding where
  | clean | correctable | uncorrectable
  deriving DecidableEq, Repr

/-- A boot step 1-14 that fails, with its failure code (spec/19_host_device.md R430). -/
structure BootFailure where
  step : Nat
  code : Byte
  deriving DecidableEq, Repr

/-- The mode and interface a register-window access is made from (spec/08_memories.md R189, Table 08.5). -/
inductive Writer where
  | firmware
  | super (vi : Nat)
  | user (vi : Nat)
  deriving DecidableEq, Repr

/-- A register written from outside the harts: an offset of a function's BAR0 page (spec/19_host_device.md R423), or an
offset of a die's register window (spec/08_memories.md Table 08.5). -/
inductive RegTarget where
  | bar (vi off size : Nat)
  | window (die off : Nat) (by_ : Writer)
  deriving DecidableEq, Repr

/-- A firmware command record with the queue it was read from (spec/19_host_device.md Table 19.2). -/
structure Cmd where
  /-- the function whose queue holds the record -/
  vi : Nat
  /-- its command queue 0-3 -/
  cq : Nat
  tvi : Nat
  tag : BitVec 16
  /-- the reserved bits of the record are zero -/
  clean : Bool
  a1 : Word
  a2 : Word
  a3 : Word
  a4 : Word
  a5 : Word
  a6 : Word
  deriving DecidableEq, Repr

/-- The control-register numbers of spec/03_registers.md Table 03.2 (R74). -/
def crAssigned (n : BitVec 12) : Bool :=
  let k := n.toNat
  k == 0x008 || k == 0x00A || (0x00C ≤ k && k ≤ 0x00E) || (0x010 ≤ k && k ≤ 0x014) || (0x018 ≤ k && k ≤ 0x01A) ||
  (0x020 ≤ k && k ≤ 0x024) || (0x028 ≤ k && k ≤ 0x02B) || k == 0x030 || k == 0x038 || (0x040 ≤ k && k ≤ 0x049) ||
  (0x050 ≤ k && k ≤ 0x052) || (0x060 ≤ k && k ≤ 0x062) || (0x070 ≤ k && k ≤ 0x07B) || (0x080 ≤ k && k ≤ 0x087) ||
  (0x090 ≤ k && k ≤ 0x09F)

end Sys2Proof
end

