-- ==== Sys2Proof/Syntax.lean ====
section
/-! DEFINITION. The instructions and device events: one constructor per row of spec/opcode_table.json.

The first 235 constructors are the assigned opcodes of spec/02_encoding.md Table 02.6, in OPC order; their
arguments are exactly the fields their entry names (R43). The constructors after them are the device events of
the table, which have no instruction word; their arguments say which unit acts and what the outside supplies. -/

namespace Sys2Proof

/-- One row of the opcode table. Register fields are plain numbers 0-63 (spec/02_encoding.md R44). -/
inductive Instr where
  /-- NOP (R108): Does nothing. OPC 0x000. -/
  | nop
  /-- LI (R108): Writes the 64-bit immediate to g[D]. OPC 0x001. -/
  | li (d : Reg) (imm : Word)
  /-- MOV (R108): Copies g[A] to g[D]. OPC 0x002. -/
  | mov (d : Reg) (a : Reg)
  /-- ADD (R108): Writes g[A] + g[B], wrapping, to g[D]. OPC 0x003. -/
  | add (d : Reg) (a : Reg) (b : Reg)
  /-- ADDI (R108): Writes g[A] + IMM, wrapping, to g[D]. OPC 0x004. -/
  | addi (d : Reg) (a : Reg) (imm : Word)
  /-- SUB (R108): Writes g[A] − g[B], wrapping, to g[D]. OPC 0x005. -/
  | sub (d : Reg) (a : Reg) (b : Reg)
  /-- MUL (R108): Writes the low 64 bits of the product to g[D]. OPC 0x006. -/
  | mul (d : Reg) (a : Reg) (b : Reg)
  /-- MULH (R108): Writes the high 64 bits of the signed product to g[D]. OPC 0x007. -/
  | mulh (d : Reg) (a : Reg) (b : Reg)
  /-- MULHZ (R108): Writes the high 64 bits of the unsigned product to g[D]. OPC 0x008. -/
  | mulhz (d : Reg) (a : Reg) (b : Reg)
  /-- DIV (R109): Writes the signed quotient, rounded toward zero, with the limit cases of Table 05.2, to g[D]. OPC 0x009. -/
  | div (d : Reg) (a : Reg) (b : Reg) (la : BitVec 4)
  /-- DIVZ (R109): Writes the unsigned quotient to g[D]. OPC 0x00A. -/
  | divz (d : Reg) (a : Reg) (b : Reg) (la : BitVec 4)
  /-- REM (R109): Writes the signed remainder, with the sign of the dividend, to g[D]. OPC 0x00B. -/
  | rem (d : Reg) (a : Reg) (b : Reg) (la : BitVec 4)
  /-- REMZ (R109): Writes the unsigned remainder to g[D]. OPC 0x00C. -/
  | remz (d : Reg) (a : Reg) (b : Reg) (la : BitVec 4)
  /-- AND (R108): Writes the bitwise AND of g[A] and g[B] to g[D]. OPC 0x00D. -/
  | and (d : Reg) (a : Reg) (b : Reg)
  /-- ANDI (R108): Writes the bitwise AND of g[A] and IMM to g[D]. OPC 0x00E. -/
  | andi (d : Reg) (a : Reg) (imm : Word)
  /-- OR (R108): Writes the bitwise OR of g[A] and g[B] to g[D]. OPC 0x00F. -/
  | or (d : Reg) (a : Reg) (b : Reg)
  /-- ORI (R108): Writes the bitwise OR of g[A] and IMM to g[D]. OPC 0x010. -/
  | ori (d : Reg) (a : Reg) (imm : Word)
  /-- XOR (R108): Writes the bitwise XOR of g[A] and g[B] to g[D]. OPC 0x011. -/
  | xor (d : Reg) (a : Reg) (b : Reg)
  /-- XORI (R108): Writes the bitwise XOR of g[A] and IMM to g[D]. OPC 0x012. -/
  | xori (d : Reg) (a : Reg) (imm : Word)
  /-- ANDN (R108): Writes g[A] AND NOT g[B] to g[D]. OPC 0x013. -/
  | andn (d : Reg) (a : Reg) (b : Reg)
  /-- SHL (R108): Shifts g[A] left by g[B][5:0] and writes g[D]. OPC 0x014. -/
  | shl (d : Reg) (a : Reg) (b : Reg)
  /-- SHLI (R108): Shifts g[A] left by IMM[5:0] and writes g[D]. OPC 0x015. -/
  | shli (d : Reg) (a : Reg) (sh : BitVec 6)
  /-- SHR (R108): Shifts g[A] right logically by g[B][5:0]. OPC 0x016. -/
  | shr (d : Reg) (a : Reg) (b : Reg)
  /-- SHRI (R108): Shifts g[A] right logically by IMM[5:0]. OPC 0x017. -/
  | shri (d : Reg) (a : Reg) (sh : BitVec 6)
  /-- SRA (R108): Shifts g[A] right arithmetically by g[B][5:0]. OPC 0x018. -/
  | sra (d : Reg) (a : Reg) (b : Reg)
  /-- SRAI (R108): Shifts g[A] right arithmetically by IMM[5:0]. OPC 0x019. -/
  | srai (d : Reg) (a : Reg) (sh : BitVec 6)
  /-- ROTL (R108): Rotates g[A] left by g[B][5:0]. OPC 0x01A. -/
  | rotl (d : Reg) (a : Reg) (b : Reg)
  /-- ROTR (R108): Rotates g[A] right by g[B][5:0]. OPC 0x01B. -/
  | rotr (d : Reg) (a : Reg) (b : Reg)
  /-- CLZ (R108): Counts leading zero bits of g[A], 64 for zero. OPC 0x01C. -/
  | clz (d : Reg) (a : Reg)
  /-- CTZ (R108): Counts trailing zero bits of g[A], 64 for zero. OPC 0x01D. -/
  | ctz (d : Reg) (a : Reg)
  /-- POPC (R108): Counts the 1 bits of g[A]. OPC 0x01E. -/
  | popc (d : Reg) (a : Reg)
  /-- MIN (R108): Writes the signed minimum of g[A] and g[B]. OPC 0x01F. -/
  | min (d : Reg) (a : Reg) (b : Reg)
  /-- MAX (R108): Writes the signed maximum of g[A] and g[B]. OPC 0x020. -/
  | max (d : Reg) (a : Reg) (b : Reg)
  /-- UMIN (R108): Writes the unsigned minimum of g[A] and g[B]. OPC 0x021. -/
  | umin (d : Reg) (a : Reg) (b : Reg)
  /-- UMAX (R108): Writes the unsigned maximum of g[A] and g[B]. OPC 0x022. -/
  | umax (d : Reg) (a : Reg) (b : Reg)
  /-- SLT (R108): Writes 1 when g[A] < g[B] signed, else 0. OPC 0x023. -/
  | slt (d : Reg) (a : Reg) (b : Reg)
  /-- SLO (R108): Writes 1 when g[A] < g[B] unsigned, else 0. OPC 0x024. -/
  | slo (d : Reg) (a : Reg) (b : Reg)
  /-- SEQ (R108): Writes 1 when g[A] = g[B], else 0. OPC 0x025. -/
  | seq (d : Reg) (a : Reg) (b : Reg)
  /-- SEL (R108): Writes g[A] when g[C] is non-zero, else g[B]. OPC 0x026. -/
  | sel (d : Reg) (a : Reg) (b : Reg) (c : Reg)
  /-- SEXT (R110): Sign-extends the low n bits of g[A] to 64 bits. OPC 0x027. -/
  | sext (d : Reg) (a : Reg) (n : BitVec 7)
  /-- ZEXT (R110): Zero-extends the low n bits of g[A] to 64 bits. OPC 0x028. -/
  | zext (d : Reg) (a : Reg) (n : BitVec 7)
  /-- BFX (R110): Extracts a bit field of g[A], sign- or zero-extended by FN. OPC 0x029. -/
  | bfx (sg : Sign) (d : Reg) (a : Reg) (pos : BitVec 6) (len : BitVec 7)
  /-- BFI (R110): Inserts the low len bits of g[A] into g[D] at pos. OPC 0x02A. -/
  | bfi (d : Reg) (a : Reg) (pos : BitVec 6) (len : BitVec 7)
  /-- LEA (R108): Writes g[A] + (g[B] << AUX) + IMM. OPC 0x02B. -/
  | lea (d : Reg) (a : Reg) (b : Reg) (sh : BitVec 3) (imm : Word)
  /-- BSWAP (R108): Reverses the bytes of g[A]. OPC 0x02C. -/
  | bswap (d : Reg) (a : Reg)
  /-- FADD (R112): Adds two scalar floats of format FN with one rounding. OPC 0x040. -/
  | fadd (f : Fmt) (rm : RmF) (d : Reg) (a : Reg) (b : Reg)
  /-- FSUB (R112): Subtracts two scalar floats with one rounding. OPC 0x041. -/
  | fsub (f : Fmt) (rm : RmF) (d : Reg) (a : Reg) (b : Reg)
  /-- FMUL (R112): Multiplies two scalar floats with one rounding. OPC 0x042. -/
  | fmul (f : Fmt) (rm : RmF) (d : Reg) (a : Reg) (b : Reg)
  /-- FMA (R112): Computes A × B + C with one rounding. OPC 0x043. -/
  | fma (f : Fmt) (rm : RmF) (d : Reg) (a : Reg) (b : Reg) (c : Reg)
  /-- FMS (R112): Computes A × B − C with one rounding. OPC 0x044. -/
  | fms (f : Fmt) (rm : RmF) (d : Reg) (a : Reg) (b : Reg) (c : Reg)
  /-- FNMA (R112): Computes −(A × B) + C with one rounding. OPC 0x045. -/
  | fnma (f : Fmt) (rm : RmF) (d : Reg) (a : Reg) (b : Reg) (c : Reg)
  /-- FDIV (R112): Divides two scalar floats, correctly rounded, as a long-latency instruction. OPC 0x046. -/
  | fdiv (f : Fmt) (rm : RmF) (d : Reg) (a : Reg) (b : Reg) (la : BitVec 4)
  /-- FSQRT (R112): Computes the square root of a scalar float, correctly rounded. OPC 0x047. -/
  | fsqrt (f : Fmt) (rm : RmF) (d : Reg) (a : Reg) (la : BitVec 4)
  /-- FMIN (R113): Returns the smaller operand with the NaN rules of R113. OPC 0x048. -/
  | fmin (f : Fmt) (d : Reg) (a : Reg) (b : Reg)
  /-- FMAX (R113): Returns the larger operand with the NaN rules of R113. OPC 0x049. -/
  | fmax (f : Fmt) (d : Reg) (a : Reg) (b : Reg)
  /-- FCMP (R114): Writes all ones or zero by the float comparison in AUX. OPC 0x04A. -/
  | fcmp (f : Fmt) (k : FCond) (d : Reg) (a : Reg) (b : Reg)
  /-- FCVT (R115): Converts a float between formats. OPC 0x04B. -/
  | fcvt (f : Fmt) (rm : RmF) (sf : Fmt) (d : Reg) (a : Reg)
  /-- FCVTI (R115): Converts a float to an integer under R91. OPC 0x04C. -/
  | fcvti (f : Fmt) (rm : RmF) (ty : IntTy) (d : Reg) (a : Reg)
  /-- ICVTF (R115): Converts an integer to a float, rounded. OPC 0x04D. -/
  | icvtf (f : Fmt) (rm : RmF) (ty : IntTy) (d : Reg) (a : Reg)
  /-- FCLASS (R116): Writes the one-hot class of the operand. OPC 0x04E. -/
  | fclass (f : Fmt) (d : Reg) (a : Reg)
  /-- FSGN (R117): Writes A with a sign taken from B by k, moving bits. OPC 0x04F. -/
  | fsgn (f : Fmt) (k : SgnOp) (d : Reg) (a : Reg) (b : Reg)
  /-- FRND (R112): Rounds a float to an integral value in its own format. OPC 0x050. -/
  | frnd (f : Fmt) (rm : RmF) (d : Reg) (a : Reg)
  /-- JMP (R119): Jumps to PC + IMM. OPC 0x080. -/
  | jmp (imm : Word)
  /-- JR (R119): Jumps to g[A] + IMM. OPC 0x081. -/
  | jr (a : Reg) (imm : Word)
  /-- BR (R119): Branches to PC + IMM when the comparison of g[A] and g[B] in FN holds. OPC 0x082. -/
  | br (k : Cond) (a : Reg) (b : Reg) (imm : Word)
  /-- BZ (R119): Branches when g[A] is zero. OPC 0x083. -/
  | bz (a : Reg) (imm : Word)
  /-- BNZ (R119): Branches when g[A] is not zero. OPC 0x084. -/
  | bnz (a : Reg) (imm : Word)
  /-- BVF (R120): Branches on VFLAGS after every earlier VFLAGS writer has completed. OPC 0x085. -/
  | bvf (k : VfCond) (imm : Word)
  /-- CALL (R122): Stores the return address and vector-state word on the stack, pushes EM and jumps. OPC 0x086. -/
  | call (imm : Word)
  /-- CALLR (R122): As call, to g[A] + IMM. OPC 0x087. -/
  | callr (a : Reg) (imm : Word)
  /-- RET (R123): Restores EM, MSP and VCFG from the stack word and returns. OPC 0x088. -/
  | ret
  /-- LOOP (R124): Sets up a zero-overhead loop of n instructions repeated g[A] times. OPC 0x089. -/
  | loop (a : Reg) (n : BitVec 4)
  /-- EXIT (R126): Waits for earlier instructions, then ends the hart's part of the instance or joins a fork child. OPC 0x08A. -/
  | exit
  /-- LD (R231): Loads W bytes from the data space into g[D], extended. OPC 0x0C0. -/
  | ld (w : BitVec 2) (sx : Bool) (d : Reg) (a : Reg) (b : Reg) (imm : Word) (la : BitVec 4)
  /-- ST (R231): Stores W bytes of g[D] to the data space. OPC 0x0C1. -/
  | st (w : BitVec 2) (d : Reg) (a : Reg) (b : Reg) (imm : Word) (la : BitVec 4)
  /-- LD_ACQ (R231): Loads with acquire semantics at the named scope. OPC 0x0C2. -/
  | ldAcq (w : BitVec 2) (sx : Bool) (sc : BitVec 2) (d : Reg) (a : Reg) (b : Reg) (imm : Word) (la : BitVec 4)
  /-- ST_REL (R231): Stores with release semantics at the named scope. OPC 0x0C3. -/
  | stRel (w : BitVec 2) (sc : BitVec 2) (d : Reg) (a : Reg) (b : Reg) (imm : Word) (la : BitVec 4)
  /-- AMO (R232): Performs an atomic read-modify-write at the home slice, possibly combining. OPC 0x0C4. -/
  | amo (op : AmoOp) (w : BitVec 2) (cmb : Bool) (d : Reg) (a : Reg) (b : Reg) (sc : BitVec 2) (acq : Bool) (rel : Bool) (imm : Word) (la : BitVec 4)
  /-- CAS (R233): Compares and swaps atomically at the home, never combining. OPC 0x0C5. -/
  | cas (w : BitVec 2) (d : Reg) (a : Reg) (b : Reg) (c : Reg) (sc : BitVec 2) (acq : Bool) (rel : Bool) (imm : Word) (la : BitVec 4)
  /-- LD_P (R234): Loads from peer L-space after an ownership probe. OPC 0x0C6. -/
  | ldP (w : BitVec 2) (sx : Bool) (d : Reg) (a : Reg) (b : Reg) (imm : Word) (la : BitVec 4)
  /-- ST_P (R234): Stores to peer L-space after an ownership probe. OPC 0x0C7. -/
  | stP (w : BitVec 2) (d : Reg) (a : Reg) (b : Reg) (imm : Word) (la : BitVec 4)
  /-- LD_L (R231): Loads from the hart's own lane memory. OPC 0x0C8. -/
  | ldL (w : BitVec 2) (sx : Bool) (d : Reg) (a : Reg) (b : Reg) (imm : Word) (la : BitVec 4)
  /-- ST_L (R231): Stores to the hart's own lane memory. OPC 0x0C9. -/
  | stL (w : BitVec 2) (d : Reg) (a : Reg) (b : Reg) (imm : Word) (la : BitVec 4)
  /-- PF (R235): Prefetches a line into L1, L2 or the RDC, never trapping after decode. OPC 0x0CA. -/
  | pf (l2 : Bool) (a : Reg) (b : Reg) (imm : Word) (la : BitVec 4)
  /-- CFLUSH (R236): Writes a dirty home line back and invalidates local L1 and RDC copies. OPC 0x0CB. -/
  | cflush (a : Reg) (b : Reg) (imm : Word) (la : BitVec 4)
  /-- CINV (R236): Invalidates the line in local L1 and RDC. OPC 0x0CC. -/
  | cinv (a : Reg) (b : Reg) (imm : Word) (la : BitVec 4)
  /-- CPIN (R237): Pins the home line and writes a pin status. OPC 0x0CD. -/
  | cpin (d : Reg) (a : Reg) (b : Reg) (imm : Word) (la : BitVec 4)
  /-- CUNPIN (R237): Lowers the pin count of the home line and writes a status. OPC 0x0CE. -/
  | cunpin (d : Reg) (a : Reg) (b : Reg) (imm : Word) (la : BitVec 4)
  /-- SETVL (R136): Waits for the vector unit and landings, recomputes the grant by R23 and sets EW, GRP and VL. OPC 0x100. -/
  | setvl (keep : Bool) (d : Reg) (a : Reg) (ew : Ew) (grp : BitVec 2)
  /-- VCFG (R137): Changes selected VCFG fields and clamps VL without changing the grant. OPC 0x101. -/
  | vcfg (which : BitVec 4) (d : Reg) (a : Reg) (ew : BitVec 3) (grp : BitVec 2) (sc : BitVec 2) (rm : BitVec 3)
  /-- VMPUSH (R138): Pushes EM and narrows it by the mask, setting VFLAGS. OPC 0x102. -/
  | vmpush (c : Reg) (inv : Bool)
  /-- VMELSE (R138): Sets EM to TOS and not EM, setting VFLAGS. OPC 0x103. -/
  | vmelse
  /-- VMPOP (R138): Restores EM from the top of the mask stack. OPC 0x104. -/
  | vmpop
  /-- VMALL (R138): Sets EM to all ones. OPC 0x105. -/
  | vmall
  /-- FORK_LANES (R139): Splits the grant and starts a child hart at the target, or returns a failure status. OPC 0x106. -/
  | forkLanes (d : Reg) (imm : Word)
  /-- JOIN_LANES (R140): Waits for forked children, then ends a child or continues a parent. OPC 0x107. -/
  | joinLanes
  /-- VCLAIM (R141): Spills the trapped vector state to the save area and gives the handler a fresh vector state. OPC 0x108. -/
  | vclaim
  /-- VADD (R142): Elementwise integer add. OPC 0x140. -/
  | vadd (d : Reg) (a : Reg) (b : VSrc) (m : Mask)
  /-- VSUB (R142): Elementwise integer subtract. OPC 0x141. -/
  | vsub (d : Reg) (a : Reg) (b : VSrc) (m : Mask)
  /-- VADC (R142): Elementwise add with carry from v[C] bit 0. OPC 0x142. -/
  | vadc (d : Reg) (a : Reg) (b : VSrc) (c : Reg)
  /-- VMADC (R142): Produces the carry-out mask of a + b + c and sets VFLAGS. OPC 0x143. -/
  | vmadc (d : Reg) (a : Reg) (b : VSrc) (c : Reg)
  /-- VSBC (R142): Elementwise subtract with borrow. OPC 0x144. -/
  | vsbc (d : Reg) (a : Reg) (b : VSrc) (c : Reg)
  /-- VMSBC (R142): Produces the borrow mask of a − b − c and sets VFLAGS. OPC 0x145. -/
  | vmsbc (d : Reg) (a : Reg) (b : VSrc) (c : Reg)
  /-- VMUL (R142): Elementwise low product. OPC 0x146. -/
  | vmul (d : Reg) (a : Reg) (b : VSrc) (m : Mask)
  /-- VMULH (R142): Elementwise high signed product. OPC 0x147. -/
  | vmulh (d : Reg) (a : Reg) (b : VSrc) (m : Mask)
  /-- VMULHZ (R142): Elementwise high unsigned product. OPC 0x148. -/
  | vmulhz (d : Reg) (a : Reg) (b : VSrc) (m : Mask)
  /-- VMACC (R142): Elementwise multiply-accumulate into v[D]. OPC 0x149. -/
  | vmacc (d : Reg) (a : Reg) (b : VSrc) (m : Mask)
  /-- VDIV (R143): Elementwise signed division. OPC 0x14A. -/
  | vdiv (d : Reg) (a : Reg) (b : VSrc) (m : Mask) (la : BitVec 4)
  /-- VDIVZ (R143): Elementwise unsigned division. OPC 0x14B. -/
  | vdivz (d : Reg) (a : Reg) (b : VSrc) (m : Mask) (la : BitVec 4)
  /-- VREM (R143): Elementwise remainder, signed or unsigned by FN. OPC 0x14C. -/
  | vrem (sg : Sign) (d : Reg) (a : Reg) (b : VSrc) (m : Mask) (la : BitVec 4)
  /-- VAND (R142): Elementwise AND. OPC 0x14D. -/
  | vand (d : Reg) (a : Reg) (b : VSrc) (m : Mask)
  /-- VOR (R142): Elementwise OR. OPC 0x14E. -/
  | vor (d : Reg) (a : Reg) (b : VSrc) (m : Mask)
  /-- VXOR (R142): Elementwise XOR. OPC 0x14F. -/
  | vxor (d : Reg) (a : Reg) (b : VSrc) (m : Mask)
  /-- VSHL (R142): Elementwise shift left. OPC 0x150. -/
  | vshl (d : Reg) (a : Reg) (b : VSrc) (m : Mask)
  /-- VSHR (R142): Elementwise logical shift right. OPC 0x151. -/
  | vshr (d : Reg) (a : Reg) (b : VSrc) (m : Mask)
  /-- VSRA (R142): Elementwise arithmetic shift right. OPC 0x152. -/
  | vsra (d : Reg) (a : Reg) (b : VSrc) (m : Mask)
  /-- VMIN (R142): Elementwise signed minimum. OPC 0x153. -/
  | vmin (d : Reg) (a : Reg) (b : VSrc) (m : Mask)
  /-- VMAX (R142): Elementwise signed maximum. OPC 0x154. -/
  | vmax (d : Reg) (a : Reg) (b : VSrc) (m : Mask)
  /-- VUMIN (R142): Elementwise unsigned minimum. OPC 0x155. -/
  | vumin (d : Reg) (a : Reg) (b : VSrc) (m : Mask)
  /-- VUMAX (R142): Elementwise unsigned maximum. OPC 0x156. -/
  | vumax (d : Reg) (a : Reg) (b : VSrc) (m : Mask)
  /-- VCMP (R142): Elementwise integer compare producing a mask and VFLAGS. OPC 0x157. -/
  | vcmp (k : Cond) (d : Reg) (a : Reg) (b : VSrc) (m : Mask)
  /-- VSEL (R144): Selects a or b per element by the mask. OPC 0x158. -/
  | vsel (d : Reg) (a : Reg) (b : VSrc) (c : Reg) (inv : Bool)
  /-- VMOV (R142): Copies b to each active element. OPC 0x159. -/
  | vmov (d : Reg) (b : VSrc) (m : Mask)
  /-- VID (R142): Writes each element's index. OPC 0x15A. -/
  | vid (d : Reg) (m : Mask)
  /-- VCVTI (R145): Converts integer elements between widths, optionally saturating. OPC 0x15B. -/
  | vcvti (sg : Sign) (sat : Bool) (sw : Ew) (d : Reg) (a : Reg) (m : Mask)
  /-- VPOPC (R142): Counts active elements with bit 0 set into g[D]. OPC 0x15C. -/
  | vpopc (d : Reg) (a : Reg) (m : Mask)
  /-- VFIRST (R142): Writes the lowest active element with bit 0 set, or all ones. OPC 0x15D. -/
  | vfirst (d : Reg) (a : Reg) (m : Mask)
  /-- VLAST (R142): Writes the highest active element with bit 0 set, or all ones. OPC 0x15E. -/
  | vlast (d : Reg) (a : Reg) (m : Mask)
  /-- VSADD (R142): Elementwise saturating add. OPC 0x15F. -/
  | vsadd (sg : Sign) (d : Reg) (a : Reg) (b : VSrc) (m : Mask)
  /-- VSSUB (R142): Elementwise saturating subtract. OPC 0x160. -/
  | vssub (sg : Sign) (d : Reg) (a : Reg) (b : VSrc) (m : Mask)
  /-- VFADD (R146): Elementwise float add. OPC 0x180. -/
  | vfadd (f : Fmt) (rm : RmF) (d : Reg) (a : Reg) (b : VSrc) (m : Mask)
  /-- VFSUB (R146): Elementwise float subtract. OPC 0x181. -/
  | vfsub (f : Fmt) (rm : RmF) (d : Reg) (a : Reg) (b : VSrc) (m : Mask)
  /-- VFMUL (R146): Elementwise float multiply. OPC 0x182. -/
  | vfmul (f : Fmt) (rm : RmF) (d : Reg) (a : Reg) (b : VSrc) (m : Mask)
  /-- VFMA (R146): Elementwise fused a × b + d. OPC 0x183. -/
  | vfma (f : Fmt) (rm : RmF) (d : Reg) (a : Reg) (b : VSrc) (m : Mask)
  /-- VFMS (R146): Elementwise fused a × b − d. OPC 0x184. -/
  | vfms (f : Fmt) (rm : RmF) (d : Reg) (a : Reg) (b : VSrc) (m : Mask)
  /-- VFNMA (R146): Elementwise fused −(a × b) + d. OPC 0x185. -/
  | vfnma (f : Fmt) (rm : RmF) (d : Reg) (a : Reg) (b : VSrc) (m : Mask)
  /-- VFDIV (R146): Elementwise float divide. OPC 0x186. -/
  | vfdiv (f : Fmt) (rm : RmF) (d : Reg) (a : Reg) (b : VSrc) (m : Mask) (la : BitVec 4)
  /-- VFSQRT (R146): Elementwise float square root. OPC 0x187. -/
  | vfsqrt (f : Fmt) (rm : RmF) (d : Reg) (a : Reg) (m : Mask) (la : BitVec 4)
  /-- VFRSQE (R147): Elementwise reciprocal square-root estimate to 8 bits. OPC 0x188. -/
  | vfrsqe (f : Fmt) (d : Reg) (a : Reg) (m : Mask)
  /-- VFRECE (R147): Elementwise reciprocal estimate to 8 bits. OPC 0x189. -/
  | vfrece (f : Fmt) (d : Reg) (a : Reg) (m : Mask)
  /-- VFMIN (R146): Elementwise float minimum. OPC 0x18A. -/
  | vfmin (f : Fmt) (d : Reg) (a : Reg) (b : VSrc) (m : Mask)
  /-- VFMAX (R146): Elementwise float maximum. OPC 0x18B. -/
  | vfmax (f : Fmt) (d : Reg) (a : Reg) (b : VSrc) (m : Mask)
  /-- VFCMP (R148): Elementwise float compare producing a mask and VFLAGS. OPC 0x18C. -/
  | vfcmp (f : Fmt) (k : FCond) (d : Reg) (a : Reg) (b : VSrc) (m : Mask)
  /-- VFCVT (R146): Elementwise float format conversion. OPC 0x18D. -/
  | vfcvt (f : Fmt) (rm : RmF) (sf : Fmt) (d : Reg) (a : Reg) (m : Mask)
  /-- VFCVTI (R146): Elementwise float to integer conversion. OPC 0x18E. -/
  | vfcvti (f : Fmt) (rm : RmF) (u : Bool) (d : Reg) (a : Reg) (m : Mask)
  /-- VICVTF (R146): Elementwise integer to float conversion. OPC 0x18F. -/
  | vicvtf (f : Fmt) (rm : RmF) (u : Bool) (d : Reg) (a : Reg) (m : Mask)
  /-- VFCLASS (R146): Elementwise one-hot float class. OPC 0x190. -/
  | vfclass (f : Fmt) (d : Reg) (a : Reg) (m : Mask)
  /-- VFSGN (R146): Elementwise sign injection. OPC 0x191. -/
  | vfsgn (f : Fmt) (k : SgnOp) (d : Reg) (a : Reg) (b : VSrc) (m : Mask)
  /-- VFRND (R146): Elementwise round to integral value. OPC 0x192. -/
  | vfrnd (f : Fmt) (rm : RmF) (d : Reg) (a : Reg) (m : Mask)
  /-- VSLIDEUP (R150): Moves elements up by an offset. OPC 0x1C0. -/
  | vslideup (d : Reg) (a : Reg) (off : SlideOff) (pair : Bool) (m : Mask)
  /-- VSLIDEDN (R150): Moves elements down by an offset, zero-filling beyond VLMAX. OPC 0x1C1. -/
  | vslidedn (d : Reg) (a : Reg) (off : SlideOff) (pair : Bool) (m : Mask)
  /-- VGATHER_R (R150): Gathers register elements by index. OPC 0x1C2. -/
  | vgatherR (d : Reg) (a : Reg) (b : Reg) (pair : Bool) (m : Mask)
  /-- VCOMPRESS (R150): Packs active elements densely. OPC 0x1C3. -/
  | vcompress (d : Reg) (a : Reg) (pair : Bool) (m : Mask)
  /-- VEXPAND (R150): Spreads dense elements into active positions. OPC 0x1C4. -/
  | vexpand (d : Reg) (a : Reg) (pair : Bool) (m : Mask)
  /-- VREDADD (R153): Integer sum reduction into g[D]. OPC 0x1C5. -/
  | vredadd (sg : Sign) (d : Reg) (a : Reg) (b : Reg) (m : Mask)
  /-- VREDMAX (R153): Integer maximum reduction into g[D]. OPC 0x1C6. -/
  | vredmax (sg : Sign) (d : Reg) (a : Reg) (b : Reg) (m : Mask)
  /-- VREDMIN (R153): Integer minimum reduction into g[D]. OPC 0x1C7. -/
  | vredmin (sg : Sign) (d : Reg) (a : Reg) (b : Reg) (m : Mask)
  /-- VFREDADD (R154): Float sum reduction in ordered or tree order. OPC 0x1C8. -/
  | vfredadd (f : Fmt) (rm : RmF) (tree : Bool) (d : Reg) (a : Reg) (b : Reg) (m : Mask)
  /-- VFREDMAX (R154): Float maximum reduction. OPC 0x1C9. -/
  | vfredmax (f : Fmt) (d : Reg) (a : Reg) (b : Reg) (m : Mask)
  /-- VFREDMIN (R154): Float minimum reduction. OPC 0x1CA. -/
  | vfredmin (f : Fmt) (d : Reg) (a : Reg) (b : Reg) (m : Mask)
  /-- VBFLY (R155): Applies one Hadamard butterfly stage at distance dist. OPC 0x1CB. -/
  | vbfly (f : Fmt) (rm : RmF) (d : Reg) (a : Reg) (dist : BitVec 14) (m : Mask)
  /-- VEXTR (R151): Extracts element g[B] into g[D]. OPC 0x1CC. -/
  | vextr (sg : Sign) (d : Reg) (a : Reg) (b : Reg)
  /-- VINSR (R151): Inserts g[A] into element g[B]. OPC 0x1CD. -/
  | vinsr (d : Reg) (a : Reg) (b : Reg)
  /-- VLD (R239): Unit-stride vector load, all-or-nothing. OPC 0x200. -/
  | vld (d : Reg) (a : Reg) (b : Reg) (imm : Word) (m : Mask) (la : BitVec 4)
  /-- VST (R239): Unit-stride vector store, all-or-nothing. OPC 0x201. -/
  | vst (d : Reg) (a : Reg) (b : Reg) (imm : Word) (m : Mask) (la : BitVec 4)
  /-- VLDS (R239): Strided vector load. OPC 0x202. -/
  | vlds (d : Reg) (a : Reg) (b : Reg) (imm : Word) (m : Mask) (la : BitVec 4)
  /-- VSTS (R239): Strided vector store. OPC 0x203. -/
  | vsts (d : Reg) (a : Reg) (b : Reg) (imm : Word) (m : Mask) (la : BitVec 4)
  /-- VLDX (R239): Indexed vector load. OPC 0x204. -/
  | vldx (d : Reg) (a : Reg) (b : Reg) (iw : Ew) (scale : BitVec 2) (m : Mask) (la : BitVec 4)
  /-- VSTX (R239): Indexed vector store. OPC 0x205. -/
  | vstx (d : Reg) (a : Reg) (b : Reg) (iw : Ew) (scale : BitVec 2) (m : Mask) (la : BitVec 4)
  /-- VLD_L (R239): Unit-stride load from lane memory. OPC 0x206. -/
  | vldL (d : Reg) (a : Reg) (b : Reg) (imm : Word) (m : Mask) (la : BitVec 4)
  /-- VST_L (R239): Unit-stride store to lane memory. OPC 0x207. -/
  | vstL (d : Reg) (a : Reg) (b : Reg) (imm : Word) (m : Mask) (la : BitVec 4)
  /-- VLDX_L (R239): Indexed load from lane memory. OPC 0x208. -/
  | vldxL (d : Reg) (a : Reg) (b : Reg) (iw : Ew) (scale : BitVec 2) (m : Mask) (la : BitVec 4)
  /-- VSTX_L (R239): Indexed store to lane memory. OPC 0x209. -/
  | vstxL (d : Reg) (a : Reg) (b : Reg) (iw : Ew) (scale : BitVec 2) (m : Mask) (la : BitVec 4)
  /-- VPGATHER (R242): Peer gather that writes a fault mask instead of trapping. OPC 0x20A. -/
  | vpgather (d : Reg) (b : Reg) (f : BitVec 6) (m : Mask) (la : BitVec 4)
  /-- VPSCATTER (R242): Peer scatter that writes a fault mask instead of trapping. OPC 0x20B. -/
  | vpscatter (d : Reg) (b : Reg) (f : BitVec 6) (m : Mask) (la : BitVec 4)
  /-- VST_P (R239): Unit-stride store to peer lane memory. OPC 0x20C. -/
  | vstP (d : Reg) (a : Reg) (b : Reg) (imm : Word) (m : Mask) (la : BitVec 4)
  /-- VAMO (R243): Elementwise atomics at indexed data addresses, combining equal addresses. OPC 0x20D. -/
  | vamo (op : AmoOp) (cmb : Bool) (d : Reg) (a : Reg) (b : Reg) (iw : Ew) (scale : BitVec 2) (acq : Bool) (rel : Bool) (m : Mask) (la : BitVec 4)
  /-- VLDX_M (R242): Indexed load that writes a fault mask instead of trapping. OPC 0x20E. -/
  | vldxM (d : Reg) (a : Reg) (b : Reg) (iw : Ew) (scale : BitVec 2) (f : BitVec 6) (m : Mask) (la : BitVec 4)
  /-- MCLR (R166): Sets every element of a tile to +0, taking the matrix claim. OPC 0x240. -/
  | mclr (t : BitVec 3)
  /-- MLD_T (R167): Loads a whole tile from memory, all-or-nothing. OPC 0x241. -/
  | mldT (f : TFmt) (t : BitVec 3) (a : Reg) (b : Reg) (sp : Bool) (imm : Word) (la : BitVec 4)
  /-- MST_T (R167): Stores a whole tile to memory, rounding narrower formats. OPC 0x242. -/
  | mstT (f : TFmt) (rm : RmF) (sat : Bool) (t : BitVec 3) (a : Reg) (b : Reg) (sp : Bool) (imm : Word) (la : BitVec 4)
  /-- MLD_W (R168): Loads a weight-buffer panel from a dense, 2:4 or 4:8 image. OPC 0x243. -/
  | mldW (slot : BitVec 2) (panel : BitVec 4) (form : WForm) (scl : Bool) (a : Reg) (b : Reg) (sp : Bool) (imm : Word) (la : BitVec 4)
  /-- MMA (R169): Adds A × panel into tile rows under the ordered sum of R101. OPC 0x244. -/
  | mma (f : MFmt) (sat : Bool) (t : BitVec 3) (a : Reg) (slot : BitVec 2) (panel : BitVec 4) (row0 : BitVec 5) (la : BitVec 4)
  /-- MVT (R171): Moves tile rows to or from a vector register. OPC 0x245. -/
  | mvt (toTile : Bool) (d : Reg) (a : Reg) (row0 : BitVec 5)
  /-- MCMD (R180): Sends a remote matrix command descriptor with a capability to another core. OPC 0x246. -/
  | mcmd (trap : Bool) (d : Reg) (a : Reg) (b : Reg) (c : Reg) (la : BitVec 4)
  /-- MWAIT (R181): Waits until every mcmd of the hart has its status. OPC 0x247. -/
  | mwait
  /-- DTAB_LD (R172): Loads a decode table from a 1 KiB image as one step. OPC 0x248. -/
  | dtabLd (n : BitVec 2) (a : Reg) (sp : Bool) (imm : Word) (la : BitVec 4)
  /-- VCVT_Q (R174): Encodes binary32 blocks into table codes with scale words. OPC 0x249. -/
  | vcvtQ (q : Code) (d : Reg) (a : Reg) (b : Reg) (m : Mask)
  /-- VCVT_DQ (R175): Decodes table codes with scales into binary32. OPC 0x24A. -/
  | vcvtDq (q : Code) (sat : Bool) (d : Reg) (a : Reg) (m : Mask)
  /-- VSCL (R176): Multiplies block scale words by a factor and optionally retags the table. OPC 0x24B. -/
  | vscl (q : Code) (sat : Bool) (d : Reg) (a : Reg) (b : Reg) (tab : BitVec 3) (m : Mask)
  /-- VHADQ (R177): Applies a Hadamard transform per block and encodes the result. OPC 0x24C. -/
  | vhadq (q : Code) (d : Reg) (a : Reg) (b : Reg) (n : BitVec 6) (m : Mask)
  /-- CP_START (R289): Reads and probes a copy descriptor and enqueues the copy on a channel. OPC 0x280. -/
  | cpStart (ch : BitVec 3) (a : Reg) (sp : Bool) (imm : Word) (la : BitVec 4)
  /-- CP_SEAL (R286): Closes the started copies into a numbered batch. OPC 0x281. -/
  | cpSeal (d : Reg) (la : BitVec 4)
  /-- CP_WAIT (R287): Waits until at most n batches are unfinished, acquiring finished batches. OPC 0x282. -/
  | cpWait (n : BitVec 16)
  /-- SBIND (R290): Binds a register group to a channel as a stream. OPC 0x283. -/
  | sbind (out : Bool) (d : Reg) (ch : BitVec 3)
  /-- SUNBIND (R285): Ends a stream binding, discarding remaining bytes. OPC 0x284. -/
  | sunbind (d : Reg)
  /-- Q_PUSH (R268): Appends n lane-memory records to an agent or engine input port. OPC 0x285. -/
  | qPush (qh : BitVec 4) (a : Reg) (n : BitVec 7) (la : BitVec 4)
  /-- Q_POP (R269): Removes one record from an output port into lane memory and writes a status. OPC 0x286. -/
  | qPop (try_ : Bool) (qh : BitVec 4) (d : Reg) (a : Reg) (la : BitVec 4)
  /-- Q_NOTIFY (R270): Writes a tail notify value, or requests hold or release of a launch queue. OPC 0x287. -/
  | qNotify (what : Notify) (qh : BitVec 4) (a : Reg) (la : BitVec 4)
  /-- Q_CANCEL (R271): Removes the unplaced instances of a launch and returns first index and count. OPC 0x288. -/
  | qCancel (qh : BitVec 4) (d : Reg) (a : Reg) (la : BitVec 4)
  /-- MSG_SEND (R299): Sends a handler message to the home slice of the target line. OPC 0x289. -/
  | msgSend (mode : MsgMode) (d : Reg) (a : Reg) (b : Reg) (c : Reg) (qh : BitVec 4) (la : BitVec 4)
  /-- HRET (R301): Commits a handler activation as one step and sends its reply or onward message. OPC 0x28A. -/
  | hret (a : Reg)
  /-- GANG_FORM (R272): Arrives for a gang on adjacent cores and waits for the other members. OPC 0x28B. -/
  | gangForm (d : Reg) (a : Reg) (b : Reg) (size : BitVec 2)
  /-- GANG_SPLIT (R274): Dissolves the gang after every member's earlier instructions complete. OPC 0x28C. -/
  | gangSplit
  /-- RAST_SETUP (R316): Fills a raster-state slot from a primitive entry in fixed point. OPC 0x2C0. -/
  | rastSetup (s : BitVec 2) (d : Reg) (a : Reg) (b : Reg)
  /-- RAST_COVER (R318): Writes 4×4 block coverage masks from a raster slot. OPC 0x2C1. -/
  | rastCover (s : BitVec 2) (d : Reg) (a : Reg) (m : Mask)
  /-- RAST_ATTR (R319): Writes interpolated depth, weights or previous positions per pixel. OPC 0x2C2. -/
  | rastAttr (what : Attr) (s : BitVec 2) (d : Reg) (a : Reg) (m : Mask)
  /-- VSAMPLE (R331): Samples a texture per element, element-precise on faults. OPC 0x2C3. -/
  | vsample (d : Reg) (a : Reg) (b : Reg) (m : Mask) (la : BitVec 4)
  /-- VSAMPLE_M (R332): Samples a texture per element, writing a fault mask. OPC 0x2C4. -/
  | vsampleM (d : Reg) (a : Reg) (b : Reg) (f : BitVec 6) (m : Mask) (la : BitVec 4)
  /-- RQ_INIT (R379): Reads rays and pins the current generation of an AS entry, opening a query set. OPC 0x2C5. -/
  | rqInit (q : Bool) (d : Reg) (a : Reg) (b : Reg) (m : Mask) (la : BitVec 4)
  /-- RQ_STEP (R380): Advances each ray by up to n node visits. OPC 0x2C6. -/
  | rqStep (q : Bool) (d : Reg) (n : BitVec 13) (m : Mask) (la : BitVec 4)
  /-- RQ_GET (R381): Reads a field of the committed hit or candidate. OPC 0x2C7. -/
  | rqGet (fld : RqField) (q : Bool) (cand : Bool) (d : Reg) (m : Mask)
  /-- RQ_COMMIT (R382): Accepts the candidate hits of rays in status 1. OPC 0x2C8. -/
  | rqCommit (q : Bool) (m : Mask)
  /-- RQ_END (R383): Waits for fetches, drops the pin and closes the query set. OPC 0x2C9. -/
  | rqEnd (q : Bool)
  /-- BLD_CMD (R374): Sends a builder command record to the die's builder and returns its SEQ. OPC 0x2CA. -/
  | bldCmd (d : Reg) (a : Reg) (la : BitVec 4)
  /-- FENCE (R245): Orders the hart's accesses by kind FULL, REL, ACQ or PEER at a scope. OPC 0x300. -/
  | fence (kind : BitVec 2) (sc : BitVec 2)
  /-- WAIT (R246): Reads a location and waits until a condition holds or a timeout expires. OPC 0x301. -/
  | wait (k : WCond) (w : BitVec 2) (d : Reg) (a : Reg) (b : Reg) (c : Reg) (sp : Bool) (imm : Word)
  /-- BAR (R247): Arrives at a group barrier and waits for the phase to complete. OPC 0x302. -/
  | bar (slot : BitVec 2)
  /-- GRP_RED (R248): Arrives with a value and receives the group reduction. OPC 0x303. -/
  | grpRed (op : RedOp) (d : Reg) (a : Reg) (slot : BitVec 2)
  /-- GRP_BCAST (R248): Arrives and receives the root member's value. OPC 0x304. -/
  | grpBcast (d : Reg) (a : Reg) (slot : BitVec 2) (root : BitVec 16)
  /-- CRR (R80): Reads a control register into g[D]. OPC 0x340. -/
  | crr (d : Reg) (cr : BitVec 12)
  /-- CRW (R80): Writes a control register from g[A], returning the old value. OPC 0x341. -/
  | crw (d : Reg) (a : Reg) (cr : BitVec 12)
  /-- CRSET (R80): Sets control-register bits from g[A]. OPC 0x342. -/
  | crset (d : Reg) (a : Reg) (cr : BitVec 12)
  /-- CRCLR (R80): Clears control-register bits from g[A]. OPC 0x343. -/
  | crclr (d : Reg) (a : Reg) (cr : BitVec 12)
  /-- ECALL (R412): Raises ECALL_U or ECALL_S. OPC 0x344. -/
  | ecall (n : BitVec 16)
  /-- SRET (R411): Checks and restores the saved vector state and returns to the trapped mode. OPC 0x345. -/
  | sret
  /-- BRK (R412): Raises BREAK with TVAL = IMM[15:0]. OPC 0x346. -/
  | brk (n : BitVec 16)
  /-- WFI (R413): Waits until an interrupt is pending. OPC 0x347. -/
  | wfi
  /-- ICINV (R249): Drains the VIQ and invalidates an instruction-cache line or the whole cache. OPC 0x348. -/
  | icinv (all : Bool) (a : Reg) (imm : Word)
  /-- TLBINV (R344): Removes the VI's matching translations from every TLB and walker cache. OPC 0x349. -/
  | tlbinv (kind : TlbKind) (space : TlbSpace) (a : Reg) (b : Reg)
  /-- VMLD (R183): Deprecated form of mld.t.s from the data space. OPC 0x380. -/
  | vmld (t : BitVec 3) (a : Reg) (b : Reg) (imm : Word) (la : BitVec 4)
  /-- VMST (R183): Deprecated form of mst.t.s to the data space. OPC 0x381. -/
  | vmst (t : BitVec 3) (a : Reg) (b : Reg) (imm : Word) (la : BitVec 4)
  /-- BMSK (R183): Writes bit i mod 64 of g[A] to each element. OPC 0x382. -/
  | bmsk (d : Reg) (a : Reg) (m : Mask)
  /-- MMA_S48 (R170): Multiplies A by a 4:8 sparse panel into a tile, stepping B0 only. OPC 0x3C0. -/
  | mmaS48 (sat : Bool) (t : BitVec 3) (a : Reg) (slot : BitVec 2) (panel : BitVec 4) (row0 : BitVec 5) (la : BitVec 4)
  /-- RQ_SORT (R384): Stable-sorts the rays of a query set by status and octant, stepping B0 only. OPC 0x3C1. -/
  | rqSort (q : Bool) (d : Reg) (m : Mask) (la : BitVec 4)
  /-- WAIT_CONDITION_MET (R246): A write that makes the awaited condition true ends the wait. -/
  | waitConditionMet (h : Nat)
  /-- WAIT_TIMEOUT (R246): The wait's timeout of g[C] cycles expires. -/
  | waitTimeout (h : Nat)
  /-- LONG_LATENCY_COMPLETE (R55): A long-latency instruction completes, closing its lookahead window or poisoning destinations. -/
  | longLatencyComplete (h k : Nat) (how : Landing)
  /-- TRAP_ENTRY (R403): A trap or interrupt completes open windows, writes the trap set and save area, freezes the vector unit and enters the handler. -/
  | trapEntry (h bound : Nat)
  /-- CYCLE_MATCH (R387): CYCLE reaches CYCCMP.VALUE and raises CYCLE_MATCH. -/
  | cycleMatch (h : Nat)
  /-- STOP_TAKEN (R396): A requested stop or single step is taken as BREAK at an allowed point. -/
  | stopTaken (h bound : Nat)
  /-- STOP_REGISTER_WRITE (R397): A write of a hart's stop register resumes a held hart or requests a stop. -/
  | stopRegisterWrite (h : Nat) (v : Word)
  /-- MIGRATION_PLACE (R40): A place on a G-core becomes available and the whole context moves and resumes. -/
  | migrationPlace (h : Nat)
  /-- MATRIX_CLAIM_GRANT (R158): A hart waiting for a matrix claim takes it when released, restoring saved state or zeroing. -/
  | matrixClaimGrant (h : Nat)
  /-- LANE_RECLAIM (R26): The scheduler lowers a hart's CEIL, starting a reclaim window. -/
  | laneReclaim (h ceil : Nat) (whom : Recipient)
  /-- RECLAIM_WINDOW_EXPIRY (R414): The reclaim window expires and PREEMPT is raised in the victim. -/
  | reclaimWindowExpiry (h late : Nat)
  /-- FULL_SWITCH (R415): Firmware saves the context into a context record, frees the hart and saves the matrix claim. -/
  | fullSwitch (h : Nat)
  /-- CONTEXT_RESUME (R416): A saved context is placed back on its core and resumes, taking RECLAIM_TIMEOUT when delegated. -/
  | contextResume (vi unit : Nat)
  /-- SEQUENCER_ROUND (R36): One deficit-weighted round of strip issue across the queues of a priority. -/
  | sequencerRound (core : Nat)
  /-- TAIL_NOTIFY_WRITE (R256): A write to a launch queue's tail notify register is applied if newer and wakes the dispatcher. -/
  | tailNotifyWrite (vi slot : Nat) (x : BitVec 32)
  /-- DISPATCHER_CONSUME (R257): The dispatcher reads the record at HEAD, checks and consumes it, and advances HEAD. -/
  | dispatcherConsume (q : Nat)
  /-- RECORD_REREAD (R257): The dispatcher rereads an invalid record at least every 2,048 cycles. -/
  | recordReread (q : Nat)
  /-- DISPATCH (R262): The dispatcher places the next instance on a hart with its entry state. -/
  | dispatch (q : Nat)
  /-- PREEMPT_DELAY_EXPIRY (R264): An instance waits PREEMPT_DELAY cycles and the scheduler reclaims or pre-empts a lower-priority hart. -/
  | preemptDelayExpiry (q : Nat)
  /-- INSTANCE_RETIRE (R18): The root has exited and all children joined: lanes are freed, pins dropped and the completion counter incremented. -/
  | instanceRetire (h : Nat)
  /-- LAUNCH_RETIRE (R259): A launch whose instances are all removed or of COUNT 0 retires when its order permits. -/
  | launchRetire (q : Nat) (j : BitVec 32)
  /-- GANG_FORMED (R272): The last member arrives and the gang forms. -/
  | gangFormed (h : Nat)
  /-- GANG_FORM_TIMEOUT (R272): The gang.form timeout expires and the arrival is withdrawn. -/
  | gangFormTimeout (h : Nat)
  /-- COPY_BEGIN (R279): The stream dispatcher begins a queued copy when the previous one has landed. -/
  | copyBegin (h ch : Nat)
  /-- COPY_ELEMENT_LAND (R280): An element of a copy lands, advancing CHWP and setting landed bits. -/
  | copyElementLand (h ch e : Nat) (err : Option ErrCause)
  /-- PAGE_WALK (R333): A walker translates an address through five levels and fills a TLB. -/
  | pageWalk (h : Nat) (inst : Bool) (va : Word)
  /-- HOME_ACCESS (R199): A slice performs an access or atomic to one of its home lines. -/
  | homeAccess (k : Nat)
  /-- RDC_INVALIDATE (R203): An invalidation arrives at a die's RDC and is acknowledged. -/
  | rdcInvalidate (die line : Nat)
  /-- PEER_ACCESS_ARRIVE (R191): A peer access arrives at the destination core and is performed on its lane memory. -/
  | peerAccessArrive (k : Nat) (lost : Bool)
  /-- ATM_COMBINE (R295): Two combinable atomic requests meet in a switch queue and one absorbs the other. -/
  | atmCombine (y x : Nat)
  /-- REPLY_SPLIT (R296): A reply passing a switch with wait-buffer entries is split to their requesters. -/
  | replySplit (k : Nat)
  /-- ESCAPE_MOVE (R293): A REQ or MSG packet blocked 4,096 cycles moves to the escape channel. -/
  | escapeMove (die router : Nat)
  /-- LINK_RETRAIN (R297): A die-to-die link retrains and replays flits. -/
  | linkRetrain (link flits : Nat) (half : Bool)
  /-- LINK_DOWN (R298): A retrain longer than 100 µs takes the link down and completes in-flight packets with LINK_LOST. -/
  | linkDown (link : Nat) (performed : Bool)
  /-- ROUTE_RECOMPUTE (R436): Firmware recomputes the die routes around a lost link. -/
  | routeRecompute (link : Nat)
  /-- SHEET_PORT_DOWN (R437): A Sheet port retrain longer than 100 µs takes the port down. -/
  | sheetPortDown (port : Nat)
  /-- SHEET_ACCESS_ARRIVE (R438): A sheet-peer access arrives at the destination module and is translated or refused. -/
  | sheetAccessArrive (vi : Nat) (asid : BitVec 16) (addr : Word) (req : SheetReq)
  /-- DRAM_SCRUB (R205): The memory controllers read and correct every backed line every 24 hours. -/
  | dramScrub (die line : Nat) (found : ScrubFinding)
  /-- HANDLER_ACTIVATION (R300): A message accepted at a slice starts a handler activation on its Pip core. -/
  | handlerActivation (slice : Nat)
  /-- HANDLER_REPLY_PUSH (R302): A mode 2 reply record is pushed to its reply port once there is room. -/
  | handlerReplyPush (slice : Nat)
  /-- MSG_REPLY_ARRIVE (R299): A mode 1 reply arrives and writes status and value to the sender. -/
  | msgReplyArrive (h k : Nat) (lost : Bool)
  /-- REMOTE_MCLR (R179): A remote MCLR command clears a tile after capability checks. -/
  | remoteMclr (k : Nat)
  /-- REMOTE_MLD_T (R179): A remote MLD_T command loads a tile. -/
  | remoteMldT (k : Nat)
  /-- REMOTE_MST_T (R179): A remote MST_T command stores a tile under RNE. -/
  | remoteMstT (k : Nat)
  /-- REMOTE_MLD_W (R179): A remote MLD_W command loads a panel. -/
  | remoteMldW (k : Nat)
  /-- MMA16 (R179): A remote MMA16 command adds A from memory times a panel into a tile. -/
  | mma16 (k : Nat)
  /-- MCMD_STATUS_ARRIVE (R180): An mcmd status arrives, writes g[D] and acquires. -/
  | mcmdStatusArrive (k : Nat) (lost : Bool)
  /-- PRIMITIVE_RECORD (R309): The distributor clips, projects, culls and bins a primitive record. -/
  | primitiveRecord (die vi : Nat)
  /-- DISTRIBUTOR_SETUP (R307): A SETUP record flushes and fixes viewport, target and buffer. -/
  | distributorSetup (die vi : Nat)
  /-- DISTRIBUTOR_FLUSH (R308): FLUSH posts every tile that holds entries. -/
  | distributorFlush (die vi : Nat)
  /-- DISTRIBUTOR_FENCE (R308): FENCE flushes and later adds 1 to a counter once earlier passes complete. -/
  | distributorFence (die vi : Nat)
  /-- DISTRIBUTOR_FENCE_COUNT (R308): The fence's counter amo.add is performed after every earlier pass completes. -/
  | distributorFenceCount (die vi : Nat)
  /-- DISTRIBUTOR_CLOSE (R308): CLOSE flushes and closes the tile queue. -/
  | distributorClose (die vi : Nat)
  /-- BUFFER_FULL_RESUME (R312): After posted passes complete and free chunks, the distributor resumes binning. -/
  | bufferFullResume (die vi : Nat)
  /-- TILE_POST (R313): A tile record is written to the tile queue once earlier passes of the tile completed. -/
  | tilePost (die vi tx ty : Nat)
  /-- PASS_END (R314): A pass-end record arrives with the ticket count of a pass. -/
  | passEnd (die vi : Nat)
  /-- REPROJECTION_SETUP (R320): A reprojection setup record configures the history buffers. -/
  | reprojectionSetup (die vi : Nat)
  /-- BLOCK_REQUEST (R323): The agent tests history per pixel, reserves a window entry, posts fragments and sends the agent part. -/
  | blockRequest (die vi : Nat)
  /-- BLEND_REQUEST (R325): A shader's blend request fills the reserved ticket entry. -/
  | blendRequest (die vi : Nat)
  /-- TICKET_COMMIT (R326): A complete ticket commits in SEQ order, blending pixels and notifying the distributor. -/
  | ticketCommit (slice vi : Nat) (ticket : BitVec 48)
  /-- BUILD (R368): Builds and stages a new generation. -/
  | build (die vi k : Nat)
  /-- REFIT (R368): Stages a generation with the source topology refitted to new input. -/
  | refit (die vi k : Nat)
  /-- REBALANCE (R368): Stages a generation with costly subtrees rebuilt. -/
  | rebalance (die vi k : Nat)
  /-- PUBLISH (R368): Makes the staged generation CURRENT, waiting for a free live slot. -/
  | publish (die vi k : Nat)
  /-- RETIRE (R368): Discards a staged generation or makes the current one OLD. -/
  | retire (die vi k : Nat)
  /-- QUERY (R368): Reports counters and page estimates of a generation. -/
  | query (die vi k : Nat)
  /-- POWER_INTERVAL (R435): Every 100 µs the controller compares die power with its cap and adjusts REEF and FSTEP. -/
  | powerInterval (die : Nat) (power : List Nat)
  /-- POWER_CAP_OVERRUN (R435): A die above its cap for 10 ms at the floor writes an error record and signals vector 31. -/
  | powerCapOverrun (die power : Nat)
  /-- POWER_ON_RESET (R429): Power-on or module reset runs the boot steps in order. -/
  | powerOnReset (fails : List BootFailure)
  /-- VF_ENABLE (R428): Setting VF Enable creates the VF's VI. -/
  | vfEnable (port n : Nat)
  /-- VF_DISABLE (R428): Clearing VF Enable resets and removes the VF's VI. -/
  | vfDisable (port n : Nat)
  /-- COMMAND_DOORBELL (R424): A command-queue doorbell write makes firmware read commands up to the tail. -/
  | commandDoorbell (vi cq : Nat) (tail : BitVec 32)
  /-- CQBASE_WRITE (R423): Writing CQBASE sets the ring and resets head and tail. -/
  | cqbaseWrite (vi cq : Nat) (v : Word)
  /-- RDCWAYS_WRITE (R202): A change of RDCWAYS drops RDC copies, writes back given ways and applies the new value. -/
  | rdcwaysWrite (die : Nat) (v : Word)
  /-- OWNERSHIP_WRITE (R190): A change of a lane-memory ownership entry zeroes the block before taking effect. -/
  | ownershipWrite (core block : Nat) (by_ : Writer) (v : BitVec 32)
  /-- REGISTER_WRITE (R7): A write to a register with no behaviour of its own. -/
  | registerWrite (t : RegTarget) (v : Word)
  /-- IDENTIFY (R456): Writes the identity, VI entry and opcode lifetime table. -/
  | identify (c : Cmd)
  /-- ATTEST (R432): Carries an SPDM 1.3 exchange for the VI. -/
  | attest (c : Cmd)
  /-- CREATE_AS (R345): Creates an address space and removes old TLB entries of the ASID. -/
  | createAs (c : Cmd)
  /-- DESTROY_AS (R427): Destroys an address space once unused. -/
  | destroyAs (c : Cmd)
  /-- MAP (R455): Writes leaves and invalidates replaced translations. -/
  | map (c : Cmd)
  /-- UNMAP (R455): Invalidates leaves and removes their translations. -/
  | unmap (c : Cmd)
  /-- MIGRATE (R427): Copies a page to a new physical page and remaps it. -/
  | migrate (c : Cmd)
  /-- LOAD_CODE (R460): Checks and places a code object in the instruction and data spaces. -/
  | loadCode (c : Cmd)
  /-- CREATE_QUEUE (R348): Creates a queue in a slot and assigns a device queue number. -/
  | createQueue (c : Cmd)
  /-- DESTROY_QUEUE (R348): Removes unplaced instances, waits for placed ones, and frees the queue. -/
  | destroyQueue (c : Cmd)
  /-- SET_KEY (R433): Loads XTS keys into a key slot. -/
  | setKey (c : Cmd)
  /-- CLEAR_KEY (R342): Writes back lines of a key slot and erases the key. -/
  | clearKey (c : Cmd)
  /-- SET_SHARE (R457): Sets lane-memory ownership, queue share, reclaim window and pre-empt delay. -/
  | setShare (c : Cmd)
  /-- SET_POWER_CAP (R435): Sets the module and per-die power caps. -/
  | setPowerCap (c : Cmd)
  /-- CREATE_GROUP_TEMPLATE (R351): Writes a group template. -/
  | createGroupTemplate (c : Cmd)
  /-- CREATE_CAP (R355): Issues a matrix capability, or revokes or rotates the key. -/
  | createCap (c : Cmd)
  /-- CREATE_ASTRUCT (R361): Creates an AS table entry with its pool. -/
  | createAstruct (c : Cmd)
  /-- SET_RDC (R202): Sets RDCWAYS for a set of dies. -/
  | setRdc (c : Cmd)
  /-- PIN_QUOTA (R208): Sets the VI's pinned-line quota. -/
  | pinQuota (c : Cmd)
  /-- INSTALL_HANDLERS (R358): Installs a handler image and scratch regions. -/
  | installHandlers (c : Cmd)
  /-- SET_BUDGET (R427): Sets the VI's handler budget. -/
  | setBudget (c : Cmd)
  /-- RESET_VI (R427): Stops the VI's work and releases and zeroes its resources. -/
  | resetVi (c : Cmd)
  /-- READ_COUNTERS (R427): Sets event selectors and copies counters. -/
  | readCounters (c : Cmd)
  /-- TRACE_START (R391): Starts tracing into a VI's buffer. -/
  | traceStart (c : Cmd)
  /-- TRACE_STOP (R427): Stops tracing and returns the final WIDX. -/
  | traceStop (c : Cmd)
  /-- SHEET_CONFIG (R438): Sets the module number, route table and window of the sheet group. -/
  | sheetConfig (c : Cmd)
  /-- BOOT_RECORD (R430): Returns the boot record and may clear its step entries. -/
  | bootRecord (c : Cmd)
  /-- DEBUG (R397): Writes a hart's stop register on behalf of a debugger. -/
  | debug (c : Cmd)
  /-- READ_ERRORS (R398): Copies the VI's error block or a die's records, optionally clearing. -/
  | readErrors (c : Cmd)
  /-- SET_QMAP (R350): Writes one entry of the VI's handle map. -/
  | setQmap (c : Cmd)
  /-- SET_TRAP (R419): Sets trap vector, delegation, save-area array and context pool. -/
  | setTrap (c : Cmd)
  /-- ASSIGN_MEM (R428): Assigns or releases DRAM ranges for a VI. -/
  | assignMem (c : Cmd)
  /-- SET_POOL (R458): Gives the VI its table pool. -/
  | setPool (c : Cmd)
  /-- HOST_HOLD (R259): A host hold or host release request puts a launch queue in HELD or returns it to ACTIVE. -/
  | hostHold (vi slot : Nat) (hold : Bool)
  /-- SPDM_OVER_DOE (R432): An SPDM message arriving over the PCIe DOE mailbox for IDE and TDISP key management is answered by the device. -/
  | spdmOverDoe (port : Nat) (request : List Byte)
  deriving DecidableEq, Repr

end Sys2Proof
end

