-- ==== Sys2Proof/WellFormed.lean ====
section
/-! DEFINITION. The limits an instruction's entry sets on its fields (check 3 of spec/02_encoding.md Table 02.2):
a word whose fields break them raises RSVD_FIELD. An event carries no word and has no such limit. -/

namespace Sys2Proof

/-- The field values are within the limits of the instruction's entry (R43, R44 and the entries). -/
def Instr.wf : Instr → Bool
  | .nop => true
  | .li _ _ => true
  | .mov _ _ => true
  | .add _ _ _ => true
  | .addi _ _ _ => true
  | .sub _ _ _ => true
  | .mul _ _ _ => true
  | .mulh _ _ _ => true
  | .mulhz _ _ _ => true
  | .div _ _ _ _ => true
  | .divz _ _ _ _ => true
  | .rem _ _ _ _ => true
  | .remz _ _ _ _ => true
  | .and _ _ _ => true
  | .andi _ _ _ => true
  | .or _ _ _ => true
  | .ori _ _ _ => true
  | .xor _ _ _ => true
  | .xori _ _ _ => true
  | .andn _ _ _ => true
  | .shl _ _ _ => true
  | .shli _ _ _ => true
  | .shr _ _ _ => true
  | .shri _ _ _ => true
  | .sra _ _ _ => true
  | .srai _ _ _ => true
  | .rotl _ _ _ => true
  | .rotr _ _ _ => true
  | .clz _ _ => true
  | .ctz _ _ => true
  | .popc _ _ => true
  | .min _ _ _ => true
  | .max _ _ _ => true
  | .umin _ _ _ => true
  | .umax _ _ _ => true
  | .slt _ _ _ => true
  | .slo _ _ _ => true
  | .seq _ _ _ => true
  | .sel _ _ _ _ => true
  | .sext _ _ n => 1 ≤ n.toNat && n.toNat ≤ 64
  | .zext _ _ n => 1 ≤ n.toNat && n.toNat ≤ 64
  | .bfx _ _ _ pos len => 1 ≤ len.toNat && pos.toNat + len.toNat ≤ 64
  | .bfi _ _ pos len => 1 ≤ len.toNat && pos.toNat + len.toNat ≤ 64
  | .lea _ _ _ _ _ => true
  | .bswap _ _ => true
  | .fadd _ _ _ _ _ => true
  | .fsub _ _ _ _ _ => true
  | .fmul _ _ _ _ _ => true
  | .fma _ _ _ _ _ _ => true
  | .fms _ _ _ _ _ _ => true
  | .fnma _ _ _ _ _ _ => true
  | .fdiv _ _ _ _ _ _ => true
  | .fsqrt _ _ _ _ _ => true
  | .fmin _ _ _ _ => true
  | .fmax _ _ _ _ => true
  | .fcmp _ _ _ _ _ => true
  | .fcvt _ _ _ _ _ => true
  | .fcvti _ _ _ _ _ => true
  | .icvtf _ _ _ _ _ => true
  | .fclass _ _ _ => true
  | .fsgn _ _ _ _ _ => true
  | .frnd _ _ _ _ => true
  | .jmp _ => true
  | .jr _ _ => true
  | .br _ _ _ _ => true
  | .bz _ _ => true
  | .bnz _ _ => true
  | .bvf _ _ => true
  | .call _ => true
  | .callr _ _ => true
  | .ret => true
  | .loop _ n => 1 ≤ n.toNat && n.toNat ≤ 8
  | .exit => true
  | .ld _ _ _ _ _ _ _ => true
  | .st _ _ _ _ _ _ => true
  | .ldAcq _ _ _ _ _ _ _ _ => true
  | .stRel _ _ _ _ _ _ _ => true
  | .amo op w _ _ _ _ _ _ _ _ _ => 2 ≤ w.toNat && (op != .fadd || w == 2)
  | .cas w _ _ _ _ _ _ _ _ _ => 2 ≤ w.toNat
  | .ldP _ _ _ _ _ _ _ => true
  | .stP _ _ _ _ _ _ => true
  | .ldL _ _ _ _ _ _ _ => true
  | .stL _ _ _ _ _ _ => true
  | .pf _ _ _ _ _ => true
  | .cflush _ _ _ _ => true
  | .cinv _ _ _ _ => true
  | .cpin _ _ _ _ _ => true
  | .cunpin _ _ _ _ _ => true
  | .setvl _ _ _ _ _ => true
  | .vcfg which _ _ ew grp sc rm => ew.toNat ≤ 3 && rm.toNat ≤ 4 && (which.getLsbD 0 || ew == 0) && (which.getLsbD 1 || grp == 0) && (which.getLsbD 2 || sc == 0) && (which.getLsbD 3 || rm == 0)
  | .vmpush _ _ => true
  | .vmelse => true
  | .vmpop => true
  | .vmall => true
  | .forkLanes _ _ => true
  | .joinLanes => true
  | .vclaim => true
  | .vadd _ _ _ _ => true
  | .vsub _ _ _ _ => true
  | .vadc _ _ _ _ => true
  | .vmadc _ _ _ _ => true
  | .vsbc _ _ _ _ => true
  | .vmsbc _ _ _ _ => true
  | .vmul _ _ _ _ => true
  | .vmulh _ _ _ _ => true
  | .vmulhz _ _ _ _ => true
  | .vmacc _ _ _ _ => true
  | .vdiv _ _ _ _ _ => true
  | .vdivz _ _ _ _ _ => true
  | .vrem _ _ _ _ _ _ => true
  | .vand _ _ _ _ => true
  | .vor _ _ _ _ => true
  | .vxor _ _ _ _ => true
  | .vshl _ _ _ _ => true
  | .vshr _ _ _ _ => true
  | .vsra _ _ _ _ => true
  | .vmin _ _ _ _ => true
  | .vmax _ _ _ _ => true
  | .vumin _ _ _ _ => true
  | .vumax _ _ _ _ => true
  | .vcmp _ _ _ _ _ => true
  | .vsel _ _ _ _ _ => true
  | .vmov _ _ _ => true
  | .vid _ _ => true
  | .vcvti _ _ _ _ _ _ => true
  | .vpopc _ _ _ => true
  | .vfirst _ _ _ => true
  | .vlast _ _ _ => true
  | .vsadd _ _ _ _ _ => true
  | .vssub _ _ _ _ _ => true
  | .vfadd _ _ _ _ _ _ => true
  | .vfsub _ _ _ _ _ _ => true
  | .vfmul _ _ _ _ _ _ => true
  | .vfma _ _ _ _ _ _ => true
  | .vfms _ _ _ _ _ _ => true
  | .vfnma _ _ _ _ _ _ => true
  | .vfdiv _ _ _ _ _ _ _ => true
  | .vfsqrt _ _ _ _ _ _ => true
  | .vfrsqe _ _ _ _ => true
  | .vfrece _ _ _ _ => true
  | .vfmin _ _ _ _ _ => true
  | .vfmax _ _ _ _ _ => true
  | .vfcmp _ _ _ _ _ _ => true
  | .vfcvt _ _ _ _ _ _ => true
  | .vfcvti _ _ _ _ _ _ => true
  | .vicvtf _ _ _ _ _ _ => true
  | .vfclass _ _ _ _ => true
  | .vfsgn _ _ _ _ _ _ => true
  | .vfrnd _ _ _ _ _ => true
  | .vslideup _ _ _ _ _ => true
  | .vslidedn _ _ _ _ _ => true
  | .vgatherR _ _ _ _ _ => true
  | .vcompress _ _ _ _ => true
  | .vexpand _ _ _ _ => true
  | .vredadd _ _ _ _ _ => true
  | .vredmax _ _ _ _ _ => true
  | .vredmin _ _ _ _ _ => true
  | .vfredadd _ _ _ _ _ _ _ => true
  | .vfredmax _ _ _ _ _ => true
  | .vfredmin _ _ _ _ _ => true
  | .vbfly _ _ _ _ dist _ => isPow2 dist.toNat && dist.toNat ≤ 8192
  | .vextr _ _ _ _ => true
  | .vinsr _ _ _ => true
  | .vld _ _ _ _ _ _ => true
  | .vst _ _ _ _ _ _ => true
  | .vlds _ _ _ _ _ _ => true
  | .vsts _ _ _ _ _ _ => true
  | .vldx _ _ _ _ _ _ _ => true
  | .vstx _ _ _ _ _ _ _ => true
  | .vldL _ _ _ _ _ _ => true
  | .vstL _ _ _ _ _ _ => true
  | .vldxL _ _ _ _ _ _ _ => true
  | .vstxL _ _ _ _ _ _ _ => true
  | .vpgather _ _ _ _ _ => true
  | .vpscatter _ _ _ _ _ => true
  | .vstP _ _ _ _ _ _ => true
  | .vamo _ _ _ _ _ _ _ _ _ _ _ => true
  | .vldxM _ _ _ _ _ _ _ _ => true
  | .mclr _ => true
  | .mldT _ _ _ _ _ _ _ => true
  | .mstT _ _ _ _ _ _ _ _ _ => true
  | .mldW _ _ form scl _ b _ _ _ => (form == .dense) || (!scl && b == 0)
  | .mma f _ _ a _ _ _ _ => (!f.coded) || a.toNat % 2 == 0
  | .mvt toTile d a _ => if toTile then d.toNat < 8 else a.toNat < 8
  | .mcmd _ _ _ _ _ _ => true
  | .mwait => true
  | .dtabLd _ _ _ _ _ => true
  | .vcvtQ _ _ _ _ _ => true
  | .vcvtDq _ _ _ _ _ => true
  | .vscl _ _ _ _ _ _ _ => true
  | .vhadq _ _ _ _ n _ => isPow2 n.toNat && 2 ≤ n.toNat && n.toNat ≤ 32
  | .cpStart _ _ _ _ _ => true
  | .cpSeal _ _ => true
  | .cpWait _ => true
  | .sbind _ _ _ => true
  | .sunbind _ => true
  | .qPush _ _ n _ => 1 ≤ n.toNat && n.toNat ≤ 64
  | .qPop _ _ _ _ _ => true
  | .qNotify _ _ _ _ => true
  | .qCancel _ _ _ _ => true
  | .msgSend mode d _ _ c qh _ => c.toNat ≤ 60 && (mode != .reply || (d.toNat % 2 == 0 && 2 ≤ d.toNat)) && (mode == .port || qh == 0)
  | .hret _ => true
  | .gangForm _ _ _ size => size != 0
  | .gangSplit => true
  | .rastSetup _ _ _ _ => true
  | .rastCover _ _ _ _ => true
  | .rastAttr _ _ _ _ _ => true
  | .vsample _ _ _ _ _ => true
  | .vsampleM _ _ _ _ _ _ => true
  | .rqInit _ _ _ _ _ _ => true
  | .rqStep _ _ n _ _ => 1 ≤ n.toNat && n.toNat ≤ 4096
  | .rqGet _ _ _ _ _ => true
  | .rqCommit _ _ => true
  | .rqEnd _ => true
  | .bldCmd _ _ _ => true
  | .fence _ _ => true
  | .wait _ _ _ _ _ _ _ _ => true
  | .bar _ => true
  | .grpRed _ _ _ _ => true
  | .grpBcast _ _ _ _ => true
  | .crr _ cr => crAssigned cr
  | .crw _ _ cr => crAssigned cr
  | .crset _ _ cr => crAssigned cr
  | .crclr _ _ cr => crAssigned cr
  | .ecall _ => true
  | .sret => true
  | .brk _ => true
  | .wfi => true
  | .icinv all a imm => !all || (a == 0 && imm == 0)
  | .tlbinv _ _ _ _ => true
  | .vmld _ _ _ _ _ => true
  | .vmst _ _ _ _ _ => true
  | .bmsk _ _ _ => true
  | .mmaS48 _ _ a _ _ _ _ => a.toNat % 4 == 0
  | .rqSort _ _ _ _ => true
  | .waitConditionMet _ => true
  | .waitTimeout _ => true
  | .longLatencyComplete _ _ _ => true
  | .trapEntry _ _ => true
  | .cycleMatch _ => true
  | .stopTaken _ _ => true
  | .stopRegisterWrite _ _ => true
  | .migrationPlace _ => true
  | .matrixClaimGrant _ => true
  | .laneReclaim _ _ _ => true
  | .reclaimWindowExpiry _ _ => true
  | .fullSwitch _ => true
  | .contextResume _ _ => true
  | .sequencerRound _ => true
  | .tailNotifyWrite _ _ _ => true
  | .dispatcherConsume _ => true
  | .recordReread _ => true
  | .dispatch _ => true
  | .preemptDelayExpiry _ => true
  | .instanceRetire _ => true
  | .launchRetire _ _ => true
  | .gangFormed _ => true
  | .gangFormTimeout _ => true
  | .copyBegin _ _ => true
  | .copyElementLand _ _ _ _ => true
  | .pageWalk _ _ _ => true
  | .homeAccess _ => true
  | .rdcInvalidate _ _ => true
  | .peerAccessArrive _ _ => true
  | .atmCombine _ _ => true
  | .replySplit _ => true
  | .escapeMove _ _ => true
  | .linkRetrain _ _ _ => true
  | .linkDown _ _ => true
  | .routeRecompute _ => true
  | .sheetPortDown _ => true
  | .sheetAccessArrive _ _ _ _ => true
  | .dramScrub _ _ _ => true
  | .handlerActivation _ => true
  | .handlerReplyPush _ => true
  | .msgReplyArrive _ _ _ => true
  | .remoteMclr _ => true
  | .remoteMldT _ => true
  | .remoteMstT _ => true
  | .remoteMldW _ => true
  | .mma16 _ => true
  | .mcmdStatusArrive _ _ => true
  | .primitiveRecord _ _ => true
  | .distributorSetup _ _ => true
  | .distributorFlush _ _ => true
  | .distributorFence _ _ => true
  | .distributorFenceCount _ _ => true
  | .distributorClose _ _ => true
  | .bufferFullResume _ _ => true
  | .tilePost _ _ _ _ => true
  | .passEnd _ _ => true
  | .reprojectionSetup _ _ => true
  | .blockRequest _ _ => true
  | .blendRequest _ _ => true
  | .ticketCommit _ _ _ => true
  | .build _ _ _ => true
  | .refit _ _ _ => true
  | .rebalance _ _ _ => true
  | .publish _ _ _ => true
  | .retire _ _ _ => true
  | .query _ _ _ => true
  | .powerInterval _ _ => true
  | .powerCapOverrun _ _ => true
  | .powerOnReset _ => true
  | .vfEnable _ _ => true
  | .vfDisable _ _ => true
  | .commandDoorbell _ _ _ => true
  | .cqbaseWrite _ _ _ => true
  | .rdcwaysWrite _ _ => true
  | .ownershipWrite _ _ _ _ => true
  | .registerWrite _ _ => true
  | .identify _ => true
  | .attest _ => true
  | .createAs _ => true
  | .destroyAs _ => true
  | .map _ => true
  | .unmap _ => true
  | .migrate _ => true
  | .loadCode _ => true
  | .createQueue _ => true
  | .destroyQueue _ => true
  | .setKey _ => true
  | .clearKey _ => true
  | .setShare _ => true
  | .setPowerCap _ => true
  | .createGroupTemplate _ => true
  | .createCap _ => true
  | .createAstruct _ => true
  | .setRdc _ => true
  | .pinQuota _ => true
  | .installHandlers _ => true
  | .setBudget _ => true
  | .resetVi _ => true
  | .readCounters _ => true
  | .traceStart _ => true
  | .traceStop _ => true
  | .sheetConfig _ => true
  | .bootRecord _ => true
  | .debug _ => true
  | .readErrors _ => true
  | .setQmap _ => true
  | .setTrap _ => true
  | .assignMem _ => true
  | .setPool _ => true
  | .hostHold _ _ _ => true
  | .spdmOverDoe _ _ => true

end Sys2Proof
end

