-- ==== Sys2Proof/Machine/Types.lean ====
section
/-! DEFINITION. The parts of the machine's state, each a plain record that names its rule of spec/. -/

namespace Sys2Proof.Machine

open Sys2Proof

/-- A table from numbers to records: strictly rising keys; a number not listed holds the record's reset value. -/
abbrev Tab (α : Type) := List (Nat × α)

/-- A memory: (address, byte) pairs of strictly rising addresses, none of them 0, the value an unlisted address reads as
(notes/assumptions/2.md). -/
abbrev Memory := List Host.Cell

/-- The cause codes of spec/18_traps.md Table 18.1. -/
inductive Cause where
  | illegal | rsvdField | lifetime | priv | equip | maskStack | ifetchPage | ifetchAlign
  | loadPage | storePage | access | align | samplePage | watch | brk | dataEcc | linkLost
  | ecallU | ecallS | preempt | reclaimTimeout | cycleMatch | matrixCap | encodeTable
  deriving DecidableEq, Repr

/-- Modes U, S and M (spec/03_registers.md Table 03.3 MODE). -/
inductive Mode where
  | u | s | m
  deriving DecidableEq, Repr

/-- Rounding modes that VCFG.RM can hold (spec/04_numbers.md Table 04.2). -/
inductive RMode where
  | rne | rtz | rdn | rup | rmm
  deriving DecidableEq, Repr

/-- A poisoned value: the cause a reader takes and the producing instruction's address (spec/02_encoding.md R58). -/
structure Poison where
  cause : ErrCause
  addr  : Word
  deriving DecidableEq, Repr

/-- VCFG (spec/03_registers.md Table 03.3). -/
structure VCfg where
  vl  : BitVec 16
  rm  : RMode
  sc  : BitVec 2
  grp : BitVec 2
  ew  : Ew
  deriving DecidableEq, Repr

/-- VFLAGS (spec/03_registers.md Table 03.3). -/
structure VFlags where
  n : Bool
  s : Bool
  a : Bool
  deriving DecidableEq, Repr

/-- LPC, LCNT and LEND (spec/05_scalar_isa.md R124). -/
structure LoopState where
  lpc  : Word
  lcnt : Word
  lend : Word
  deriving DecidableEq, Repr

/-- One byte of a stream, with its poison (spec/12_engines_handlers.md R283, R287). -/
structure StreamByte where
  byte   : Byte
  poison : Option Poison
  deriving DecidableEq, Repr

/-- A stream binding of a channel (spec/12_engines_handlers.md R283, R284). taker is the instruction that took the last
strip; open_ says it has not completed. -/
structure Bind where
  reg   : Reg
  out   : Bool
  pos   : Word
  buf   : List StreamByte
  taker : Option Word
  open_ : Bool
  deriving DecidableEq, Repr

/-- A hit (spec/16_rays.md R377): the exact t as a fraction, the reported t, b1, b2, and what it hit. -/
structure Hit where
  tn    : Int
  td    : Nat
  t     : BitVec 32
  b1    : BitVec 32
  b2    : BitVec 32
  prim  : BitVec 32
  inst  : BitVec 32
  iid   : BitVec 32
  front : Bool
  deriving DecidableEq, Repr

/-- One ray of a query set with its state (spec/16_rays.md R375, R379, R380). met counts the hits the traversal has met,
visits the visits spent toward the next. -/
structure Ray where
  ox : Word
  oy : Word
  oz : Word
  dx : BitVec 32
  dy : BitVec 32
  dz : BitVec 32
  tmin : BitVec 32
  tmax : BitVec 32
  cull : Byte
  flags : BitVec 4
  st  : BitVec 2
  bad : Bool
  committed : Option Hit
  candidate : Option Hit
  met : Nat
  visits : Nat
  id : Nat
  deriving DecidableEq, Repr

/-- A query set (spec/16_rays.md R379). -/
structure QuerySet where
  isOpen : Bool
  entry  : BitVec 12
  gen    : BitVec 16
  vlq    : Nat
  rays   : Tab Ray
  deriving DecidableEq, Repr

/-- A raster-state slot (spec/13_raster_shading.md R316): fixed vertices, |A|, order, depths, motion and origin. -/
structure RasterSlot where
  v    : Bool
  fx   : List Int
  fy   : List Int
  area : Nat
  swap : Bool
  z    : List (BitVec 32)
  mx   : List (BitVec 16)
  my   : List (BitVec 16)
  x0   : Nat
  y0   : Nat
  deriving DecidableEq, Repr

/-- The vector state that vclaim spills and sret restores (spec/06_vector_isa.md R141), the loop registers apart.
mstack lists the saved masks, the top first; landed bit 16 n + k is that of register n, group k. -/
structure VState where
  cfg     : VCfg
  vstart  : BitVec 16
  flags   : VFlags
  em      : EMask
  mstack  : List EMask
  v       : Vector VReg 64
  vPoison : Tab Poison
  landed  : BitVec 1024
  binds   : Tab Bind
  sets    : Vector QuerySet 2
  slots   : Vector RasterSlot 4
  deriving DecidableEq, Repr

/-- One of the two sets of trap registers (spec/03_registers.md R77). -/
structure TrapSet where
  tvec     : Word
  tcause   : BitVec 8
  tpc      : Word
  tval     : Word
  telem    : BitVec 16
  tsave    : Word
  migen    : Bool
  ie       : Bool
  pmode    : Mode
  sscratch : Word
  deriving DecidableEq, Repr

/-- IROOT, DROOT and ASID (spec/03_registers.md Table 03.3). -/
structure Space where
  iroot : BitVec 36
  droot : BitVec 36
  asid  : BitVec 16
  deriving DecidableEq, Repr

/-- CYCLE, INSTRET and CYCCMP (spec/17_counters_debug.md R386, R387). -/
structure Counters where
  cycle   : Word
  instret : Word
  cyccmp  : Word
  deriving DecidableEq, Repr

/-- A watch range (spec/17_counters_debug.md R394). -/
structure Watch where
  base : Word
  lim  : Word
  en   : Bool
  ld   : Bool
  st   : Bool
  deriving DecidableEq, Repr

/-- A TLB entry (spec/14_translation.md R340): tags, the 4 KiB pages it maps, where its leaf stands, and the leaf as the walk
read it, with the A and D that the walker has set there since (R339). -/
structure TlbEntry where
  vi    : BitVec 7
  asid  : BitVec 16
  glob  : Bool
  inst  : Bool
  base  : Nat
  pages : Nat
  at_   : Nat
  leaf  : Nat
  deriving DecidableEq, Repr

/-- A translated 4 KiB page: its physical page, the attributes of its leaf (spec/14_translation.md Table 14.2), and the entry
that gave it. -/
structure Xlat where
  page  : Nat
  idem  : Bool
  cache : Bool
  rc    : Bool
  enc   : Bool
  key   : BitVec 10
  entry : TlbEntry
  deriving DecidableEq, Repr

/-- A copy descriptor (spec/12_engines_handlers.md Table 12.1). -/
structure CopyDesc where
  kind  : Nat
  esize : Nat
  ndim  : Nat
  mcast : Bool
  wpupd : Bool
  wprst : Bool
  vreg  : Reg
  src   : Word
  dst   : Word
  counts   : List Nat
  sstrides : List Word
  dstrides : List Word
  deriving DecidableEq, Repr

/-- A started copy of a channel (spec/12_engines_handlers.md R279): the elements that have landed, the harts that receive
it, the translations its probe made, the batch it was sealed into, how many handlers the hart was in when it started, its
place in the order of arrival at the stream dispatcher, and the values of the elements it has read and not landed. -/
structure Copy where
  desc    : CopyDesc
  pc      : Word
  begun   : Bool
  count   : Nat
  landed  : List Nat
  targets : List Nat
  pages   : List (Nat × Xlat)
  batch   : Option (BitVec 16)
  stream  : Bool
  grant   : Nat
  depth   : Nat
  seq     : Nat
  got     : Tab (Nat × Option Poison) := []
  deriving DecidableEq, Repr

/-- A copy channel (spec/12_engines_handlers.md R279, R280). -/
structure Channel where
  chwp   : Word
  copies : List Copy
  deriving DecidableEq, Repr

/-- QMAPn (spec/03_registers.md Table 03.3). -/
structure QEntry where
  kind  : BitVec 4
  die   : BitVec 8
  index : BitVec 16
  deriving DecidableEq, Repr

/-- GSLOTn (spec/03_registers.md Table 03.3). -/
structure GSlot where
  v     : Bool
  group : Byte
  deriving DecidableEq, Repr

/-- What a hart context belongs to: INSTID, TASKQ (spec/03_registers.md Table 03.3), a number that names the context for
good, its fork parent's (spec/01_machine.md R29), the save area it was given (spec/18_traps.md R419), and whether it
executed exit (R18). -/
structure Identity where
  lseq   : BitVec 32
  index  : BitVec 32
  prio   : BitVec 3
  vi     : BitVec 7
  queue  : BitVec 12
  uid    : Nat
  parent : Option Nat
  area   : Option Nat
  exited : Bool
  deriving DecidableEq, Repr

/-- One element that an open window still has to write: register, first bit, width and value. -/
structure VWrite where
  reg    : Nat
  bit    : Nat
  width  : Nat
  value  : Nat
  poison : Option Poison
  deriving DecidableEq, Repr

/-- What an open window still waits for: a command's status, a message's reply, atomic requests in the networks, the
acknowledgements of the RDC copies of some lines, or a place at an engine, port or slice. -/
inductive Await where
  | nothing
  | mcmd (id : Nat)
  | message (id : Nat)
  | atomic (ids : List Nat)
  | acks (lines : List Nat)
  | entry (id : Nat)
  deriving DecidableEq, Repr

/-- An open lookahead window (spec/02_encoding.md R55-R59): its instruction, how many may still issue, the results that have
not landed, whether the instruction sets VFLAGS (spec/05_scalar_isa.md R120), whether it is an access for a fence
(spec/10_memory_isa.md R245), whether it is an acquire whose reply is awaited (spec/10_memory_isa.md R232), the error that it
reports when it closes, and the results that have landed already (R58). -/
structure Window where
  pc     : Word
  left   : Nat
  gw     : List (Reg × Word × Option Poison)
  vw     : List VWrite
  fl     : BitVec 5
  await  : Await
  sets   : Bool := false
  acc    : Bool := true
  acq    : Bool := false
  err    : Option Poison := none
  gd     : List (Reg × Word × Option Poison) := []
  vd     : List VWrite := []
  deriving DecidableEq, Repr

/-- A wait under way (spec/10_memory_isa.md R246): its operands, the CYCLE of its first read and the last value read. -/
structure WaitRec where
  k     : WCond
  w     : BitVec 2
  d     : Reg
  addr  : Word
  sp    : Bool
  want  : Word
  limit : Word
  since : Word
  last  : Word
  deriving DecidableEq, Repr

/-- An arrival that stands (spec/10_memory_isa.md R247): the slot, group and phase, how many handlers the hart was in when it
arrived, and once the phase has completed what the member receives. -/
structure PhaseWait where
  slot   : BitVec 2
  group  : Nat
  phase  : BitVec 16
  depth  : Nat
  result : Option (Word × BitVec 5)
  deriving DecidableEq, Repr

/-- What a WAITING hart awaits (spec/01_machine.md Table 01.4). poll: the instruction at its pc is tried again at its
turn; the others end by an event, wfi at its turn. claim: the matrix claim (spec/07_matrix_isa.md R158). -/
inductive Wait where
  | poll
  | claim
  | cond (r : WaitRec)
  | wfi
  | gang
  | retire
  deriving DecidableEq, Repr

/-- The states of a hart (spec/01_machine.md R20). -/
inductive HState where
  | free
  | running
  | waiting (w : Wait)
  | trapped
  | migrating
  deriving DecidableEq, Repr

/-- Pending interrupts (spec/18_traps.md R402) and the stop register (spec/17_counters_debug.md R397). stepArmed: one
instruction after sret is to be followed by a stop. split: the element at which the hart's next instruction is to be stopped
for an interrupt that is about to be taken. -/
structure Irqs where
  cycleMatch : Option Word
  stop       : Bool
  preempt    : Bool
  reclaim    : Option Word
  stopReg    : Bool
  stepReg    : Bool
  stepArmed  : Bool
  held       : Bool
  split      : Option Nat
  deriving DecidableEq, Repr

/-- Why a PREEMPT is pending and who gets the groups (spec/18_traps.md R414, R415); spent: the cycles that have gone by since
the reclaim began. -/
structure Reclaim where
  recipient : Recipient
  expired   : Bool
  late      : Word
  spent     : Nat := 0
  deriving DecidableEq, Repr

/-- A trap handler of the hart: whether it claimed the vector unit, with what the hart keeps of the trapped state
(spec/18_traps.md R411): the parts the save area only shows. mode: the mode the handler was entered in. -/
structure Frame where
  mode    : Mode
  claimed : Bool
  kept    : Option VState
  rayTag  : Nat
  deriving DecidableEq, Repr

/-- An arrival at gang.form (spec/11_queues_scheduling.md R272), with its destination register. -/
structure GangArrival where
  d      : Reg
  number : Byte
  size   : Nat
  since  : Word
  limit  : Word
  deriving DecidableEq, Repr

/-- A hart (spec/03_registers.md Table 03.1, spec/01_machine.md R20). -/
structure HartCore where
  st       : HState
  g        : Vector Word 64
  gPoison  : Tab Poison
  pc       : Word
  mode     : Mode
  vs       : VState
  loop     : LoopState
  fflags   : BitVec 5
  deriving DecidableEq, Repr

/-- What a gang member was before the gang's current instruction, kept once it has completed it (R33). -/
structure Before where
  hart    : Nat
  core    : HartCore
  windows : List Window
  instret : Word
  deriving DecidableEq, Repr

/-- A gang a hart is in (spec/01_machine.md R32, spec/11_queues_scheduling.md R272): its number, its members' hart numbers in
core order, the leader first, those that have completed the gang's current instruction, and what these were before it; and the
members whose cores' sequencers have come to that instruction, each with its charge (R273). -/
structure Gang where
  number   : Byte
  members  : List Nat
  finished : List Nat
  before   : List Before
  granted  : List (Nat × Nat) := []
  deriving DecidableEq, Repr

/-- The lane grant and its ceilings (spec/01_machine.md R21-R26): (physical group, slice set) of each logical group. kept:
the last setvl kept more groups than REEF (R27). -/
structure Lanes where
  grant   : List (Nat × Nat)
  ceil    : BitVec 5
  lreq    : BitVec 5
  kept    : Bool
  reclaim : Option Reclaim
  deriving DecidableEq, Repr

/-- The system registers of a hart. -/
structure SysRegs where
  strap   : TrapSet
  mtrap   : TrapSet
  tdeleg  : Word
  space   : Space
  time    : Counters
  watch   : Vector Watch 4
  qmap    : Vector QEntry 16
  gslot   : Vector GSlot 4
  deriving DecidableEq, Repr

/-- Copy channels and batches of a hart (spec/12_engines_handlers.md R279, R286). -/
structure Engine where
  chans  : Vector Channel 8
  next   : BitVec 16
  oldest : BitVec 16
  deriving DecidableEq, Repr

/-- A hart with everything that is held per hart. fetched: the words that the front-end has fetched for it, with their
addresses, in order; those from the pc on have not been executed (spec/02_encoding.md R47, R49). counted: the instruction at
the pc has been counted by the open windows, and waits (R55). deps: the g registers whose values depend on a read of memory
(spec/09_consistency.md R216, R219). inval: a tlbinv under way has removed its entries when the copies and the requests of the
networks had been numbered so far (spec/14_translation.md R344). -/
structure Hart where
  core    : HartCore
  lanes   : Lanes
  sys     : SysRegs
  eng     : Engine
  who     : Identity
  windows : List Window
  pendErr : Option Poison
  caps    : List (Nat × Word)
  gang    : Option Gang
  arrival : Option GangArrival
  phases  : List PhaseWait
  irq     : Irqs
  frames  : List Frame
  nextId  : Nat
  fetched : List (Word × BitVec 128)
  counted : Bool
  deps    : BitVec 64 := 0
  inval   : Option (Nat × Nat) := none
  deriving DecidableEq, Repr

/-- A decode table of a core (spec/04_numbers.md R93, spec/15_tables.md R356): its entries, DTSTAT bits, owner VI and
poisoned entries. -/
structure DecTab where
  entries : DTable
  loaded  : Bool
  enc     : Bool
  owner   : Option Nat
  poison  : Tab Poison
  deriving DecidableEq, Repr

/-- The instance that holds the matrix claim (spec/07_matrix_isa.md R158). -/
structure Claim where
  queue : BitVec 12
  lseq  : BitVec 32
  index : BitVec 32
  vi    : BitVec 7
  deriving DecidableEq, Repr

/-- The matrix unit of a core (spec/07_matrix_isa.md Table 07.1). Panel p of slot S is key 16 S + p; poison keys are tile
elements 1024 T + 32 m + n, and 8-byte words 512 (16 S + p) + k of panels. -/
structure Matrix where
  tiles   : Tab Tile
  panels  : Tab Panel
  tPoison : Tab Poison
  wPoison : Tab Poison
  claim   : Option Claim
  deriving DecidableEq, Repr

/-- A lane-memory ownership entry (spec/08_memories.md Table 08.3). -/
structure Owner where
  exp : Bool
  v   : Bool
  vi  : BitVec 7
  deriving DecidableEq, Repr

/-- Whom a slice set is reserved for (spec/01_machine.md R26): a hart context by its number, or a waiting instance. -/
inductive Holder where
  | ctx (uid : Nat)
  | waiting (q : Nat) (lseq index : BitVec 32)
  deriving DecidableEq, Repr

/-- A reserved slice set of a lane group. -/
structure Reservation where
  group  : Nat
  slot   : Nat
  holder : Holder
  deriving DecidableEq, Repr

/-- An event counter (spec/17_counters_debug.md Table 17.2). -/
structure EventCounter where
  vien  : Bool
  vi    : BitVec 7
  event : Byte
  count : Word
  deriving DecidableEq, Repr

/-- A core (spec/01_machine.md Table 01.2): matrix unit, decode tables, lane memory with its ownership table, caches,
reservations, arbitration, and the class 0x8 instructions completed for each VI's samples (spec/17_counters_debug.md R393).
front: the hart that the front-end serves next (R35). deficit: DEF of each queue; serving: the queue that the sequencer round
of a priority is at, none before its first; weights: the weights, by 4096 priority + queue, that the round under way goes on
with (spec/11_queues_scheduling.md R265); rotor: the hart of each queue that is first in turn (R36). banks: the TLB of each
lane group (spec/14_translation.md Table 14.4). busyWriter and lost: the trace writer lacks bandwidth, and the records it has
not created for want of it (spec/17_counters_debug.md Table 17.7). -/
structure Core where
  mat     : Matrix
  dts     : Vector DecTab 4
  lane    : Memory
  lPoison : Tab Poison
  owners  : Tab Owner
  resv    : List Reservation
  front   : Nat
  deficit : Tab Nat
  serving : Tab Nat
  weights : Tab Nat
  rotor   : Tab Nat
  tlb     : List TlbEntry
  itlb    : List TlbEntry
  banks   : Tab (List TlbEntry)
  l1      : Tab (BitVec 1024)
  icache  : Tab (BitVec 1024)
  events  : Vector EventCounter 4
  recSeq  : BitVec 32
  sampled : Tab Nat
  busyWriter : Bool
  lost    : Word
  deriving DecidableEq, Repr

/-- An error record (spec/17_counters_debug.md Table 17.9). -/
structure ErrRec where
  cls  : Byte
  seq  : BitVec 32
  info : BitVec 32
  hart : BitVec 32
  addr : Word
  data : Word
  deriving DecidableEq, Repr

/-- A port of 64-byte records (spec/11_queues_scheduling.md R267): oldest first, each with its poison. -/
structure Port where
  recs   : List (BitVec 512 × Bool)
  closed : Bool
  deriving DecidableEq, Repr

/-- Distributor SETUP (spec/13_raster_shading.md Table 13.3). -/
structure DistSetup where
  vh : Word
  vw : Word
  vy : Word
  vx : Word
  zmax : BitVec 32
  zmin : BitVec 32
  chunks : Nat
  base : Word
  th : Nat
  tw : Nat
  cullf : Bool
  cullb : Bool
  deriving DecidableEq, Repr

/-- The chunk list of a tile that holds entries (spec/13_raster_shading.md R310, R311): chunk addresses, oldest first, and
entries in all. -/
structure TileList where
  chunks  : List Nat
  entries : Nat
  deriving DecidableEq, Repr

/-- A pass (spec/13_raster_shading.md R313, R314): posted or waiting to be, the tickets its pass end named, and the tickets
committed. -/
structure Pass where
  tag     : BitVec 24
  tx      : Nat
  ty      : Nat
  chunks  : List Nat
  entries : Nat
  flushed : Bool
  posted  : Bool
  tickets : Option Nat
  commits : Nat
  deriving DecidableEq, Repr

/-- A triangle in screen space with its record's words (spec/13_raster_shading.md R309, Table 13.5). -/
structure ScreenTri where
  xy    : List Word
  z     : List (BitVec 32)
  m     : List (BitVec 16)
  state : BitVec 32
  prim  : BitVec 32
  deriving DecidableEq, Repr

/-- The distributor's context of a VI (spec/13_raster_shading.md R304, R307-R314). work lists the triangles of the current
record that are not binned yet, with the tiles the first of them is already in; stalled: it waits for chunks. -/
structure DistCtx where
  setup   : Option DistSetup
  tiles   : Tab TileList
  passes  : List Pass
  count   : Nat
  fences  : List (Word × List (BitVec 24))
  work    : List ScreenTri
  binned  : Nat
  stalled : Bool
  closing : Bool
  culled  : Nat
  deriving DecidableEq, Repr

/-- Reprojection setup (spec/13_raster_shading.md Table 13.8). -/
structure ReprSetup where
  refresh : Nat
  tol     : BitVec 32
  height  : Nat
  width   : Nat
  next    : Word
  prev    : Word
  frame   : BitVec 32
  enable  : Bool
  maxAge  : Nat
  deriving DecidableEq, Repr

/-- A builder command record as its eight words, with its sequence number, issuing hart and address space
(spec/16_rays.md Table 16.2, R374). -/
structure BuildCmd where
  words : List Word
  seq   : BitVec 32
  space : Space
  hart  : Nat
  deriving DecidableEq, Repr

/-- The builder queue of a VI (spec/16_rays.md R366). -/
structure BuilderQ where
  cmds : List BuildCmd
  seq  : BitVec 32
  deriving DecidableEq, Repr

/-- Island control (spec/19_host_device.md Table 19.7); gated: the controller has gated it (State.gated); HOLD follows from the
harts (State.heldLow). -/
structure Island where
  power : BitVec 16
  fstep : BitVec 4
  reef  : BitVec 5
  gated : Bool := false
  deriving DecidableEq, Repr

/-- A table pointer held by the walker cache of a die (spec/14_translation.md Table 14.4): tagged by its VI, space and
root, with the ASIDs whose walks have used it, the level it was read at and the address bits that lead to it. -/
structure WalkEntry where
  vi    : BitVec 7
  asids : List (BitVec 16)
  inst  : Bool
  root  : BitVec 36
  level : Nat
  index : Nat
  entry : Nat
  deriving DecidableEq, Repr

/-- A die (spec/01_machine.md Table 01.1) with its agents, RDC, counters and island controls. Ports are keyed 4096 vi +
port; counters by their offset in the register window. nextSeq: for the blocks of this die's passes, keyed by vi and
(TILETAG, BLOCK), the SEQ that every lower one has committed before (spec/13_raster_shading.md R326). served: the queue of
each priority that the launch dispatcher has served last (spec/11_queues_scheduling.md R262). -/
structure Die where
  ports   : Tab Port
  dist    : Tab DistCtx
  repr    : Tab ReprSetup
  nextSeq : Tab Nat
  builder : Tab BuilderQ
  rdcways : BitVec 4
  rdc     : Tab (BitVec 1024)
  counts  : Tab Word
  errs    : Tab ErrRec
  errNext : Word
  islands : Tab Island
  walker  : List WalkEntry
  cap     : Option Nat
  overcap : Nat
  served  : Tab Nat
  deriving DecidableEq, Repr

/-- A message to a slice (spec/12_engines_handlers.md R299-R301). dest: where the status of mode 1 goes; sc: the scope of the
send; quiet: its sender has been answered with LINK_LOST. -/
structure Message where
  handler : Word
  target  : Word
  args    : List Word
  sender  : Nat
  sendUid : Nat
  vi      : Nat
  space   : Space
  mode    : MsgMode
  id      : Nat
  dest    : Reg
  tag     : Word
  die     : Nat
  port    : Nat
  hop     : Nat
  sc      : BitVec 2
  quiet   : Bool
  deriving DecidableEq, Repr

/-- A finished activation's reply on its way (spec/12_engines_handlers.md R301, R302); past: as in AtmReq. -/
structure Reply where
  msg    : Message
  slice  : Nat
  status : Word
  value  : Word
  past   : Bool := false
  deriving DecidableEq, Repr

/-- One part of a ticket: the pixels it writes, its operation, and its 16 colours (spec/13_raster_shading.md R326). -/
structure TicketPart where
  mask    : BitVec 16
  op      : Nat
  colours : List Word
  deriving DecidableEq, Repr

/-- A window entry of a blend unit (spec/13_raster_shading.md R326): the target block's address (none: the ticket writes
nothing) and its format, 1 for RGBA16F. -/
structure Ticket where
  vi     : Nat
  ticket : BitVec 48
  block  : Option Word
  fmt    : Bool
  rej    : BitVec 16
  agent  : TicketPart
  shader : Option TicketPart
  deriving DecidableEq, Repr

/-- A slice (spec/08_memories.md R199, spec/12_engines_handlers.md R299, spec/13_raster_shading.md R326). -/
structure Slice where
  scratch : Memory
  sPoison : Tab Poison
  msgs    : List Message
  reply   : Option Reply
  blend   : List Ticket
  deriving DecidableEq, Repr

/-- A template slot (spec/15_tables.md Table 15.2). -/
structure TmplSlot where
  mode  : BitVec 2
  gbase : Byte
  param : BitVec 24
  deriving DecidableEq, Repr

/-- A member's arrival in the current phase (spec/10_memory_isa.md R247, R248). -/
structure Arrival where
  uid  : Nat
  rank : Nat
  opc  : BitVec 10
  op   : BitVec 4
  root : BitVec 16
  val  : Word
  dest : Reg
  pc   : Word
  deriving DecidableEq, Repr

/-- A group-table entry (spec/15_tables.md Table 15.3): gone lists the ranks of members retired or removed, arrived the
arrivals of its phase, homes the cores of its placed members. -/
structure Group where
  v       : Bool
  queue   : BitVec 12
  lseq    : BitVec 32
  tslot   : BitVec 2
  tmpl    : Byte
  phase   : BitVec 16
  n       : Nat
  gone    : List Nat
  arrived : List Arrival
  scope   : BitVec 2
  homes   : List Nat
  deriving DecidableEq, Repr

/-- A code-object entry (spec/15_tables.md Table 15.4). -/
structure CodeObj where
  nhandler  : BitVec 16
  nkernel   : BitVec 16
  remgen    : Byte
  stepmask  : Byte
  lifeclass : Byte
  textsize  : BitVec 32
  text      : Word
  handler   : Bool
  deriving DecidableEq, Repr

/-- A scratch region (spec/15_tables.md R358). -/
structure Region where
  len  : Nat
  base : Nat
  deriving DecidableEq, Repr

/-- A triangle of a generation, its corners as binary32 coordinates (spec/16_rays.md R369). -/
structure TriPrim where
  index : Nat
  xyz   : List (BitVec 32)
  deriving DecidableEq, Repr

/-- An instance record of a generation with the child generation bound into it (spec/16_rays.md Table 16.4, R365). -/
structure InstPrim where
  index   : Nat
  t       : List Word
  iid     : BitVec 32
  flip    : Bool
  nocull  : Bool
  fopaque : Bool
  mask    : Byte
  child   : BitVec 12
  cgen    : BitVec 16
  deriving DecidableEq, Repr

/-- A node of a tree (spec/16_rays.md R363, R373): how many nodes its subtree has, itself among them, the primitives that it
holds as a leaf, the cost of its subtree at the last BUILD or REBALANCE of the lineage in binary64, and its page. -/
structure BNode where
  size  : Nat
  items : List Nat
  cost  : Nat
  page  : Nat
  deriving DecidableEq, Repr

/-- A generation (spec/16_rays.md R362-R365): what it holds, its tree and the pages of its nodes, shared or new, whether a REFIT
made it, its SAH and OVERLAP, and the SAH of the last BUILD or REBALANCE of its lineage (R373). tree is the fresh number that
traversals of it follow. -/
structure Generation where
  gen    : BitVec 16
  pins   : BitVec 32
  root   : Word
  sah    : BitVec 32
  overlap : BitVec 32
  base   : BitVec 32
  tris   : List TriPrim
  insts  : List InstPrim
  opq    : Bool
  count  : Nat
  pages  : List Nat
  tree   : Nat
  nodes  : List BNode
  fitted : Bool
  deriving DecidableEq, Repr

/-- An acceleration-structure entry (spec/16_rays.md Table 16.1): slots 0-4. -/
structure AsEntry where
  v        : Bool
  kind     : Bool
  hascur   : Bool
  busy     : Option (Nat × BitVec 32)
  cur      : BitVec 16
  nextgen  : BitVec 16
  total    : Nat
  pool     : List Nat
  slots    : Tab Generation
  deriving DecidableEq, Repr

/-- SET_TRAP's configuration (spec/18_traps.md R419), with the save areas and pool units in use. -/
structure TrapConf where
  vector : Word
  tdeleg : Word
  saves  : Word
  nsave  : Nat
  pool   : Word
  npool  : Nat
  used   : List Nat
  units  : List Nat
  deriving DecidableEq, Repr

/-- A saved context (spec/18_traps.md R415, R416): the core it left, the unit that holds its record, what the record does
not hold, and the number its ray bytes were drawn from. -/
structure SavedCtx where
  unit    : Nat
  core    : Nat
  hart    : Hart
  timeout : Option Word
  rayTag  : Nat
  deriving DecidableEq, Repr

/-- A matrix claim saved in a unit (spec/18_traps.md R417). -/
structure SavedClaim where
  unit    : Nat
  claim   : Claim
  deriving DecidableEq, Repr

/-- A command record that firmware has read and not completed (spec/19_host_device.md R424). cmd: its OP and fields; none:
the record names no command, or could not be read, and completes with status. begun: the command has begun and waits. -/
structure QCmd where
  cmd    : Option (Nat × Cmd)
  tag    : BitVec 16
  status : Nat
  begun  : Bool
  turn   : Nat
  deriving DecidableEq, Repr

/-- A command queue of a function (spec/19_host_device.md R423-R425). done counts the completion entries written; todo lists
the records read, oldest first. -/
structure CmdQueue where
  base  : Word
  cpl   : Word
  vector : BitVec 6
  head  : BitVec 32
  tail  : BitVec 32
  done  : BitVec 32
  todo  : List QCmd
  deriving DecidableEq, Repr

/-- A trace buffer (spec/17_counters_debug.md R391). owner: the function whose memory holds it. -/
structure Trace where
  owner  : Nat
  buf    : Word
  logb   : Nat
  cores  : List Nat
  kinds  : Word
  period : Nat
  widx   : Word
  deriving DecidableEq, Repr

/-- The tables of a VI that hold many entries. -/
structure ViTables where
  slots    : Tab Nat
  tmpls    : Tab (List TmplSlot)
  groups   : Tab Group
  handles  : Vector QEntry 16
  codes    : Tab CodeObj
  image    : Option (Word × Nat)
  regions  : Tab Region
  ases     : Tab AsEntry
  deriving DecidableEq, Repr

/-- The error block of a VI (spec/17_counters_debug.md R398). -/
structure ErrBlock where
  counts : Tab Word
  ring   : Tab ErrRec
  seq    : BitVec 32
  deriving DecidableEq, Repr

/-- How far an SPDM exchange has come (spec/19_host_device.md R432): nothing agreed, KEY_EXCHANGE answered, a session. -/
inductive Spdm where
  | idle | keyed | session
  deriving DecidableEq, Repr

/-- A virtual interface (spec/15_tables.md Table 15.1, spec/19_host_device.md R428). spaces are its address spaces by ASID;
pool and its used pages are R458's, each with the ASID whose tables hold it; none: a code page. tdiRun: its function is a TDI in
state RUN; ide: an IDE stream is bound to it. -/
structure Vi where
  exists_     : Bool
  active      : Bool
  hbudget     : Nat
  pinquota    : Nat
  serialnext  : BitVec 24
  serialfloor : BitVec 24
  capKey      : Nat
  tables      : ViTables
  spaces      : Tab Space
  poolBase    : Nat
  poolLen     : Nat
  poolUsed    : List (Nat × Option (BitVec 16))
  trap        : TrapConf
  ctxs        : List SavedCtx
  claims      : List SavedClaim
  errs        : ErrBlock
  cmdqs       : Vector CmdQueue 4
  reclaimWin  : Nat
  preemptDel  : Nat
  trace       : Option Trace
  log         : List (List Byte)
  tdiRun      : Bool
  ide         : Bool := false
  spdm        : Spdm := .idle
  deriving DecidableEq, Repr

/-- Queue states (spec/11_queues_scheduling.md Table 11.4). -/
inductive QState where
  | disabled | active | held | faulted
  deriving DecidableEq, Repr

/-- Launch states (spec/11_queues_scheduling.md Table 11.5); a RETIRED launch has left the table. -/
inductive LState where
  | pending | dispatching | dispatched
  deriving DecidableEq, Repr

/-- A launch of the launch table (spec/11_queues_scheduling.md R257): the record's words, the instances placed, where
q.cancel cut it, and the instances retired. -/
structure Launch where
  index   : BitVec 32
  words   : List Word
  st      : LState
  placed  : Nat
  cut     : Nat
  retired : Nat
  deriving DecidableEq, Repr

/-- A device queue (spec/11_queues_scheduling.md Table 11.1, spec/15_tables.md R348). -/
structure DevQueue where
  vi      : Nat
  slot    : Nat
  ring    : Word
  logsize : Nat
  die     : Nat
  prio    : BitVec 3
  ceil    : BitVec 5
  weight  : Nat
  asid    : BitVec 16
  head    : BitVec 32
  tail    : BitVec 32
  st      : QState
  errcode : Byte
  errseq  : BitVec 32
  table   : List Launch
  dying   : Bool
  deriving DecidableEq, Repr

/-- An atomic request in the network (spec/12_engines_handlers.md R295): its requester and operand as combined so far; once
absorbed, the request that absorbed it with the operand that request carried then. elems: the elements of a `vamo` that it
carries, each with the operand that the address unit had combined before it (spec/10_memory_isa.md R243). src: the core it
left; sent: when its home answered; past: it, or its reply, has passed a link that went down since (R298). -/
structure AtmReq where
  id      : Nat
  hart    : Nat
  uid     : Nat
  addr    : Nat
  op      : AmoOp
  wide    : Bool
  x       : Word
  scope   : BitVec 2
  cmb     : Bool
  dest    : Reg
  elems   : List (VWrite × Option Word)
  src     : Nat
  acq     : Bool
  xl      : Xlat
  absorbed : Option (Nat × Word)
  reply   : Option (Word × Option ErrCause)
  pc      : Word
  sent    : Nat := 0
  past    : Bool := false
  deriving DecidableEq, Repr

/-- A peer store on its way (spec/09_consistency.md R221); past: it has passed a link that went down since. -/
structure PeerStore where
  uid    : Nat
  pc     : Word
  core   : Nat
  off    : Nat
  bytes  : List Byte
  poison : Option Poison
  past   : Bool := false
  deriving DecidableEq, Repr

/-- A store on its way to its home in DRAM: its number, the hart, context and instruction that made it, the core it left, and its
translation (spec/09_consistency.md R216); past: as in AtmReq. -/
structure PostedStore where
  id    : Nat
  hart  : Nat
  uid   : Nat
  vi    : BitVec 7
  pc    : Word
  core  : Nat
  xl    : Xlat
  addr  : Nat
  bytes : List Byte
  past  : Bool := false
  deriving DecidableEq, Repr

/-- What an instruction whose window is open has still to hand over: records for a port (spec/11_queues_scheduling.md R268), a
pop (R269), a copy (spec/12_engines_handlers.md R289), a seal (R286), a message (R299) or a builder command
(spec/16_rays.md R374). -/
inductive Post where
  | push (die vi port : Nat) (recs : List (BitVec 512 × Bool))
  | pop (die vi port off : Nat) (d : Reg)
  | copy (ch : Nat) (c : Copy)
  | seal (d : Reg)
  | send (slice : Nat) (m : Message)
  | build (die vi : Nat) (c : BuildCmd) (d : Reg)
  deriving DecidableEq, Repr

/-- An instruction that waits for a place: its number, hart, context, address and loop state. The list of them stands in the
order of arrival. -/
structure Entry where
  id   : Nat
  hart : Nat
  uid  : Nat
  pc   : Word
  loop : LoopState := { lpc := 0, lcnt := 0, lend := 0 }
  post : Post
  deriving DecidableEq, Repr

/-- A remote matrix command in flight (spec/07_matrix_isa.md R180). status: performed or refused, on its way back; past: as in
AtmReq. -/
structure Mcmd where
  id     : Nat
  hart   : Nat
  uid    : Nat
  vi     : BitVec 7
  space  : Space
  mode   : Mode
  sc     : BitVec 2
  core   : Nat
  cap    : Word
  desc   : List Word
  trap   : Bool
  dest   : Reg
  pc     : Word
  status : Option Word
  past   : Bool := false
  deriving DecidableEq, Repr

/-- An invalidation of an RDC copy that its die has not acknowledged (spec/08_memories.md R203). -/
structure Inval where
  die  : Nat
  line : Nat
  uid  : Nat
  deriving DecidableEq, Repr

/-- A die-to-die link (spec/12_engines_handlers.md R297, R298). -/
structure Link where
  up   : Bool
  half : Bool
  routed : Bool
  deriving DecidableEq, Repr

/-- The networks (spec/12_engines_handlers.md R292-R298). congested: requests meet in the switches (an input, log 1). entries:
what waits for a place at an engine, port or slice, in order of arrival; arrivals counts these and the copies. parity: the
harts whose next delivered data fail their parity check (R294). refused: the accesses of other modules that were answered with
ACCESS (spec/19_host_device.md R438). -/
structure Net where
  congested : Bool
  atms      : List AtmReq
  stores    : List PostedStore := []
  peers     : List PeerStore
  mcmds     : List Mcmd
  replies   : List Reply
  invals    : List Inval
  links     : Vector Link 10
  sheetOut  : List (Word × List Byte)
  refused   : List Word := []
  entries   : List Entry
  arrivals  : Nat
  parity    : List Nat
  deriving DecidableEq, Repr

/-- The boot record (spec/19_host_device.md Table 19.6): step entries as (CODE, FALLBACK, FAILS). -/
structure BootRecord where
  boots    : BitVec 32
  laststep : Byte
  recovery : Bool
  steps    : Vector (Byte × Bool × BitVec 2) 14
  deriving DecidableEq, Repr

/-- A key slot held (spec/19_host_device.md R433): its VI and the 64 key bytes. -/
structure KeySlot where
  vi    : Nat
  bytes : List Byte
  deriving DecidableEq, Repr

/-- SHEET_CONFIG (spec/19_host_device.md R438), with the VI it binds. -/
structure SheetConf where
  number : Nat
  routes : List (BitVec 16)
  base   : Word
  length : Word
  vi     : Nat
  deriving DecidableEq, Repr

/-- A PCIe port (spec/19_host_device.md R422): whether it has trained, its rate in GT/s and its lanes. -/
structure PciePort where
  up    : Bool
  rate  : Nat
  lanes : Nat
  deriving DecidableEq, Repr

/-- What firmware keeps for the module (spec/19_host_device.md). assigned lists DRAM ranges (low, high, VI) in die-local
addresses. lastDone is the completion entry written last: VI, queue, TAG, STATUS and RESULT; msix lists the interrupts
signalled, as VI and vector; doe holds the response that waits in the DOE mailbox of a port, spdm how far its exchange has come.
boot and flash are the two copies of the boot record; pcie holds ports A and B; turns counts the commands that have arrived. -/
structure Firmware where
  ready    : Bool
  boot     : BootRecord
  flash    : BootRecord
  pcie     : List PciePort
  turns    : Nat
  keys     : Tab KeySlot
  assigned : List (Nat × Nat × Nat)
  modCap   : Nat
  sheets   : List SheetConf
  ports    : BitVec 12
  lastDone : Option (Nat × Nat × BitVec 16 × Nat × Word)
  msix     : List (Nat × Nat)
  log      : List (List Byte)
  doe      : Tab (List Byte)
  spdm     : Tab Spdm := []
  nextUid  : Nat
  deriving DecidableEq, Repr

/-- A pin of a line (spec/08_memories.md R207). -/
structure Pin where
  vi    : Nat
  count : Nat
  deriving DecidableEq, Repr

/-- The tag of an L2 line held under a key slot (spec/14_translation.md R342); none: plaintext. -/
abbrev LineTag := Option (BitVec 10)

/-- Physical memory (spec/08_memories.md R193): DRAM by die-local address, host memory of ports A and B, poisoned lines,
key tags, pins and sharer vectors by line number. -/
structure Phys where
  dram    : Memory
  hostA   : Memory
  hostB   : Memory
  poison  : Tab Poison
  tags    : Tab LineTag
  pins    : Tab Pin
  sharers : Tab (BitVec 8)
  deriving DecidableEq, Repr

/-- Where the error logic finds an error (spec/08_memories.md Table 08.8): 8-byte words of registers, lane memory, scratch,
tiles and panels, an entry of a decode table, a copy of a line in an L1 or RDC, a home line in L2, the tags of an L2 set, which
holds some lines, and the next data delivered to a hart. -/
inductive EccSite where
  | vreg (h n k : Nat)
  | lane (core w : Nat)
  | scratch (slice w : Nat)
  | tile (core w : Nat)
  | panel (core w : Nat)
  | dtab (core t e : Nat)
  | l1 (core key : Nat)
  | icache (core key : Nat)
  | rdc (die key : Nat)
  | line (n : Nat)
  | tag (slice set : Nat) (lines : List Nat)
  | packet (h : Nat)
  deriving DecidableEq, Repr

/-- A write by a host (spec/08_memories.md Table 08.9): to its own memory at port A or B, or to DRAM. -/
inductive HostWrite where
  | memory (portB : Bool) (a : Nat) (bs : List Byte)
  | dram (a : Nat) (bs : List Byte)
  deriving DecidableEq, Repr

/-- What acts next (log 1): a hart takes a turn, an event occurs, cycles pass for a hart, the front-end of a core serves a
hart, or fetches the line of an address ahead for a hart (spec/02_encoding.md R50), a core issues the next strip of its
sequencer round, a queued command record that names no command completes, the network's switches become busy or idle, an
engine, port or slice admits what waits for a place, a store on its way is performed at its home, the error logic finds an
error, corrected or not, which the work of a hart has met or none, a host writes, events whose count depends on timing occur
(a hart's core events, and the counters of routers, bridges and slices), or a core's trace writer lacks bandwidth or has it. -/
inductive Act where
  | turn (h : Nat)
  | ev (i : Instr)
  | elapse (h n : Nat)
  | front (core : Nat)
  | ahead (h : Nat) (va : Word)
  | strip (core : Nat)
  | badCommand (vi cq : Nat)
  | congestion (on : Bool)
  | enterQueue (k : Nat)
  | store (k : Nat)
  | ecc (site : EccSite) (uncorrectable : Bool) (met : Option Nat)
  | host (w : HostWrite)
  | occur (h code n : Nat)
  | tally (die off n : Nat)
  | traceWriter (core : Nat) (busy : Bool)
  deriving DecidableEq, Repr

end Sys2Proof.Machine
end

