-- ==== Sys2Proof/Machine/Reset.lean ====
section
/-! DEFINITION. The reset value of each part of the state. What the spec gives is taken from the rule named; every other
value is 0 or empty (notes/assumptions/2.md). -/

namespace Sys2Proof.Machine

open Sys2Proof

/-- VCFG at task entry: VL 0, RM RNE, SC DIE, GRP 1, EW 32 (spec/03_registers.md Table 03.2). -/
def VCfg.reset : VCfg := { vl := 0, rm := .rne, sc := 1, grp := 0, ew := .e32 }

/-- A closed query set (spec/03_registers.md R73). -/
def QuerySet.reset : QuerySet := { isOpen := false, entry := 0, gen := 0, vlq := 0, rays := [] }

/-- A raster slot with V = 0 (spec/03_registers.md R73). -/
def RasterSlot.reset : RasterSlot :=
  { v := false, fx := [], fy := [], area := 0, swap := false, z := [], mx := [], my := [], x0 := 0, y0 := 0 }

/-- Vector state at task entry (spec/01_machine.md R28, spec/03_registers.md R73). Landed bits are held set: no landing is
awaited (spec/12_engines_handlers.md R281). -/
def VState.reset : VState :=
  { cfg := VCfg.reset, vstart := 0, flags := { n := false, s := false, a := false }, em := BitVec.allOnes 16384,
    mstack := [], v := Vector.replicate 64 0, vPoison := [], landed := BitVec.allOnes 1024, binds := [],
    sets := Vector.replicate 2 QuerySet.reset, slots := Vector.replicate 4 RasterSlot.reset }

/-- A trap set at task entry; TSTATUS 0x8 is MIGEN (spec/03_registers.md Table 03.2). -/
def TrapSet.reset : TrapSet :=
  { tvec := 0, tcause := 0, tpc := 0, tval := 0, telem := 0, tsave := 0, migen := true, ie := false, pmode := .u,
    sscratch := 0 }

/-- A watch range switched off. -/
def Watch.reset : Watch := { base := 0, lim := 0, en := false, ld := false, st := false }

/-- A hart in state FREE (spec/01_machine.md R20, R21): no grant, every other item at its task-entry value. -/
def Hart.reset : Hart :=
  { core := { st := .free, g := Vector.replicate 64 0, gPoison := [], pc := 0, mode := .u, vs := VState.reset,
              loop := { lpc := 0, lcnt := 0, lend := 0 }, fflags := 0 },
    lanes := { grant := [], ceil := 1, lreq := 1, kept := false, reclaim := none },
    sys := { strap := TrapSet.reset, mtrap := TrapSet.reset, tdeleg := 0, space := { iroot := 0, droot := 0, asid := 0 },
             time := { cycle := 0, instret := 0, cyccmp := 0 }, watch := Vector.replicate 4 Watch.reset,
             qmap := Vector.replicate 16 { kind := 0, die := 0, index := 0 },
             gslot := Vector.replicate 4 { v := false, group := 0 } },
    eng := { chans := Vector.replicate 8 { chwp := 0, copies := [] }, next := 0, oldest := 0 },
    who := { lseq := 0, index := 0, prio := 0, vi := 0, queue := 0, uid := 0, parent := none, area := none, exited := false },
    windows := [], pendErr := none, caps := [], gang := none, arrival := none, phases := [],
    irq := { cycleMatch := none, stop := false, preempt := false, reclaim := none, stopReg := false, stepReg := false,
             stepArmed := false, held := false, split := none },
    frames := [], nextId := 0, fetched := [], counted := false }

/-- A firmware hart between its jobs (spec/01_machine.md R15): it waits in mode M and holds no grant
(notes/assumptions/7.md). -/
def Hart.firmware : Hart :=
  { Hart.reset with core := { Hart.reset.core with st := .waiting .wfi, mode := .m } }

/-- A decode table never loaded: +0 in every entry (spec/04_numbers.md R93). -/
def DecTab.reset : DecTab := { entries := 0, loaded := false, enc := false, owner := none, poison := [] }

/-- A lane-memory block owned by no VI (spec/08_memories.md Table 08.3). -/
def Owner.reset : Owner := { exp := false, v := false, vi := 0 }

/-- A core at module reset. -/
def Core.reset : Core :=
  { mat := { tiles := [], panels := [], tPoison := [], wPoison := [], claim := none },
    dts := Vector.replicate 4 DecTab.reset, lane := [], lPoison := [], owners := [], resv := [], front := 0, deficit := [],
    serving := [], weights := [], rotor := [], tlb := [], itlb := [], banks := [],
    l1 := [], icache := [], events := Vector.replicate 4 { vien := false, vi := 0, event := 0, count := 0 }, recSeq := 0,
    sampled := [], busyWriter := false, lost := 0 }

/-- A port that holds nothing. -/
def Port.reset : Port := { recs := [], closed := false }

/-- A distributor context before its first SETUP (spec/13_raster_shading.md R307). -/
def DistCtx.reset : DistCtx :=
  { setup := none, tiles := [], passes := [], count := 0, fences := [], work := [], binned := 0,
    stalled := false, closing := false, culled := 0 }

/-- An island that has no REEF (spec/19_host_device.md Table 19.7); core islands hold REEF 16, see Die.island. -/
def Island.reset : Island := { power := 0, fstep := 15, reef := 0 }

/-- The reset of a core island (spec/19_host_device.md Table 19.7). -/
def Island.coreReset : Island := { power := 0, fstep := 15, reef := 16 }

/-- A die at module reset. -/
def Die.reset : Die :=
  { ports := [], dist := [], repr := [], nextSeq := [], builder := [], rdcways := 0, rdc := [], counts := [], errs := [], errNext := 0,
    islands := [], walker := [], cap := none, overcap := 0, served := [] }

/-- A slice at module reset. -/
def Slice.reset : Slice := { scratch := [], sPoison := [], msgs := [], reply := none, blend := [] }

/-- Trap configuration before the first SET_TRAP (spec/18_traps.md R419). -/
def TrapConf.reset : TrapConf :=
  { vector := 0, tdeleg := 0, saves := 0, nsave := 0, pool := 0, npool := 0, used := [], units := [] }

/-- A command queue before CQBASE is written. -/
def CmdQueue.reset : CmdQueue := { base := 0, cpl := 0, vector := 0, head := 0, tail := 0, done := 0, todo := [] }

/-- Tables of a VI at its creation (spec/15_tables.md Table 15.1, R350). -/
def ViTables.reset : ViTables :=
  { slots := [], tmpls := [], groups := [], handles := Vector.replicate 16 { kind := 0, die := 0, index := 0 },
    codes := [], image := none, regions := [], ases := [] }

/-- A VI that does not exist; its settings are those that creation gives (spec/15_tables.md Table 15.1,
spec/19_host_device.md R428, R457). -/
def Vi.absent : Vi :=
  { exists_ := false, active := true, hbudget := 256, pinquota := 0, serialnext := 0, serialfloor := 0, capKey := 0,
    tables := ViTables.reset, spaces := [], poolBase := 0, poolLen := 0, poolUsed := [], trap := TrapConf.reset,
    ctxs := [], claims := [], errs := { counts := [], ring := [], seq := 0 },
    cmdqs := Vector.replicate 4 CmdQueue.reset, reclaimWin := 50000, preemptDel := 10000, trace := none, log := [],
    tdiRun := false }

/-- A VI at its creation, with its capability key drawn (spec/19_host_device.md R428). -/
def Vi.created (key : Nat) : Vi := { Vi.absent with exists_ := true, capKey := key }

/-- A device queue number that is free. -/
def DevQueue.reset : DevQueue :=
  { vi := 0, slot := 0, ring := 0, logsize := 0, die := 0, prio := 0, ceil := 0, weight := 0, asid := 0, head := 0,
    tail := 0, st := .disabled, errcode := 0, errseq := 0, table := [], dying := false }

/-- The networks with nothing in flight and every link up. -/
def Net.reset : Net :=
  { congested := false, atms := [], stores := [], peers := [], mcmds := [], replies := [], invals := [],
    links := Vector.replicate 10 { up := true, half := false, routed := true }, sheetOut := [], entries := [], arrivals := 0,
    parity := [] }

/-- The boot record after one start that failed nowhere (spec/19_host_device.md R430; notes/assumptions/9.md). -/
def BootRecord.reset : BootRecord :=
  { boots := 1, laststep := 0, recovery := false, steps := Vector.replicate 14 (0, false, 0) }

/-- The SHA-384 digest of firmware image copy k (spec/19_host_device.md R431), fixed by the implementation. -/
def imageDigest (k : Nat) : List Byte := (List.range 48).map (Config.imageByte k)

/-- Firmware after boot step 14 (spec/19_host_device.md R428, R429), both PCIe ports trained in full (notes/assumptions/9.md). -/
def Firmware.reset : Firmware :=
  { ready := true, boot := BootRecord.reset, flash := BootRecord.reset,
    pcie := List.replicate 2 { up := true, rate := 64, lanes := 8 }, turns := 0, keys := [], assigned := [], modCap := 2100, sheets := [],
    ports := BitVec.allOnes 12, lastDone := none, msix := [], log := [imageDigest 0], doe := [], nextUid := 1 }

/-- Memory after boot step 7 (spec/19_host_device.md Table 19.5): every byte of DRAM reads 0. -/
def Phys.reset : Phys :=
  { dram := [], hostA := [], hostB := [], poison := [], tags := [], pins := [], sharers := [] }

end Sys2Proof.Machine
end

