-- ==== Sys2Proof/Machine/State.lean ====
section
/-! DEFINITION. The state of one IZ9 module and its reset. -/

namespace Sys2Proof.Machine

open Sys2Proof

/-- The stepping of the module (spec/00_scope.md R1). -/
inductive Stepping where
  | a0 | b0
  deriving DecidableEq, Repr

/-- What stops a step. -/
inductive Fault where
  /-- An agenda item names a unit that spec/01_machine.md Table 01.1 does not list (a hart of 8,192 or above, a die of 8
  or above, a VI of 128 or above). Raised by the events. Safe: no hardware event names one. -/
  | noSuchUnit
  deriving DecidableEq, Repr

/-- Why an instruction has no meaning. -/
inductive Refusal where
  /-- The instruction is not modelled. Raised by exec's refused arms only. Safe. -/
  | notModelled (mnemonic : String)
  deriving DecidableEq, Repr

/-- One module (spec/01_machine.md Table 01.1), the memories it reaches, and the order in which its agents act. A unit that
a table does not list holds its reset value. agenda, cur and fresh are the model's own (notes/assumptions/1.md, 8.md):
what acts next, the hart whose turn it is when nothing else is due, and the number of the next free value. -/
structure State where
  harts    : Tab Hart
  cores    : Tab Core
  dies     : Tab Die
  slices   : Tab Slice
  vis      : Tab Vi
  queues   : Tab DevQueue
  phys     : Phys
  net      : Net
  fw       : Firmware
  stepping : Stepping
  agenda   : List Act
  cur      : Nat
  fresh    : Nat
  deriving DecidableEq, Repr

/-- The module right after reset: boot step 14 is done (spec/19_host_device.md R429), the PFs' VIs 0 and 64 exist (R428),
every task hart is FREE, nothing runs. -/
def State.reset : State :=
  { harts := [], cores := [], dies := [], slices := [], vis := [(0, Vi.created 0), (64, Vi.created 1)], queues := [],
    phys := Phys.reset, net := Net.reset, fw := Firmware.reset, stepping := .b0, agenda := [], cur := 0, fresh := 2 }

end Sys2Proof.Machine
end

