-- ==== Sys2Proof/Machine/Table.lean ====
section
/-! DEFINITION. Tables by number and memories by address: reading, writing, and the canonical form of a memory. -/

namespace Sys2Proof.Machine

open Sys2Proof

/-- The record a table holds for k, or d when k is not listed. -/
def tget {α : Type} (d : α) : Tab α → Nat → α
  | [], _ => d
  | (j, x) :: t, k => if k = j then x else tget d t k

/-- The table with k holding x; keys stay strictly rising. -/
def tset {α : Type} : Tab α → Nat → α → Tab α
  | [], k, x => [(k, x)]
  | (j, y) :: t, k, x => if k < j then (k, x) :: (j, y) :: t else if k = j then (k, x) :: t else (j, y) :: tset t k x

/-- The table without k. -/
def tdel {α : Type} (t : Tab α) (k : Nat) : Tab α := t.filter fun e => e.1 != k

/-- The record of k when it is listed. -/
def tfind {α : Type} : Tab α → Nat → Option α
  | [], _ => none
  | (j, x) :: t, k => if k = j then some x else tfind t k

/-- The table with k holding x, or k not listed when x is none. -/
def tput {α : Type} (t : Tab α) (k : Nat) : Option α → Tab α
  | some x => tset t k x
  | none => tdel t k

/-- The byte at an address. -/
def Memory.read : Memory → Nat → Byte
  | [], _ => 0
  | (j, x) :: t, k => if k = j then x else Memory.read t k

/-- The memory with the byte at an address written; the canonical form is kept. -/
def Memory.write : Memory → Nat → Byte → Memory
  | [], k, x => if x = 0 then [] else [(k, x)]
  | (j, y) :: t, k, x =>
    if k < j then (if x = 0 then (j, y) :: t else (k, x) :: (j, y) :: t)
    else if k = j then (if x = 0 then t else (k, x) :: t)
    else (j, y) :: Memory.write t k x

/-- Every listed address is at least lo, addresses rise strictly, and no listed byte is 0. -/
def Memory.wfFrom (lo : Nat) : Memory → Bool
  | [] => true
  | (j, x) :: t => lo ≤ j && x != 0 && Memory.wfFrom (j + 1) t

/-- The canonical form. -/
def Memory.wf (m : Memory) : Bool := Memory.wfFrom 0 m

/-- n bytes from an address upwards, lowest first. -/
def Memory.readN (m : Memory) (a n : Nat) : List Byte := (List.range n).map fun k => m.read (a + k)

/-- The memory with bytes written from an address upwards. -/
def Memory.writeN (m : Memory) (a : Nat) : List Byte → Memory
  | [] => m
  | b :: bs => Memory.writeN (m.write a b) (a + 1) bs

/-- The memory with n bytes from an address upwards reading 0. -/
def Memory.zero (m : Memory) (a n : Nat) : Memory := m.filter fun c => c.1 < a || a + n ≤ c.1

/-- The little-endian value of bytes, lowest first (spec/00_scope.md R6). -/
def leNat (bs : List Byte) : Nat := bs.foldr (fun b n => n * 256 + b.toNat) 0

/-- The n low bytes of a value, lowest first. -/
def leBytes (n : Nat) (v : Nat) : List Byte := (List.range n).map fun k => BitVec.ofNat 8 (v >>> (8 * k))

/-- The first i below n with p i. -/
def findBelow (p : Nat → Bool) (n : Nat) : Option Nat := (List.range n).find? p

/-- List position k set to x. -/
def lset {α : Type} (l : List α) (k : Nat) (x : α) : List α := l.set k x

/-- Bits [hi:lo] of a value. -/
def bitsOf (v : Word) (hi lo : Nat) : Nat := (v.toNat >>> lo) % 2 ^ (hi + 1 - lo)

/-- Bit i of a value. -/
def bitOf (v : Word) (i : Nat) : Bool := v.getLsbD i

end Sys2Proof.Machine
end

