-- ==== Sys2Proof/Machine/Access.lean ====
section
/-! DEFINITION. Reading and writing the parts of the state: units by number, g registers, vector elements, the grant. -/

namespace Sys2Proof

/-- Element width in bits, its code in VCFG.EW, and in bytes (spec/03_registers.md Table 03.3). -/
def Ew.width : Ew → Nat
  | .e8 => 8
  | .e16 => 16
  | .e32 => 32
  | .e64 => 64

def Ew.code : Ew → Nat
  | .e8 => 0
  | .e16 => 1
  | .e32 => 2
  | .e64 => 3

def Ew.bytes (e : Ew) : Nat := e.width / 8

/-- The cause that a reader of a poisoned value takes (spec/02_encoding.md R58). -/
def ErrCause.toCause : ErrCause → Machine.Cause
  | .dataEcc => .dataEcc
  | .linkLost => .linkLost

end Sys2Proof

namespace Sys2Proof.Machine

open Sys2Proof

/-- What a meaning answers. -/
abbrev Out := Host.Outcome State Fault Refusal

/-! ## Units by number (spec/01_machine.md Table 01.1) -/

/-- R15: hart 7 of local core 0 of every cluster is a firmware hart. -/
def isFirmwareHart (h : Nat) : Bool := h % 64 == 7

/-- What a hart is until something is written to it. -/
def Hart.initial (h : Nat) : Hart := if isFirmwareHart h then Hart.firmware else Hart.reset

def State.hart (s : State) (h : Nat) : Hart := tget (Hart.initial h) s.harts h
def State.setHart (s : State) (h : Nat) (x : Hart) : State := { s with harts := tset s.harts h x }
def State.modHart (s : State) (h : Nat) (f : Hart → Hart) : State := s.setHart h (f (s.hart h))
def State.core (s : State) (c : Nat) : Core := tget Core.reset s.cores c
def State.setCore (s : State) (c : Nat) (x : Core) : State := { s with cores := tset s.cores c x }
def State.modCore (s : State) (c : Nat) (f : Core → Core) : State := s.setCore c (f (s.core c))
def State.die (s : State) (d : Nat) : Die := tget Die.reset s.dies d
def State.setDie (s : State) (d : Nat) (x : Die) : State := { s with dies := tset s.dies d x }
def State.modDie (s : State) (d : Nat) (f : Die → Die) : State := s.setDie d (f (s.die d))
def State.slice (s : State) (k : Nat) : Slice := tget Slice.reset s.slices k
def State.setSlice (s : State) (k : Nat) (x : Slice) : State := { s with slices := tset s.slices k x }
def State.modSlice (s : State) (k : Nat) (f : Slice → Slice) : State := s.setSlice k (f (s.slice k))
def State.vi (s : State) (v : Nat) : Vi := tget Vi.absent s.vis v
def State.setVi (s : State) (v : Nat) (x : Vi) : State := { s with vis := tset s.vis v x }
def State.modVi (s : State) (v : Nat) (f : Vi → Vi) : State := s.setVi v (f (s.vi v))
def State.queue (s : State) (q : Nat) : DevQueue := tget DevQueue.reset s.queues q
def State.setQueue (s : State) (q : Nat) (x : DevQueue) : State := { s with queues := tset s.queues q x }
def State.modQueue (s : State) (q : Nat) (f : DevQueue → DevQueue) : State := s.setQueue q (f (s.queue q))

/-- The task harts that something has been written to (spec/01_machine.md R15). -/
def State.tasks (s : State) : Tab Hart := s.harts.filter fun e => !isFirmwareHart e.1

/-- The hart whose turn it is. -/
def State.me (s : State) : Hart := s.hart s.cur
def State.setMe (s : State) (x : Hart) : State := s.setHart s.cur x
def State.modMe (s : State) (f : Hart → Hart) : State := s.setMe (f s.me)

/-- The core, die and cluster of a hart number; the die of a core number. -/
def coreOf (h : Nat) : Nat := h / 8
def dieOf (h : Nat) : Nat := h / 1024
def dieOfCore (c : Nat) : Nat := c / 128
def clusterOf (c : Nat) : Nat := c / 8

/-- Local cores 0 and 4 of each cluster are G-cores (Table 01.1). -/
def isGCore (c : Nat) : Bool := c % 4 == 0

/-- The eight harts of a core. -/
def hartsOf (c : Nat) : List Nat := (List.range 8).map fun h => c * 8 + h

/-- A free value: the number it is, and the state with the next number (notes/assumptions/8.md). -/
def State.draw (s : State) : Nat × State := (s.fresh, { s with fresh := s.fresh + 1 })

/-! ## Scalar registers (spec/03_registers.md Table 03.1) -/

/-- g[r]; g0 reads 0. -/
def Hart.readG (x : Hart) (r : Reg) : Word :=
  if r = 0 then 0 else x.core.g[r.toNat]'(by have := r.isLt; omega)

/-- g[r] := v; writes to g0 are discarded. A write replaces a poisoned value, and a status that would trap at its reader
(spec/07_matrix_isa.md R180) is then left to mwait: 64 names no register. -/
def Hart.writeG (x : Hart) (r : Reg) (v : Word) : Hart :=
  if r = 0 then x
  else { x with core := { x.core with g := x.core.g.set r.toNat v (by have := r.isLt; omega),
                                      gPoison := tdel x.core.gPoison r.toNat },
                caps := x.caps.map fun c => if c.1 = r.toNat then (64, c.2) else c }

/-- g[r] is written poisoned (spec/02_encoding.md R58). -/
def Hart.poisonG (x : Hart) (r : Reg) (v : Word) (p : Poison) : Hart :=
  if r = 0 then x
  else let y := x.writeG r v
       { y with core := { y.core with gPoison := tset y.core.gPoison r.toNat p } }

/-- A result with the poison it may carry. -/
def Hart.putG (x : Hart) (r : Reg) (v : Word) : Option Poison → Hart
  | none => x.writeG r v
  | some p => x.poisonG r v p

/-- The poison of the first poisoned register among those read. -/
def Hart.gPoisonOf (x : Hart) : List Reg → Option Poison
  | [] => none
  | r :: rs => if r = 0 then x.gPoisonOf rs else
    match tfind x.core.gPoison r.toNat with
    | some p => some p
    | none => x.gPoisonOf rs

def Hart.setVs (x : Hart) (v : VState) : Hart := { x with core := { x.core with vs := v } }
def Hart.modVs (x : Hart) (f : VState → VState) : Hart := x.setVs (f x.core.vs)
def Hart.setSt (x : Hart) (st : HState) : Hart := { x with core := { x.core with st := st } }

/-- FFLAGS gathers flags by OR (spec/04_numbers.md R89). -/
def Hart.raise (x : Hart) (fl : BitVec 5) : Hart := { x with core := { x.core with fflags := x.core.fflags ||| fl } }

/-! ## The grant and the vector layout (spec/01_machine.md R21, R22) -/

/-- G. -/
def Hart.G (x : Hart) : Nat := x.lanes.grant.length

/-- The GRP that a code names: 1, 2, 4 or 8. -/
def grpOf (code : BitVec 2) : Nat := 2 ^ code.toNat

/-- VLMAX of R22 for a width and a grouping. -/
def vlmaxAt (G w grp : Nat) : Nat := G * 1024 * grp / w

def VCfg.w (c : VCfg) : Nat := c.ew.width
def VCfg.p (c : VCfg) : Nat := grpOf c.grp

/-- VLMAX under the hart's VCFG and grant. -/
def Hart.vlmax (x : Hart) : Nat := vlmaxAt x.G x.core.vs.cfg.w x.core.vs.cfg.p

/-- Elements of width w that one register holds. -/
def Hart.perReg (x : Hart) (w : Nat) : Nat := x.G * 1024 / w

/-- Register n of the file; numbers above 63 read 0. -/
def VState.reg (v : VState) (n : Nat) : VReg := if h : n < 64 then v.v[n] else 0

/-- Register n written; a number above 63 writes nothing. -/
def VState.setReg (v : VState) (n : Nat) (x : VReg) : VState :=
  if h : n < 64 then { v with v := v.v.set n x } else v

/-- w bits of a register from bit b. -/
def regBits (r : VReg) (b w : Nat) : Nat := (r.toNat >>> b) % 2 ^ w

/-- w bits of a register from bit b set to the low w bits of x. -/
def regPut (r : VReg) (b w x : Nat) : VReg :=
  let m := (2 ^ w - 1) <<< b
  BitVec.ofNat 16384 ((r.toNat &&& (2 ^ 16384 - 1 - m)) ||| ((x % 2 ^ w) <<< b))

/-- Element i of width w of the register group that begins at n (spec/06_vector_isa.md R127). -/
def Hart.elem (x : Hart) (n w i : Nat) : Nat :=
  let e := x.perReg w
  if e = 0 then 0 else regBits (x.core.vs.reg (n + i / e)) (i % e * w) w

/-- The keys of the bytes of an element in VState.vPoison. -/
def Hart.elemKeys (x : Hart) (n w i : Nat) : List Nat :=
  let e := x.perReg w
  if e = 0 then [] else (List.range (w / 8)).map fun k => (n + i / e) * 2048 + i % e * (w / 8) + k

/-- The poison of an element. -/
def Hart.elemPoison (x : Hart) (n w i : Nat) : Option Poison :=
  if x.core.vs.vPoison.isEmpty then none else (x.elemKeys n w i).findSome? fun k => tfind x.core.vs.vPoison k

/-- Element i of width w of group n written, with its poison. -/
def Hart.setElem (x : Hart) (n w i v : Nat) (p : Option Poison) : Hart :=
  let e := x.perReg w
  if e = 0 then x else
    let r := n + i / e
    let vs := x.core.vs.setReg r (regPut (x.core.vs.reg r) (i % e * w) w v)
    let ps := if vs.vPoison.isEmpty && p.isNone then [] else
      (x.elemKeys n w i).foldl (fun t k => tput t k p) vs.vPoison
    x.setVs { vs with vPoison := ps }

/-- Two values of a rounding-mode field. -/
def RMode.ofField (f : RmF) (dyn : RMode) : RMode :=
  match f with
  | .rne => .rne
  | .rtz => .rtz
  | .rdn => .rdn
  | .rup => .rup
  | .rmm => .rmm
  | .dyn => dyn

def RMode.code : RMode → Nat
  | .rne => 0
  | .rtz => 1
  | .rdn => 2
  | .rup => 3
  | .rmm => 4

def RMode.ofNat? : Nat → Option RMode
  | 0 => some .rne
  | 1 => some .rtz
  | 2 => some .rdn
  | 3 => some .rup
  | 4 => some .rmm
  | _ => none

def Mode.code : Mode → Nat
  | .u => 0
  | .s => 1
  | .m => 3

def Cause.code : Cause → Nat
  | .illegal => 0x01 | .rsvdField => 0x02 | .lifetime => 0x03 | .priv => 0x04 | .equip => 0x05 | .maskStack => 0x06
  | .ifetchPage => 0x08 | .ifetchAlign => 0x09 | .loadPage => 0x10 | .storePage => 0x11 | .access => 0x12
  | .align => 0x13 | .samplePage => 0x15 | .watch => 0x18 | .brk => 0x19 | .dataEcc => 0x20 | .linkLost => 0x21
  | .ecallU => 0x30 | .ecallS => 0x31 | .preempt => 0x38 | .reclaimTimeout => 0x39 | .cycleMatch => 0x3A
  | .matrixCap => 0x40 | .encodeTable => 0x41

/-- VCFG as its register reads (spec/03_registers.md Table 03.3). -/
def VCfg.toWord (c : VCfg) : Word :=
  BitVec.ofNat 64 (c.ew.code + c.grp.toNat * 16 + c.sc.toNat * 256 + c.rm.code * 4096 + c.vl.toNat * 2 ^ 32)

def VFlags.toNat (f : VFlags) : Nat := (if f.n then 1 else 0) + (if f.s then 2 else 0) + (if f.a then 4 else 0)
def VFlags.ofNat (n : Nat) : VFlags := { n := n.testBit 0, s := n.testBit 1, a := n.testBit 2 }

/-- A signed reading of the low w bits. -/
def toSigned (w n : Nat) : Int := if n % 2 ^ w < 2 ^ (w - 1) then (n % 2 ^ w : Nat) else (n % 2 ^ w : Nat) - (2 ^ w : Nat)

/-- An integer narrowed to w bits, two's complement. -/
def ofSigned (w : Nat) (z : Int) : Nat := (z % (2 ^ w : Nat)).toNat

end Sys2Proof.Machine
end

