-- ==== Sys2Proof/Machine/Float.lean ====
section
/-! DEFINITION. Float arithmetic (spec/04_numbers.md): formats, exact values, one rounding, flags. An operation answers
the result's bits and its flags. -/

namespace Sys2Proof.Machine

open Sys2Proof

/-- Exponent and fraction widths of a format; its bias is 2^(e−1) − 1 (R83, Table 04.1). -/
structure FpK where
  e : Nat
  f : Nat
  deriving DecidableEq, Repr

namespace FpK
def h : FpK := { e := 5, f := 10 }
def bf : FpK := { e := 8, f := 7 }
def s : FpK := { e := 8, f := 23 }
def d : FpK := { e := 11, f := 52 }
/-- E8M10 (R92). -/
def m10 : FpK := { e := 8, f := 10 }
def width (k : FpK) : Nat := 1 + k.e + k.f
def bias (k : FpK) : Int := (2 : Int) ^ (k.e - 1) - 1
def emax (k : FpK) : Nat := 2 ^ k.e - 1
/-- The canonical NaN (Table 04.1). -/
def nan (k : FpK) : Nat := k.emax * 2 ^ k.f + 2 ^ (k.f - 1)
def inf (k : FpK) (neg : Bool) : Nat := (if neg then 2 ^ (k.e + k.f) else 0) + k.emax * 2 ^ k.f
def maxFinite (k : FpK) (neg : Bool) : Nat := k.inf neg - 1
def zero (k : FpK) (neg : Bool) : Nat := if neg then 2 ^ (k.e + k.f) else 0
end FpK

end Sys2Proof.Machine

namespace Sys2Proof

/-- The format a suffix names (spec/05_scalar_isa.md Table 05.3). -/
def Fmt.k : Fmt → Machine.FpK
  | .h => .h
  | .bf => .bf
  | .s => .s
  | .d => .d

end Sys2Proof

namespace Sys2Proof.Machine

open Sys2Proof

/-- A float's value: a NaN (signalling or not), an infinity, or ±m × 2^e. -/
inductive Fp where
  | nan (sig : Bool)
  | inf (neg : Bool)
  | fin (neg : Bool) (m : Nat) (e : Int)
  deriving DecidableEq, Repr

abbrev Flags := BitVec 5
/-- Table 04.3. -/
def fNV : Flags := 16
def fDZ : Flags := 8
def fOF : Flags := 4
def fUF : Flags := 2
def fNX : Flags := 1

/-- R83. -/
def Fp.unpack (k : FpK) (n : Nat) : Fp :=
  let fr := n % 2 ^ k.f
  let ex := (n >>> k.f) % 2 ^ k.e
  let neg := n.testBit (k.e + k.f)
  if ex = k.emax then (if fr = 0 then .inf neg else .nan (!fr.testBit (k.f - 1)))
  else if ex = 0 then .fin neg fr (1 - k.bias - k.f)
  else .fin neg (2 ^ k.f + fr) (ex - k.bias - k.f)

def Fp.isNan : Fp → Bool
  | .nan _ => true
  | _ => false

def Fp.isSig : Fp → Bool
  | .nan b => b
  | _ => false

def Fp.neg : Fp → Bool
  | .nan _ => false
  | .inf b => b
  | .fin b _ _ => b

def Fp.isZero : Fp → Bool
  | .fin _ m _ => m == 0
  | _ => false

/-- The value with its sign inverted. -/
def Fp.flip : Fp → Fp
  | .nan b => .nan b
  | .inf b => .inf (!b)
  | .fin b m e => .fin (!b) m e

/-- NV for a signalling operand. -/
def sigNV (xs : List Fp) : Flags := if xs.any Fp.isSig then fNV else 0

/-- Whether to step a truncated magnitude away from zero (Table 04.2): odd, above, tie and exact say where the exact value
lies between the two neighbours. -/
def roundsUp (rm : RMode) (neg odd : Bool) (twiceRem : Ordering) (exact : Bool) : Bool :=
  if exact then false else
    match rm with
    | .rne => twiceRem == .gt || (twiceRem == .eq && odd)
    | .rmm => twiceRem == .gt || twiceRem == .eq
    | .rtz => false
    | .rdn => neg
    | .rup => !neg

/-- m × 2^e, and more by less than one unit when sticky, rounded to a multiple of 2^q: the multiple and whether it is
inexact. m has bits to spare below 2^q when sticky. -/
def roundTo (rm : RMode) (neg : Bool) (m : Nat) (e : Int) (sticky : Bool) (q : Int) : Nat × Bool :=
  if q ≤ e then (m <<< (e - q).toNat, sticky) else
    let sh := (q - e).toNat
    let t := m >>> sh
    let r := m % 2 ^ sh
    let half := 2 ^ (sh - 1)
    let c : Ordering := if r < half then .lt else if r = half && !sticky then .eq else .gt
    let exact := r == 0 && !sticky
    (if roundsUp rm neg (t.testBit 0) c exact then t + 1 else t, !exact)

/-- R86, R87: the magnitude m × 2^e (not zero; more by less than one unit when sticky) rounded to a format. -/
def roundMag (k : FpK) (rm : RMode) (neg : Bool) (m : Nat) (e : Int) (sticky : Bool) : Nat × Flags :=
  let top := (Nat.log2 m : Int) + e
  let emin := 1 - k.bias
  let unb := roundTo rm neg m e sticky (top - k.f)
  let tiny : Bool := (Nat.log2 unb.1 : Int) + (top - k.f) < emin
  let q := max (top - k.f) (emin - k.f)
  let r := roundTo rm neg m e sticky q
  let big : Bool := r.1 != 0 && k.bias < (Nat.log2 r.1 : Int) + q
  let nx : Flags := if r.2 then fNX else 0
  if big then
    let toInf := match rm with
      | .rne | .rmm => true
      | .rtz => false
      | .rdn => neg
      | .rup => !neg
    (if toInf then k.inf neg else k.maxFinite neg, fOF ||| fNX)
  else
    -- the encoding of r × 2^q: its exponent field, or 0 for a subnormal; a carry moves into the exponent by itself
    let sig := r.1
    let bits := if sig < 2 ^ k.f then sig
      else let l := Nat.log2 sig
           ((l + q + k.bias).toNat <<< k.f) + ((sig >>> (l - k.f)) % 2 ^ k.f)
    (k.zero neg + bits, nx ||| (if tiny && r.2 then fUF else 0))

/-- An exact value z × 2^e rounded; an exact zero takes the sign given. -/
def roundInt (k : FpK) (rm : RMode) (z : Int) (e : Int) (zeroNeg : Bool) : Nat × Flags :=
  if z = 0 then (k.zero zeroNeg, 0) else roundMag k rm (z < 0) z.natAbs e false

/-- m × 2^e with its sign. -/
def sInt (neg : Bool) (m : Nat) : Int := if neg then -(m : Int) else m

/-- The exact sum of two finite values as z × 2^e. -/
def addDy (n1 : Bool) (m1 : Nat) (e1 : Int) (n2 : Bool) (m2 : Nat) (e2 : Int) : Int × Int :=
  let e := min e1 e2
  (sInt n1 (m1 <<< (e1 - e).toNat) + sInt n2 (m2 <<< (e2 - e).toNat), e)

/-- R87: the sign of an exact zero sum of values of signs n1 and n2. -/
def zeroSign (rm : RMode) (n1 n2 : Bool) : Bool := if n1 == n2 then n1 else rm == .rdn

/-- The sum of two unpacked values, one rounding. -/
def addFp (k : FpK) (rm : RMode) (x y : Fp) : Nat × Flags :=
  match x, y with
  | .nan _, _ => (k.nan, sigNV [x, y])
  | _, .nan _ => (k.nan, sigNV [x, y])
  | .inf a, .inf b => if a == b then (k.inf a, 0) else (k.nan, fNV)
  | .inf a, .fin _ _ _ => (k.inf a, 0)
  | .fin _ _ _, .inf b => (k.inf b, 0)
  | .fin n1 m1 e1, .fin n2 m2 e2 =>
    let (z, e) := addDy n1 m1 e1 n2 m2 e2
    roundInt k rm z e (zeroSign rm n1 n2)

def fAdd (k : FpK) (rm : RMode) (a b : Nat) : Nat × Flags := addFp k rm (.unpack k a) (.unpack k b)

def fSub (k : FpK) (rm : RMode) (a b : Nat) : Nat × Flags := addFp k rm (.unpack k a) (Fp.unpack k b).flip

/-- The exact product; none: 0 × ∞. -/
def mulFp (x y : Fp) : Option Fp :=
  match x, y with
  | .nan a, .nan b => some (.nan (a || b))
  | .nan a, _ => some (.nan a)
  | _, .nan b => some (.nan b)
  | .inf a, .inf b => some (.inf (a != b))
  | .inf a, .fin b m _ => if m = 0 then none else some (.inf (a != b))
  | .fin a m _, .inf b => if m = 0 then none else some (.inf (a != b))
  | .fin a m1 e1, .fin b m2 e2 => some (.fin (a != b) (m1 * m2) (e1 + e2))

/-- A single value rounded. -/
def roundFp (k : FpK) (rm : RMode) : Fp → Nat × Flags
  | .nan s => (k.nan, if s then fNV else 0)
  | .inf n => (k.inf n, 0)
  | .fin n m e => roundInt k rm (sInt n m) e n

def fMul (k : FpK) (rm : RMode) (a b : Nat) : Nat × Flags :=
  match mulFp (.unpack k a) (.unpack k b) with
  | none => (k.nan, fNV)
  | some p => roundFp k rm p

/-- a × b + c with one rounding; the product's sign and the addend's sign are inverted on request (R112). -/
def fFma (k : FpK) (rm : RMode) (negP negC : Bool) (a b c : Nat) : Nat × Flags :=
  let z := Fp.unpack k c
  let z := if negC then z.flip else z
  match mulFp (.unpack k a) (.unpack k b) with
  | none => (k.nan, fNV)
  | some p => addFp k rm (if negP then p.flip else p) z

/-- The quotient of two unpacked values, one rounding. -/
def divFp (k : FpK) (rm : RMode) (x y : Fp) : Nat × Flags :=
  match x, y with
  | .nan _, _ => (k.nan, sigNV [x, y])
  | _, .nan _ => (k.nan, sigNV [x, y])
  | .inf _, .inf _ => (k.nan, fNV)
  | .inf n, .fin n2 _ _ => (k.inf (n != n2), 0)
  | .fin n _ _, .inf n2 => (k.zero (n != n2), 0)
  | .fin n1 m1 e1, .fin n2 m2 e2 =>
    let n := n1 != n2
    if m2 = 0 then (if m1 = 0 then (k.nan, fNV) else (k.inf n, fDZ))
    else if m1 = 0 then (k.zero n, 0)
    else
      let sh := 2 * k.f + 8
      let q := (m1 <<< sh) / m2
      roundMag k rm n q (e1 - e2 - sh) ((m1 <<< sh) % m2 != 0)

def fDiv (k : FpK) (rm : RMode) (a b : Nat) : Nat × Flags := divFp k rm (.unpack k a) (.unpack k b)

/-- The integer square root, by bits from 2^k down; r is the root of the bits found. -/
def isqrtBits (n : Nat) : Nat → Nat → Nat
  | 0, r => r
  | k + 1, r =>
    let t := r + 2 ^ k
    isqrtBits n k (if t * t ≤ n then t else r)

def isqrt (n : Nat) : Nat := isqrtBits n (Nat.log2 n / 2 + 1) 0

def fSqrt (k : FpK) (rm : RMode) (a : Nat) : Nat × Flags :=
  match Fp.unpack k a with
  | .nan s => (k.nan, if s then fNV else 0)
  | .inf n => if n then (k.nan, fNV) else (k.inf false, 0)
  | .fin n m e =>
    if m = 0 then (k.zero n, 0) else if n then (k.nan, fNV) else
      let sh := 2 * k.f + 8
      -- an even exponent, so that the root is an integer times a power of two
      let odd := (e - sh) % 2 != 0
      let m' := (m <<< sh) <<< (if odd then 1 else 0)
      let e' := e - sh - (if odd then 1 else 0)
      let r := isqrt m'
      roundMag k rm false r (e' / 2) (r * r != m')

/-- The exact order of two values that are no NaNs; −0 equals +0. -/
def cmpFp (x y : Fp) : Ordering :=
  match x, y with
  | .inf a, .inf b => if a == b then .eq else if a then .lt else .gt
  | .inf a, _ => if a then .lt else .gt
  | _, .inf b => if b then .gt else .lt
  | .fin n1 m1 e1, .fin n2 m2 e2 =>
    let z := (addDy n1 m1 e1 (!n2) m2 e2).1
    if z < 0 then .lt else if z = 0 then .eq else .gt
  | _, _ => .eq

/-- R113. -/
def fMinMax (k : FpK) (isMax : Bool) (a b : Nat) : Nat × Flags :=
  let x := Fp.unpack k a
  let y := Fp.unpack k b
  let fl := sigNV [x, y]
  if x.isNan && y.isNan then (k.nan, fl)
  else if x.isNan then (b, fl)
  else if y.isNan then (a, fl)
  else
    let aLess := match cmpFp x y with
      | .lt => true
      | .gt => false
      | .eq => x.neg && !y.neg
    (if aLess == isMax then b else a, fl)

/-- R114. -/
def fCmp (k : FpK) (c : FCond) (a b : Nat) : Bool × Flags :=
  let x := Fp.unpack k a
  let y := Fp.unpack k b
  let un := x.isNan || y.isNan
  match c with
  | .eq => (!un && cmpFp x y == .eq, sigNV [x, y])
  | .lt => (!un && cmpFp x y == .lt, if un then fNV else 0)
  | .le => (!un && cmpFp x y != .gt, if un then fNV else 0)
  | .un => (un, sigNV [x, y])

/-- R90, R115. -/
def fCvt (dst src : FpK) (rm : RMode) (a : Nat) : Nat × Flags :=
  let x := Fp.unpack src a
  if dst = src && !x.isNan then (a, 0) else roundFp dst rm x

/-- The range of an integer type. -/
def intRange (signed : Bool) (n : Nat) : Int × Int :=
  if signed then (-(2 : Int) ^ (n - 1), (2 : Int) ^ (n - 1) - 1) else (0, (2 : Int) ^ n - 1)

/-- R91: the integer of n bits. -/
def fToInt (k : FpK) (rm : RMode) (signed : Bool) (n : Nat) (a : Nat) : Int × Flags :=
  let (lo, hi) := intRange signed n
  match Fp.unpack k a with
  | .nan _ => (hi, fNV)
  | .inf neg => (if neg then lo else hi, fNV)
  | .fin neg m e =>
    let (r, nx) := roundTo rm neg m e false 0
    let z := sInt neg r
    if z < lo then (lo, fNV) else if hi < z then (hi, fNV) else (z, if nx then fNX else 0)

/-- An integer rounded to a format (R86). -/
def intToF (k : FpK) (rm : RMode) (z : Int) : Nat × Flags := roundInt k rm z 0 false

/-- R116. -/
def fClass (k : FpK) (a : Nat) : Nat :=
  match Fp.unpack k a with
  | .nan s => if s then 1 <<< 8 else 1 <<< 9
  | .inf n => if n then 1 else 1 <<< 7
  | .fin n m _ =>
    if m = 0 then (if n then 1 <<< 3 else 1 <<< 4)
    else if m < 2 ^ k.f then (if n then 1 <<< 2 else 1 <<< 5)
    else (if n then 1 <<< 1 else 1 <<< 6)

/-- R117. -/
def fSgn (k : FpK) (op : SgnOp) (a b : Nat) : Nat :=
  let sb := k.e + k.f
  let sa := a.testBit sb
  let s := match op with
    | .copy => b.testBit sb
    | .neg => !b.testBit sb
    | .xor => sa != b.testBit sb
  a % 2 ^ sb + (if s then 2 ^ sb else 0)

/-- frnd (R112). -/
def fRnd (k : FpK) (rm : RMode) (a : Nat) : Nat × Flags :=
  match Fp.unpack k a with
  | .nan s => (k.nan, if s then fNV else 0)
  | .inf n => (k.inf n, 0)
  | .fin n m e =>
    let (r, nx) := roundTo rm n m e false 0
    if m = 0 || !nx then (a % 2 ^ k.width, 0)
    else ((if r = 0 then k.zero n else (roundMag k .rtz n r 0 false).1), fNX)

end Sys2Proof.Machine
end

