-- ==== Sys2Proof/Machine/Codes.lean ====
section
/-! DEFINITION. Table codes (spec/04_numbers.md R92-R104): decode tables, block scales, encoding, the sums of mma and the
Hadamard transform. -/

namespace Sys2Proof.Machine

open Sys2Proof

/-! ## Decode tables -/

/-- Entry c of a table, an E8M10 value (R93). -/
def dtEntry (t : DTable) (c : Nat) : Nat := (t.toNat >>> (32 * c)) % 2 ^ 19

/-- The value of an entry; a NaN is quiet (R92). -/
def dtValue (t : DTable) (c : Nat) : Fp :=
  match Fp.unpack .m10 (dtEntry t c) with
  | .nan _ => .nan false
  | v => v

/-- Codes of the non-negative half: 0x80 for 8-bit codes, 8 for 4-bit codes. -/
def Code.half : Code → Nat
  | .q8 => 0x80
  | .q4 => 8

/-- p of R95: the leading entries that are not NaN. -/
def dtP (t : DTable) (h : Nat) : Nat := (findBelow (fun c => (dtValue t c).isNan) h).getD h

/-- R95: the table is encodable for codes of this width. -/
def dtEncodable (t : DTable) (q : Code) : Bool :=
  let h := Code.half q
  let p := dtP t h
  2 ≤ p && dtEntry t 0 == 0 &&
  ((List.range p).all fun c => dtEntry t c < 2 ^ 18 && (c == 0 || cmpFp (dtValue t (c - 1)) (dtValue t c) == .lt)) &&
  ((List.range h).all fun c => c < p || ((dtValue t c).isNan && dtEntry t c < 2 ^ 18)) &&
  ((List.range h).all fun c => dtEntry t (h + c) == dtEntry t c % 2 ^ 18 + 2 ^ 18)

/-- DTSTAT.ENC shows 8-bit codes. -/
def dtEnc (t : DTable) : Bool := dtEncodable t .q8

/-! ## Block scales (R98, R99) -/

/-- A NaN block. -/
def scaleNan (w : Nat) : Bool := (w >>> 16) % 256 == 255 || (w >>> 26) % 64 != 0

/-- The decode table of a block. -/
def scaleTab (w : Nat) : Nat := (w >>> 24) % 4

/-- The scale value. -/
def scaleFp (w : Nat) : Fp :=
  let e := (w >>> 16) % 256
  let f := w % 65536
  if e = 0 then .fin false f (-126 - 16) else .fin false (65536 + f) ((e : Int) - 127 - 16)

/-! ## Rounding to binary32 (sat32 of R101) -/

/-- An exact value rounded under RNE to binary32; with sat an overflow gives the largest finite value. -/
def satRound (sat : Bool) (v : Fp) : Nat × Flags :=
  let r := roundFp .s .rne v
  match v with
  | .fin n _ _ => if sat && r.2 &&& fOF != 0 then (FpK.s.maxFinite n, r.2) else r
  | .nan _ => (FpK.s.nan, 0)
  | _ => r

/-- A product by a scale: none when infinity meets a zero scale. -/
def scaleMul (v : Fp) (s : Fp) : Option Fp := mulFp v s

/-- sat32 of a value times scales. -/
def satScaled (sat : Bool) (v : Fp) (ss : List Fp) : Nat × Flags :=
  match ss.foldl (fun a s => a.bind fun x => mulFp x s) (some v) with
  | none => (FpK.s.nan, fNV)
  | some z => satRound sat z

/-! ## Encoding (R97) -/

/-- The distance from entry c to a finite value m, as a fraction over 2^200. -/
def dtDist (t : DTable) (m : Fp) (c : Nat) : Option Int :=
  match m, dtValue t c with
  | .fin _ a e, .fin _ b k =>
    let d := addDy false a e true b k
    some ((d.1.natAbs : Int) * 2 ^ (d.2 + 200).toNat)
  | _, _ => none

/-- The code of a value q (binary32 bits) through an encodable table. -/
def dtEncode (t : DTable) (w : Code) (q : Nat) : Nat × Flags :=
  let h := Code.half w
  let p := dtP t h
  match Fp.unpack .s q with
  | .nan _ => if p < h then (p, 0) else (0, fNV)
  | v =>
    let m := if v.neg then v.flip else v
    let r : Nat × Flags :=
      if cmpFp m (dtValue t (p - 1)) == .gt then (p - 1, fOF ||| fNX)
      else
        match m with
        | .fin _ _ _ =>
          let c := (List.range p).foldl (fun (best : Nat × Option Int) c =>
            match best.2, dtDist t m c with
            | none, some d => (c, some d)
            | some b, some d => if d < b then (c, some d) else best
            | _, none => best) (0, none)
          (c.1, if cmpFp (dtValue t c.1) m == .eq then 0 else fNX)
        | _ => (p - 1, 0)
    (if v.neg then h + r.1 else r.1, r.2)

/-- A binary32 value encoded in a block of scale word sw: a NaN block gives code 0 with NV (R97, R99). -/
def encodeCode (t : DTable) (w : Code) (sw x : Nat) : Nat × Flags :=
  if scaleNan sw then (0, fNV) else
    let q := divFp .s .rne (.unpack .s x) (scaleFp sw)
    let r := dtEncode t w q.1
    (r.1, q.2 ||| r.2)

/-! ## The sums of mma (R101, R102) -/

/-- An exact sum in the window of a group: the products truncated to multiples of u, and whether a bit was dropped. -/
def groupSum (ps : List (Bool × Nat × Int)) : Fp × Bool :=
  let nz := ps.filter fun p => p.2.1 != 0
  match nz with
  | [] => (.fin false 0 0, false)
  | p0 :: _ =>
    let top := nz.foldl (fun m p => max m ((Nat.log2 p.2.1 : Int) + p.2.2)) ((Nat.log2 p0.2.1 : Int) + p0.2.2)
    let u := top - 46
    let r := nz.foldl (fun (a : Int × Bool) p =>
      let t := roundTo .rtz p.1 p.2.1 p.2.2 false u
      (a.1 + sInt p.1 t.1, a.2 || t.2)) (0, false)
    (.fin (r.1 < 0) r.1.natAbs u, r.2)

/-- A group of products with its NaN-block condition: the value s and its flags. -/
def mmaGroup (nanBlock : Bool) (as bs : List Fp) : Fp × Flags :=
  let ps := as.zipWith mulFp bs
  let infs := ps.filterMap fun p => match p with
    | some (.inf n) => some n
    | _ => none
  let invalid := ps.any (fun p => p.isNone) || (infs.contains true && infs.contains false)
  let nv : Flags := if nanBlock || invalid || as.any Fp.isSig || bs.any Fp.isSig then fNV else 0
  if nanBlock || invalid || ps.any (fun p => match p with
      | some v => v.isNan
      | none => true) then (.nan false, nv)
  else
    match infs with
    | n :: _ => (.inf n, nv)
    | [] =>
      let r := groupSum (ps.filterMap fun p => match p with
        | some (.fin n m e) => some (n, m, e)
        | _ => none)
      (r.1, nv ||| (if r.2 then fNX else 0))

/-- A group sum times the two scales of its block: a zero scale contributes +0 whatever the sign of the sum
(spec/07_matrix_isa.md R162; notes/assumptions/38.md). -/
def blockScaled (sat : Bool) (g x y : Fp) : Nat × Flags :=
  match g with
  | .fin _ _ _ => if x.isZero || y.isZero then (0, 0) else satScaled sat g [x, y]
  | _ => satScaled sat g [x, y]

/-- acc + y as sat32. A signalling NaN in the accumulator becomes the canonical NaN and raises no NV: R101 says that a NaN
which acc carries in raises none, against Table 04.3's rule for a signalling operand (notes/assumptions/130.md). -/
def satAcc (sat : Bool) (acc y : Nat) : Nat × Flags :=
  let a := Fp.unpack .s acc
  let b := Fp.unpack .s y
  if a.isNan || b.isNan then (FpK.s.nan, 0) else
    let r := addFp .s .rne a b
    match a, b with
    | .fin _ _ _, .fin _ _ _ => if sat && r.2 &&& fOF != 0 then (FpK.s.maxFinite (r.1.testBit 31), r.2) else r
    | _, _ => r

/-- One group added to an accumulator: with the scale words of both sides for coded formats. -/
def mmaStep (sat : Bool) (acc : Nat × Flags) (scales : Option (Nat × Nat)) (as bs : List Fp) : Nat × Flags :=
  let nb := match scales with
    | some (x, y) => scaleNan x || scaleNan y
    | none => false
  let g := mmaGroup nb as bs
  let y := match scales with
    | some (x, z) => blockScaled sat g.1 (scaleFp x) (scaleFp z)
    | none => satRound sat g.1
  let r := satAcc sat acc.1 y.1
  (r.1, acc.2 ||| g.2 ||| y.2 ||| r.2)

/-! ## Scale arithmetic of vscl (R176) -/

/-- The rounded format of scale values: exponent 8 bits, fraction 16. -/
def scaleK : FpK := { e := 8, f := 16 }

/-- The new scale word for a factor f. -/
def scaleBy (sat : Bool) (tab : Option Nat) (w f : Nat) : Nat × Flags :=
  if scaleNan w then (w, 0) else
    let v := Fp.unpack .s f
    let s := scaleFp w
    let bad := match v with
      | .nan _ => true
      | .inf n => n || s.isZero
      | .fin n m _ => n && m != 0
    if bad then (0x00FF0000, fNV) else
      let tab := (tab.getD (scaleTab w)) * 2 ^ 24
      let big : Nat := if sat then 254 * 65536 + 0xFFFF else 255 * 65536
      match v with
      | .fin _ m e =>
        match s with
        | .fin _ m2 e2 =>
          let r := roundInt scaleK .rne (m * m2 : Nat) (e + e2) false
          (tab + (if r.2 &&& fOF != 0 then big else r.1), r.2)
        | _ => (tab, 0)
      | _ => (tab + big, fOF ||| fNX)

/-! ## Hadamard transform (R104) -/

/-- y_i of an aligned run: the exact signed sum, rounded once to binary32. A quiet NaN beside infinities of opposite sign
raises no NV (notes/assumptions/131.md). -/
def hadamard (xs : List Fp) (i : Nat) : Nat × Flags :=
  let ts := xs.mapIdx fun j x => if (List.range 8).foldl (fun b k => b != ((i &&& j).testBit k)) false then x.flip else x
  let infs := ts.filterMap fun t => match t with
    | .inf n => some n
    | _ => none
  let nv : Flags := sigNV ts
  if ts.any Fp.isNan then (FpK.s.nan, nv)
  else if infs.contains true && infs.contains false then (FpK.s.nan, nv ||| fNV)
  else match infs with
    | n :: _ => (FpK.s.inf n, nv)
    | [] =>
      let z := ts.foldl (fun (a : Int × Int) t => match t with
        | .fin n m e =>
          let lo := min a.2 e
          (a.1 * 2 ^ (a.2 - lo).toNat + sInt n (m <<< (e - lo).toNat), lo)
        | _ => a) ((0 : Int), (0 : Int))
      roundInt .s .rne z.1 z.2 false

end Sys2Proof.Machine
end

