-- ==== Sys2Proof/Decode.lean ====
section
/-! DEFINITION. The 128-bit instruction word (spec/02_encoding.md Table 02.1, R42-R46): its fields, the decoder and the
encoder, both written from the opcode map (Table 02.6) and the entries of the instructions.

A reserved field that is not zero, and a field value outside an entry's limits, raise RSVD_FIELD (R43): the decoder reads
the instruction that the used fields name, and accepts it when its fields are within their limits and its own word is
the word given, so that every bit the entry does not use was zero. -/

namespace Sys2Proof

/-- The code of each value (spec/05_scalar_isa.md Table 05.3). -/
def Fmt.bits : Fmt → BitVec 2
  | .h => 0
  | .bf => 1
  | .s => 2
  | .d => 3

/-- The value a code names; a code outside the limits names one too, and its word is refused. -/
def Fmt.ofBits (w : BitVec 2) : Fmt :=
  match w.toNat with
  | 0 => .h
  | 1 => .bf
  | 2 => .s
  | _ => .d

/-- The code of each value (spec/07_matrix_isa.md R165). -/
def TFmt.bits : TFmt → BitVec 2
  | .h => 0
  | .bf => 1
  | .s => 2

/-- The value a code names; a code outside the limits names one too, and its word is refused. -/
def TFmt.ofBits (w : BitVec 2) : TFmt :=
  match w.toNat with
  | 0 => .h
  | 1 => .bf
  | _ => .s

/-- The code of each value (spec/07_matrix_isa.md R165). -/
def MFmt.bits : MFmt → BitVec 2
  | .h => 0
  | .bf => 1
  | .q8 => 2
  | .q4 => 3

/-- The value a code names; a code outside the limits names one too, and its word is refused. -/
def MFmt.ofBits (w : BitVec 2) : MFmt :=
  match w.toNat with
  | 0 => .h
  | 1 => .bf
  | 2 => .q8
  | _ => .q4

/-- The code of each value (spec/07_matrix_isa.md R165). -/
def Code.bits : Code → BitVec 1
  | .q8 => 0
  | .q4 => 1

/-- The value a code names; a code outside the limits names one too, and its word is refused. -/
def Code.ofBits (w : BitVec 1) : Code :=
  match w.toNat with
  | 0 => .q8
  | _ => .q4

/-- The code of each value (spec/05_scalar_isa.md R114). -/
def FCond.bits : FCond → BitVec 2
  | .eq => 0
  | .lt => 1
  | .le => 2
  | .un => 3

/-- The value a code names; a code outside the limits names one too, and its word is refused. -/
def FCond.ofBits (w : BitVec 2) : FCond :=
  match w.toNat with
  | 0 => .eq
  | 1 => .lt
  | 2 => .le
  | _ => .un

/-- The code of each value (spec/05_scalar_isa.md R115). -/
def IntTy.bits : IntTy → BitVec 2
  | .s64 => 0
  | .u64 => 1
  | .s32 => 2
  | .u32 => 3

/-- The value a code names; a code outside the limits names one too, and its word is refused. -/
def IntTy.ofBits (w : BitVec 2) : IntTy :=
  match w.toNat with
  | 0 => .s64
  | 1 => .u64
  | 2 => .s32
  | _ => .u32

/-- The code of each value (spec/05_scalar_isa.md R117). -/
def SgnOp.bits : SgnOp → BitVec 2
  | .copy => 0
  | .neg => 1
  | .xor => 2

/-- The value a code names; a code outside the limits names one too, and its word is refused. -/
def SgnOp.ofBits (w : BitVec 2) : SgnOp :=
  match w.toNat with
  | 0 => .copy
  | 1 => .neg
  | _ => .xor

/-- The code of each value (spec/05_scalar_isa.md Table 05.5). -/
def Cond.bits : Cond → BitVec 3
  | .eq => 0
  | .ne => 1
  | .lt => 2
  | .ge => 3
  | .lo => 4
  | .hs => 5

/-- The value a code names; a code outside the limits names one too, and its word is refused. -/
def Cond.ofBits (w : BitVec 3) : Cond :=
  match w.toNat with
  | 0 => .eq
  | 1 => .ne
  | 2 => .lt
  | 3 => .ge
  | 4 => .lo
  | _ => .hs

/-- The code of each value (spec/05_scalar_isa.md Table 05.5). -/
def VfCond.bits : VfCond → BitVec 2
  | .none => 0
  | .some => 1
  | .all => 2
  | .notall => 3

/-- The value a code names; a code outside the limits names one too, and its word is refused. -/
def VfCond.ofBits (w : BitVec 2) : VfCond :=
  match w.toNat with
  | 0 => .none
  | 1 => .some
  | 2 => .all
  | _ => .notall

/-- The code of each value (spec/10_memory_isa.md Table 10.2). -/
def AmoOp.bits : AmoOp → BitVec 4
  | .add => 0
  | .and => 1
  | .or => 2
  | .xor => 3
  | .min => 4
  | .max => 5
  | .umin => 6
  | .umax => 7
  | .swap => 8
  | .fadd => 9

/-- The value a code names; a code outside the limits names one too, and its word is refused. -/
def AmoOp.ofBits (w : BitVec 4) : AmoOp :=
  match w.toNat with
  | 0 => .add
  | 1 => .and
  | 2 => .or
  | 3 => .xor
  | 4 => .min
  | 5 => .max
  | 6 => .umin
  | 7 => .umax
  | 8 => .swap
  | _ => .fadd

/-- The code of each value (spec/03_registers.md Table 03.3). -/
def Ew.bits : Ew → BitVec 2
  | .e8 => 0
  | .e16 => 1
  | .e32 => 2
  | .e64 => 3

/-- The value a code names; a code outside the limits names one too, and its word is refused. -/
def Ew.ofBits (w : BitVec 2) : Ew :=
  match w.toNat with
  | 0 => .e8
  | 1 => .e16
  | 2 => .e32
  | _ => .e64

/-- The code of each value (spec/07_matrix_isa.md R165). -/
def WForm.bits : WForm → BitVec 2
  | .dense => 0
  | .c24 => 1
  | .s48 => 2

/-- The value a code names; a code outside the limits names one too, and its word is refused. -/
def WForm.ofBits (w : BitVec 2) : WForm :=
  match w.toNat with
  | 0 => .dense
  | 1 => .c24
  | _ => .s48

/-- The code of each value (spec/11_queues_scheduling.md R267). -/
def Notify.bits : Notify → BitVec 2
  | .tail => 0
  | .hold => 1
  | .release => 2

/-- The value a code names; a code outside the limits names one too, and its word is refused. -/
def Notify.ofBits (w : BitVec 2) : Notify :=
  match w.toNat with
  | 0 => .tail
  | 1 => .hold
  | _ => .release

/-- The code of each value (spec/12_engines_handlers.md R299). -/
def MsgMode.bits : MsgMode → BitVec 2
  | .post => 0
  | .reply => 1
  | .port => 2

/-- The value a code names; a code outside the limits names one too, and its word is refused. -/
def MsgMode.ofBits (w : BitVec 2) : MsgMode :=
  match w.toNat with
  | 0 => .post
  | 1 => .reply
  | _ => .port

/-- The code of each value (spec/13_raster_shading.md R315). -/
def Attr.bits : Attr → BitVec 3
  | .z => 0
  | .b0 => 1
  | .b1 => 2
  | .b2 => 3
  | .px => 4
  | .py => 5

/-- The value a code names; a code outside the limits names one too, and its word is refused. -/
def Attr.ofBits (w : BitVec 3) : Attr :=
  match w.toNat with
  | 0 => .z
  | 1 => .b0
  | 2 => .b1
  | 3 => .b2
  | 4 => .px
  | _ => .py

/-- The code of each value (spec/16_rays.md R381). -/
def RqField.bits : RqField → BitVec 3
  | .t => 0
  | .prim => 1
  | .inst => 2
  | .iid => 3
  | .b1 => 4
  | .b2 => 5
  | .info => 6

/-- The value a code names; a code outside the limits names one too, and its word is refused. -/
def RqField.ofBits (w : BitVec 3) : RqField :=
  match w.toNat with
  | 0 => .t
  | 1 => .prim
  | 2 => .inst
  | 3 => .iid
  | 4 => .b1
  | 5 => .b2
  | _ => .info

/-- The code of each value (spec/10_memory_isa.md R246). -/
def WCond.bits : WCond → BitVec 2
  | .ne => 0
  | .eq => 1
  | .reached => 2

/-- The value a code names; a code outside the limits names one too, and its word is refused. -/
def WCond.ofBits (w : BitVec 2) : WCond :=
  match w.toNat with
  | 0 => .ne
  | 1 => .eq
  | _ => .reached

/-- The code of each value (spec/10_memory_isa.md R248). -/
def RedOp.bits : RedOp → BitVec 4
  | .add => 0
  | .and => 1
  | .or => 2
  | .xor => 3
  | .min => 4
  | .max => 5
  | .umin => 6
  | .umax => 7
  | .fadd => 8

/-- The value a code names; a code outside the limits names one too, and its word is refused. -/
def RedOp.ofBits (w : BitVec 4) : RedOp :=
  match w.toNat with
  | 0 => .add
  | 1 => .and
  | 2 => .or
  | 3 => .xor
  | 4 => .min
  | 5 => .max
  | 6 => .umin
  | 7 => .umax
  | _ => .fadd

/-- The code of each value (spec/10_memory_isa.md R250). -/
def TlbKind.bits : TlbKind → BitVec 2
  | .page => 0
  | .asid => 1
  | .vi => 2

/-- The value a code names; a code outside the limits names one too, and its word is refused. -/
def TlbKind.ofBits (w : BitVec 2) : TlbKind :=
  match w.toNat with
  | 0 => .page
  | 1 => .asid
  | _ => .vi

/-- The code of each value (spec/10_memory_isa.md R250). -/
def TlbSpace.bits : TlbSpace → BitVec 2
  | .data => 0
  | .inst => 1
  | .both => 2

/-- The value a code names; a code outside the limits names one too, and its word is refused. -/
def TlbSpace.ofBits (w : BitVec 2) : TlbSpace :=
  match w.toNat with
  | 0 => .data
  | 1 => .inst
  | _ => .both

/-- RM: 0-4 static modes, 7 VCFG.RM (spec/02_encoding.md R45). -/
def RmF.bits : RmF → BitVec 3
  | .rne => 0
  | .rtz => 1
  | .rdn => 2
  | .rup => 3
  | .rmm => 4
  | .dyn => 7

/-- The mode an RM code names; the reserved codes 5 and 6 name one too, and their words are refused. -/
def RmF.ofBits (w : BitVec 3) : RmF :=
  match w.toNat with
  | 0 => .rne
  | 1 => .rtz
  | 2 => .rdn
  | 3 => .rup
  | 4 => .rmm
  | _ => .dyn

/-- .s is 0 and .z is 1 in vrem, vsadd, vssub, the integer reductions and vextr (spec/06_vector_isa.md Table 06.2, R149). -/
def Sign.bitsS : Sign → BitVec 1
  | .s => 0
  | .z => 1

/-- The sign a code of those instructions names. -/
def Sign.ofBitsS (w : BitVec 1) : Sign := if w.toNat = 0 then .s else .z

/-- .z is 0 and .s is 1 in bfx and vcvti (spec/05_scalar_isa.md R110, spec/06_vector_isa.md R145). -/
def Sign.bitsZ : Sign → BitVec 1
  | .z => 0
  | .s => 1

/-- The sign a code of bfx and vcvti names. -/
def Sign.ofBitsZ (w : BitVec 1) : Sign := if w.toNat = 0 then .z else .s

/-- C of a mask operand; 0 when there is none (spec/02_encoding.md R44). -/
def Mask.creg : Mask → Reg
  | .none => 0
  | .on c => c
  | .off c => c

/-- MEN of a mask operand. -/
def Mask.men : Mask → Bool
  | .none => false
  | .on _ => true
  | .off _ => true

/-- MINV of a mask operand. -/
def Mask.minv : Mask → Bool
  | .none => false
  | .on _ => false
  | .off _ => true

/-- The mask operand of C, MEN and MINV. -/
def Mask.ofBits (c : Reg) (men minv : Bool) : Mask := if men then (if minv then .off c else .on c) else .none

/-- FORM (spec/06_vector_isa.md R130). -/
def VSrc.form : VSrc → BitVec 2
  | .vec _ => 0
  | .gpr _ => 1
  | .imm _ => 2

/-- B; reserved in FORM 2. -/
def VSrc.reg : VSrc → Reg
  | .vec b => b
  | .gpr b => b
  | .imm _ => 0

/-- IMM; reserved in FORM 0 and 1. -/
def VSrc.imm' : VSrc → Word
  | .vec _ => 0
  | .gpr _ => 0
  | .imm w => w

/-- The second operand of FORM, B and IMM. -/
def VSrc.ofBits (form : BitVec 2) (b : Reg) (w : Word) : VSrc :=
  match form.toNat with
  | 0 => .vec b
  | 1 => .gpr b
  | _ => .imm w

/-- FORM of a slide: 1 or 2 (spec/06_vector_isa.md R149). -/
def SlideOff.form : SlideOff → BitVec 2
  | .gpr _ => 1
  | .imm _ => 2

/-- B of a slide. -/
def SlideOff.reg : SlideOff → Reg
  | .gpr b => b
  | .imm _ => 0

/-- IMM[13:0] of a slide. -/
def SlideOff.imm' : SlideOff → BitVec 14
  | .gpr _ => 0
  | .imm n => n

/-- The offset operand of FORM, B and IMM[13:0]. -/
def SlideOff.ofBits (form : BitVec 2) (b : Reg) (n : BitVec 14) : SlideOff :=
  if form.toNat = 1 then .gpr b else .imm n

/-- The fields of Table 02.1. rsv is bits [63:56]. -/
structure Fields where
  opc  : BitVec 10
  la   : BitVec 4 := 0
  d    : Reg := 0
  a    : Reg := 0
  b    : Reg := 0
  c    : Reg := 0
  men  : Bool := false
  minv : Bool := false
  fn   : BitVec 4 := 0
  rm   : BitVec 3 := 0
  sat  : Bool := false
  cmb  : Bool := false
  keep : Bool := false
  aux  : BitVec 6 := 0
  rsv  : BitVec 8 := 0
  imm  : Word := 0
  deriving DecidableEq, Repr

/-- The word of its fields, IMM highest (Table 02.1). -/
def Fields.pack (f : Fields) : BitVec 128 :=
  f.imm ++ f.rsv ++ f.aux ++ BitVec.ofBool f.keep ++ BitVec.ofBool f.cmb ++ BitVec.ofBool f.sat ++ f.rm ++ f.fn ++
    BitVec.ofBool f.minv ++ BitVec.ofBool f.men ++ f.c ++ f.b ++ f.a ++ f.d ++ f.la ++ f.opc

/-- The fields of a word (Table 02.1). -/
def Fields.unpack (w : BitVec 128) : Fields :=
  { opc := w.extractLsb' 0 10, la := w.extractLsb' 10 4, d := w.extractLsb' 14 6, a := w.extractLsb' 20 6,
    b := w.extractLsb' 26 6, c := w.extractLsb' 32 6, men := w.getLsbD 38, minv := w.getLsbD 39,
    fn := w.extractLsb' 40 4, rm := w.extractLsb' 44 3, sat := w.getLsbD 47, cmb := w.getLsbD 48, keep := w.getLsbD 49,
    aux := w.extractLsb' 50 6, rsv := w.extractLsb' 56 8, imm := w.extractLsb' 64 64 }

/-- The fields of an instruction's word: the row of Table 02.6 gives OPC, the entry the places of its operands; every
other field is zero (R43). An event has no word. -/
def Instr.toFields : Instr → Option Fields
  | .nop => some ({ opc := 0x000 })
  | .li d imm => some ({ opc := 0x001, d := d, imm := imm })
  | .mov d a => some ({ opc := 0x002, d := d, a := a })
  | .add d a b => some ({ opc := 0x003, d := d, a := a, b := b })
  | .addi d a imm => some ({ opc := 0x004, d := d, a := a, imm := imm })
  | .sub d a b => some ({ opc := 0x005, d := d, a := a, b := b })
  | .mul d a b => some ({ opc := 0x006, d := d, a := a, b := b })
  | .mulh d a b => some ({ opc := 0x007, d := d, a := a, b := b })
  | .mulhz d a b => some ({ opc := 0x008, d := d, a := a, b := b })
  | .div d a b la => some ({ opc := 0x009, d := d, a := a, b := b, la := la })
  | .divz d a b la => some ({ opc := 0x00A, d := d, a := a, b := b, la := la })
  | .rem d a b la => some ({ opc := 0x00B, d := d, a := a, b := b, la := la })
  | .remz d a b la => some ({ opc := 0x00C, d := d, a := a, b := b, la := la })
  | .and d a b => some ({ opc := 0x00D, d := d, a := a, b := b })
  | .andi d a imm => some ({ opc := 0x00E, d := d, a := a, imm := imm })
  | .or d a b => some ({ opc := 0x00F, d := d, a := a, b := b })
  | .ori d a imm => some ({ opc := 0x010, d := d, a := a, imm := imm })
  | .xor d a b => some ({ opc := 0x011, d := d, a := a, b := b })
  | .xori d a imm => some ({ opc := 0x012, d := d, a := a, imm := imm })
  | .andn d a b => some ({ opc := 0x013, d := d, a := a, b := b })
  | .shl d a b => some ({ opc := 0x014, d := d, a := a, b := b })
  | .shli d a sh => some ({ opc := 0x015, d := d, a := a, imm := 0#58 ++ sh })
  | .shr d a b => some ({ opc := 0x016, d := d, a := a, b := b })
  | .shri d a sh => some ({ opc := 0x017, d := d, a := a, imm := 0#58 ++ sh })
  | .sra d a b => some ({ opc := 0x018, d := d, a := a, b := b })
  | .srai d a sh => some ({ opc := 0x019, d := d, a := a, imm := 0#58 ++ sh })
  | .rotl d a b => some ({ opc := 0x01A, d := d, a := a, b := b })
  | .rotr d a b => some ({ opc := 0x01B, d := d, a := a, b := b })
  | .clz d a => some ({ opc := 0x01C, d := d, a := a })
  | .ctz d a => some ({ opc := 0x01D, d := d, a := a })
  | .popc d a => some ({ opc := 0x01E, d := d, a := a })
  | .min d a b => some ({ opc := 0x01F, d := d, a := a, b := b })
  | .max d a b => some ({ opc := 0x020, d := d, a := a, b := b })
  | .umin d a b => some ({ opc := 0x021, d := d, a := a, b := b })
  | .umax d a b => some ({ opc := 0x022, d := d, a := a, b := b })
  | .slt d a b => some ({ opc := 0x023, d := d, a := a, b := b })
  | .slo d a b => some ({ opc := 0x024, d := d, a := a, b := b })
  | .seq d a b => some ({ opc := 0x025, d := d, a := a, b := b })
  | .sel d a b c => some ({ opc := 0x026, d := d, a := a, b := b, c := c })
  | .sext d a n => some ({ opc := 0x027, d := d, a := a, imm := 0#57 ++ n })
  | .zext d a n => some ({ opc := 0x028, d := d, a := a, imm := 0#57 ++ n })
  | .bfx sg d a pos len => some ({ opc := 0x029, d := d, a := a, fn := 0#3 ++ sg.bitsZ, imm := 0#49 ++ len ++ 0#2 ++ pos })
  | .bfi d a pos len => some ({ opc := 0x02A, d := d, a := a, imm := 0#49 ++ len ++ 0#2 ++ pos })
  | .lea d a b sh imm => some ({ opc := 0x02B, d := d, a := a, b := b, aux := 0#3 ++ sh, imm := imm })
  | .bswap d a => some ({ opc := 0x02C, d := d, a := a })
  | .fadd f rm d a b => some ({ opc := 0x040, d := d, a := a, b := b, fn := 0#2 ++ f.bits, rm := rm.bits })
  | .fsub f rm d a b => some ({ opc := 0x041, d := d, a := a, b := b, fn := 0#2 ++ f.bits, rm := rm.bits })
  | .fmul f rm d a b => some ({ opc := 0x042, d := d, a := a, b := b, fn := 0#2 ++ f.bits, rm := rm.bits })
  | .fma f rm d a b c => some ({ opc := 0x043, d := d, a := a, b := b, c := c, fn := 0#2 ++ f.bits, rm := rm.bits })
  | .fms f rm d a b c => some ({ opc := 0x044, d := d, a := a, b := b, c := c, fn := 0#2 ++ f.bits, rm := rm.bits })
  | .fnma f rm d a b c => some ({ opc := 0x045, d := d, a := a, b := b, c := c, fn := 0#2 ++ f.bits, rm := rm.bits })
  | .fdiv f rm d a b la => some ({ opc := 0x046, d := d, a := a, b := b, la := la, fn := 0#2 ++ f.bits, rm := rm.bits })
  | .fsqrt f rm d a la => some ({ opc := 0x047, d := d, a := a, la := la, fn := 0#2 ++ f.bits, rm := rm.bits })
  | .fmin f d a b => some ({ opc := 0x048, d := d, a := a, b := b, fn := 0#2 ++ f.bits })
  | .fmax f d a b => some ({ opc := 0x049, d := d, a := a, b := b, fn := 0#2 ++ f.bits })
  | .fcmp f k d a b => some ({ opc := 0x04A, d := d, a := a, b := b, fn := 0#2 ++ f.bits, aux := 0#4 ++ k.bits })
  | .fcvt f rm sf d a => some ({ opc := 0x04B, d := d, a := a, fn := 0#2 ++ f.bits, rm := rm.bits, aux := 0#4 ++ sf.bits })
  | .fcvti f rm ty d a => some ({ opc := 0x04C, d := d, a := a, fn := 0#2 ++ f.bits, rm := rm.bits, aux := 0#4 ++ ty.bits })
  | .icvtf f rm ty d a => some ({ opc := 0x04D, d := d, a := a, fn := 0#2 ++ f.bits, rm := rm.bits, aux := 0#4 ++ ty.bits })
  | .fclass f d a => some ({ opc := 0x04E, d := d, a := a, fn := 0#2 ++ f.bits })
  | .fsgn f k d a b => some ({ opc := 0x04F, d := d, a := a, b := b, fn := 0#2 ++ f.bits, aux := 0#4 ++ k.bits })
  | .frnd f rm d a => some ({ opc := 0x050, d := d, a := a, fn := 0#2 ++ f.bits, rm := rm.bits })
  | .jmp imm => some ({ opc := 0x080, imm := imm })
  | .jr a imm => some ({ opc := 0x081, a := a, imm := imm })
  | .br k a b imm => some ({ opc := 0x082, a := a, b := b, fn := 0#1 ++ k.bits, imm := imm })
  | .bz a imm => some ({ opc := 0x083, a := a, imm := imm })
  | .bnz a imm => some ({ opc := 0x084, a := a, imm := imm })
  | .bvf k imm => some ({ opc := 0x085, fn := 0#2 ++ k.bits, imm := imm })
  | .call imm => some ({ opc := 0x086, imm := imm })
  | .callr a imm => some ({ opc := 0x087, a := a, imm := imm })
  | .ret => some ({ opc := 0x088 })
  | .loop a n => some ({ opc := 0x089, a := a, imm := 0#60 ++ n })
  | .exit => some ({ opc := 0x08A })
  | .ld w sx d a b imm la => some ({ opc := 0x0C0, d := d, a := a, b := b, la := la, aux := 0#3 ++ BitVec.ofBool sx ++ w, imm := imm })
  | .st w d a b imm la => some ({ opc := 0x0C1, d := d, a := a, b := b, la := la, aux := 0#4 ++ w, imm := imm })
  | .ldAcq w sx sc d a b imm la => some ({ opc := 0x0C2, d := d, a := a, b := b, la := la, fn := 0#2 ++ sc, aux := 0#3 ++ BitVec.ofBool sx ++ w, imm := imm })
  | .stRel w sc d a b imm la => some ({ opc := 0x0C3, d := d, a := a, b := b, la := la, fn := 0#2 ++ sc, aux := 0#4 ++ w, imm := imm })
  | .amo op w cmb d a b sc acq rel imm la => some ({ opc := 0x0C4, d := d, a := a, b := b, la := la, fn := op.bits, cmb := cmb, aux := BitVec.ofBool rel ++ BitVec.ofBool acq ++ sc ++ w, imm := imm })
  | .cas w d a b c sc acq rel imm la => some ({ opc := 0x0C5, d := d, a := a, b := b, c := c, la := la, aux := BitVec.ofBool rel ++ BitVec.ofBool acq ++ sc ++ w, imm := imm })
  | .ldP w sx d a b imm la => some ({ opc := 0x0C6, d := d, a := a, b := b, la := la, aux := 0#3 ++ BitVec.ofBool sx ++ w, imm := imm })
  | .stP w d a b imm la => some ({ opc := 0x0C7, d := d, a := a, b := b, la := la, aux := 0#4 ++ w, imm := imm })
  | .ldL w sx d a b imm la => some ({ opc := 0x0C8, d := d, a := a, b := b, la := la, aux := 0#3 ++ BitVec.ofBool sx ++ w, imm := imm })
  | .stL w d a b imm la => some ({ opc := 0x0C9, d := d, a := a, b := b, la := la, aux := 0#4 ++ w, imm := imm })
  | .pf l2 a b imm la => some ({ opc := 0x0CA, a := a, b := b, la := la, fn := 0#3 ++ BitVec.ofBool l2, imm := imm })
  | .cflush a b imm la => some ({ opc := 0x0CB, a := a, b := b, la := la, imm := imm })
  | .cinv a b imm la => some ({ opc := 0x0CC, a := a, b := b, la := la, imm := imm })
  | .cpin d a b imm la => some ({ opc := 0x0CD, d := d, a := a, b := b, la := la, imm := imm })
  | .cunpin d a b imm la => some ({ opc := 0x0CE, d := d, a := a, b := b, la := la, imm := imm })
  | .setvl keep d a ew grp => some ({ opc := 0x100, d := d, a := a, keep := keep, imm := 0#58 ++ grp ++ 0#2 ++ ew.bits })
  | .vcfg which d a ew grp sc rm => some ({ opc := 0x101, d := d, a := a, fn := which, imm := 0#49 ++ rm ++ 0#2 ++ sc ++ 0#2 ++ grp ++ 0#1 ++ ew })
  | .vmpush c inv => some ({ opc := 0x102, c := c, men := true, minv := inv })
  | .vmelse => some ({ opc := 0x103 })
  | .vmpop => some ({ opc := 0x104 })
  | .vmall => some ({ opc := 0x105 })
  | .forkLanes d imm => some ({ opc := 0x106, d := d, imm := imm })
  | .joinLanes => some ({ opc := 0x107 })
  | .vclaim => some ({ opc := 0x108 })
  | .vadd d a b m => some ({ opc := 0x140, d := d, a := a, b := b.reg, c := m.creg, men := m.men, minv := m.minv, aux := 0#4 ++ b.form, imm := b.imm' })
  | .vsub d a b m => some ({ opc := 0x141, d := d, a := a, b := b.reg, c := m.creg, men := m.men, minv := m.minv, aux := 0#4 ++ b.form, imm := b.imm' })
  | .vadc d a b c => some ({ opc := 0x142, d := d, a := a, b := b.reg, c := c, aux := 0#4 ++ b.form, imm := b.imm' })
  | .vmadc d a b c => some ({ opc := 0x143, d := d, a := a, b := b.reg, c := c, aux := 0#4 ++ b.form, imm := b.imm' })
  | .vsbc d a b c => some ({ opc := 0x144, d := d, a := a, b := b.reg, c := c, aux := 0#4 ++ b.form, imm := b.imm' })
  | .vmsbc d a b c => some ({ opc := 0x145, d := d, a := a, b := b.reg, c := c, aux := 0#4 ++ b.form, imm := b.imm' })
  | .vmul d a b m => some ({ opc := 0x146, d := d, a := a, b := b.reg, c := m.creg, men := m.men, minv := m.minv, aux := 0#4 ++ b.form, imm := b.imm' })
  | .vmulh d a b m => some ({ opc := 0x147, d := d, a := a, b := b.reg, c := m.creg, men := m.men, minv := m.minv, aux := 0#4 ++ b.form, imm := b.imm' })
  | .vmulhz d a b m => some ({ opc := 0x148, d := d, a := a, b := b.reg, c := m.creg, men := m.men, minv := m.minv, aux := 0#4 ++ b.form, imm := b.imm' })
  | .vmacc d a b m => some ({ opc := 0x149, d := d, a := a, b := b.reg, c := m.creg, men := m.men, minv := m.minv, aux := 0#4 ++ b.form, imm := b.imm' })
  | .vdiv d a b m la => some ({ opc := 0x14A, d := d, a := a, b := b.reg, c := m.creg, la := la, men := m.men, minv := m.minv, aux := 0#4 ++ b.form, imm := b.imm' })
  | .vdivz d a b m la => some ({ opc := 0x14B, d := d, a := a, b := b.reg, c := m.creg, la := la, men := m.men, minv := m.minv, aux := 0#4 ++ b.form, imm := b.imm' })
  | .vrem sg d a b m la => some ({ opc := 0x14C, d := d, a := a, b := b.reg, c := m.creg, la := la, men := m.men, minv := m.minv, fn := 0#3 ++ sg.bitsS, aux := 0#4 ++ b.form, imm := b.imm' })
  | .vand d a b m => some ({ opc := 0x14D, d := d, a := a, b := b.reg, c := m.creg, men := m.men, minv := m.minv, aux := 0#4 ++ b.form, imm := b.imm' })
  | .vor d a b m => some ({ opc := 0x14E, d := d, a := a, b := b.reg, c := m.creg, men := m.men, minv := m.minv, aux := 0#4 ++ b.form, imm := b.imm' })
  | .vxor d a b m => some ({ opc := 0x14F, d := d, a := a, b := b.reg, c := m.creg, men := m.men, minv := m.minv, aux := 0#4 ++ b.form, imm := b.imm' })
  | .vshl d a b m => some ({ opc := 0x150, d := d, a := a, b := b.reg, c := m.creg, men := m.men, minv := m.minv, aux := 0#4 ++ b.form, imm := b.imm' })
  | .vshr d a b m => some ({ opc := 0x151, d := d, a := a, b := b.reg, c := m.creg, men := m.men, minv := m.minv, aux := 0#4 ++ b.form, imm := b.imm' })
  | .vsra d a b m => some ({ opc := 0x152, d := d, a := a, b := b.reg, c := m.creg, men := m.men, minv := m.minv, aux := 0#4 ++ b.form, imm := b.imm' })
  | .vmin d a b m => some ({ opc := 0x153, d := d, a := a, b := b.reg, c := m.creg, men := m.men, minv := m.minv, aux := 0#4 ++ b.form, imm := b.imm' })
  | .vmax d a b m => some ({ opc := 0x154, d := d, a := a, b := b.reg, c := m.creg, men := m.men, minv := m.minv, aux := 0#4 ++ b.form, imm := b.imm' })
  | .vumin d a b m => some ({ opc := 0x155, d := d, a := a, b := b.reg, c := m.creg, men := m.men, minv := m.minv, aux := 0#4 ++ b.form, imm := b.imm' })
  | .vumax d a b m => some ({ opc := 0x156, d := d, a := a, b := b.reg, c := m.creg, men := m.men, minv := m.minv, aux := 0#4 ++ b.form, imm := b.imm' })
  | .vcmp k d a b m => some ({ opc := 0x157, d := d, a := a, b := b.reg, c := m.creg, men := m.men, minv := m.minv, fn := 0#1 ++ k.bits, aux := 0#4 ++ b.form, imm := b.imm' })
  | .vsel d a b c inv => some ({ opc := 0x158, d := d, a := a, b := b.reg, c := c, men := true, minv := inv, aux := 0#4 ++ b.form, imm := b.imm' })
  | .vmov d b m => some ({ opc := 0x159, d := d, b := b.reg, c := m.creg, men := m.men, minv := m.minv, aux := 0#4 ++ b.form, imm := b.imm' })
  | .vid d m => some ({ opc := 0x15A, d := d, c := m.creg, men := m.men, minv := m.minv })
  | .vcvti sg sat sw d a m => some ({ opc := 0x15B, d := d, a := a, c := m.creg, men := m.men, minv := m.minv, fn := 0#3 ++ sg.bitsZ, sat := sat, aux := 0#2 ++ sw.bits ++ 0#2 })
  | .vpopc d a m => some ({ opc := 0x15C, d := d, a := a, c := m.creg, men := m.men, minv := m.minv })
  | .vfirst d a m => some ({ opc := 0x15D, d := d, a := a, c := m.creg, men := m.men, minv := m.minv })
  | .vlast d a m => some ({ opc := 0x15E, d := d, a := a, c := m.creg, men := m.men, minv := m.minv })
  | .vsadd sg d a b m => some ({ opc := 0x15F, d := d, a := a, b := b.reg, c := m.creg, men := m.men, minv := m.minv, fn := 0#3 ++ sg.bitsS, aux := 0#4 ++ b.form, imm := b.imm' })
  | .vssub sg d a b m => some ({ opc := 0x160, d := d, a := a, b := b.reg, c := m.creg, men := m.men, minv := m.minv, fn := 0#3 ++ sg.bitsS, aux := 0#4 ++ b.form, imm := b.imm' })
  | .vfadd f rm d a b m => some ({ opc := 0x180, d := d, a := a, b := b.reg, c := m.creg, men := m.men, minv := m.minv, fn := 0#2 ++ f.bits, rm := rm.bits, aux := 0#4 ++ b.form, imm := b.imm' })
  | .vfsub f rm d a b m => some ({ opc := 0x181, d := d, a := a, b := b.reg, c := m.creg, men := m.men, minv := m.minv, fn := 0#2 ++ f.bits, rm := rm.bits, aux := 0#4 ++ b.form, imm := b.imm' })
  | .vfmul f rm d a b m => some ({ opc := 0x182, d := d, a := a, b := b.reg, c := m.creg, men := m.men, minv := m.minv, fn := 0#2 ++ f.bits, rm := rm.bits, aux := 0#4 ++ b.form, imm := b.imm' })
  | .vfma f rm d a b m => some ({ opc := 0x183, d := d, a := a, b := b.reg, c := m.creg, men := m.men, minv := m.minv, fn := 0#2 ++ f.bits, rm := rm.bits, aux := 0#4 ++ b.form, imm := b.imm' })
  | .vfms f rm d a b m => some ({ opc := 0x184, d := d, a := a, b := b.reg, c := m.creg, men := m.men, minv := m.minv, fn := 0#2 ++ f.bits, rm := rm.bits, aux := 0#4 ++ b.form, imm := b.imm' })
  | .vfnma f rm d a b m => some ({ opc := 0x185, d := d, a := a, b := b.reg, c := m.creg, men := m.men, minv := m.minv, fn := 0#2 ++ f.bits, rm := rm.bits, aux := 0#4 ++ b.form, imm := b.imm' })
  | .vfdiv f rm d a b m la => some ({ opc := 0x186, d := d, a := a, b := b.reg, c := m.creg, la := la, men := m.men, minv := m.minv, fn := 0#2 ++ f.bits, rm := rm.bits, aux := 0#4 ++ b.form, imm := b.imm' })
  | .vfsqrt f rm d a m la => some ({ opc := 0x187, d := d, a := a, c := m.creg, la := la, men := m.men, minv := m.minv, fn := 0#2 ++ f.bits, rm := rm.bits })
  | .vfrsqe f d a m => some ({ opc := 0x188, d := d, a := a, c := m.creg, men := m.men, minv := m.minv, fn := 0#2 ++ f.bits })
  | .vfrece f d a m => some ({ opc := 0x189, d := d, a := a, c := m.creg, men := m.men, minv := m.minv, fn := 0#2 ++ f.bits })
  | .vfmin f d a b m => some ({ opc := 0x18A, d := d, a := a, b := b.reg, c := m.creg, men := m.men, minv := m.minv, fn := 0#2 ++ f.bits, aux := 0#4 ++ b.form, imm := b.imm' })
  | .vfmax f d a b m => some ({ opc := 0x18B, d := d, a := a, b := b.reg, c := m.creg, men := m.men, minv := m.minv, fn := 0#2 ++ f.bits, aux := 0#4 ++ b.form, imm := b.imm' })
  | .vfcmp f k d a b m => some ({ opc := 0x18C, d := d, a := a, b := b.reg, c := m.creg, men := m.men, minv := m.minv, fn := 0#2 ++ f.bits, aux := 0#2 ++ k.bits ++ b.form, imm := b.imm' })
  | .vfcvt f rm sf d a m => some ({ opc := 0x18D, d := d, a := a, c := m.creg, men := m.men, minv := m.minv, fn := 0#2 ++ f.bits, rm := rm.bits, aux := 0#2 ++ sf.bits ++ 0#2 })
  | .vfcvti f rm u d a m => some ({ opc := 0x18E, d := d, a := a, c := m.creg, men := m.men, minv := m.minv, fn := 0#2 ++ f.bits, rm := rm.bits, aux := 0#3 ++ BitVec.ofBool u ++ 0#2 })
  | .vicvtf f rm u d a m => some ({ opc := 0x18F, d := d, a := a, c := m.creg, men := m.men, minv := m.minv, fn := 0#2 ++ f.bits, rm := rm.bits, aux := 0#3 ++ BitVec.ofBool u ++ 0#2 })
  | .vfclass f d a m => some ({ opc := 0x190, d := d, a := a, c := m.creg, men := m.men, minv := m.minv, fn := 0#2 ++ f.bits })
  | .vfsgn f k d a b m => some ({ opc := 0x191, d := d, a := a, b := b.reg, c := m.creg, men := m.men, minv := m.minv, fn := 0#2 ++ f.bits, aux := 0#2 ++ k.bits ++ b.form, imm := b.imm' })
  | .vfrnd f rm d a m => some ({ opc := 0x192, d := d, a := a, c := m.creg, men := m.men, minv := m.minv, fn := 0#2 ++ f.bits, rm := rm.bits })
  | .vslideup d a off pair m => some ({ opc := 0x1C0, d := d, a := a, b := off.reg, c := m.creg, men := m.men, minv := m.minv, aux := BitVec.ofBool pair ++ 0#3 ++ off.form, imm := 0#50 ++ off.imm' })
  | .vslidedn d a off pair m => some ({ opc := 0x1C1, d := d, a := a, b := off.reg, c := m.creg, men := m.men, minv := m.minv, aux := BitVec.ofBool pair ++ 0#3 ++ off.form, imm := 0#50 ++ off.imm' })
  | .vgatherR d a b pair m => some ({ opc := 0x1C2, d := d, a := a, b := b, c := m.creg, men := m.men, minv := m.minv, aux := BitVec.ofBool pair ++ 0#5 })
  | .vcompress d a pair m => some ({ opc := 0x1C3, d := d, a := a, c := m.creg, men := m.men, minv := m.minv, aux := BitVec.ofBool pair ++ 0#5 })
  | .vexpand d a pair m => some ({ opc := 0x1C4, d := d, a := a, c := m.creg, men := m.men, minv := m.minv, aux := BitVec.ofBool pair ++ 0#5 })
  | .vredadd sg d a b m => some ({ opc := 0x1C5, d := d, a := a, b := b, c := m.creg, men := m.men, minv := m.minv, fn := 0#3 ++ sg.bitsS })
  | .vredmax sg d a b m => some ({ opc := 0x1C6, d := d, a := a, b := b, c := m.creg, men := m.men, minv := m.minv, fn := 0#3 ++ sg.bitsS })
  | .vredmin sg d a b m => some ({ opc := 0x1C7, d := d, a := a, b := b, c := m.creg, men := m.men, minv := m.minv, fn := 0#3 ++ sg.bitsS })
  | .vfredadd f rm tree d a b m => some ({ opc := 0x1C8, d := d, a := a, b := b, c := m.creg, men := m.men, minv := m.minv, fn := 0#2 ++ f.bits, rm := rm.bits, aux := 0#3 ++ BitVec.ofBool tree ++ 0#2 })
  | .vfredmax f d a b m => some ({ opc := 0x1C9, d := d, a := a, b := b, c := m.creg, men := m.men, minv := m.minv, fn := 0#2 ++ f.bits })
  | .vfredmin f d a b m => some ({ opc := 0x1CA, d := d, a := a, b := b, c := m.creg, men := m.men, minv := m.minv, fn := 0#2 ++ f.bits })
  | .vbfly f rm d a dist m => some ({ opc := 0x1CB, d := d, a := a, c := m.creg, men := m.men, minv := m.minv, fn := 0#2 ++ f.bits, rm := rm.bits, imm := 0#50 ++ dist })
  | .vextr sg d a b => some ({ opc := 0x1CC, d := d, a := a, b := b, fn := 0#3 ++ sg.bitsS })
  | .vinsr d a b => some ({ opc := 0x1CD, d := d, a := a, b := b })
  | .vld d a b imm m la => some ({ opc := 0x200, d := d, a := a, b := b, c := m.creg, la := la, men := m.men, minv := m.minv, imm := imm })
  | .vst d a b imm m la => some ({ opc := 0x201, d := d, a := a, b := b, c := m.creg, la := la, men := m.men, minv := m.minv, imm := imm })
  | .vlds d a b imm m la => some ({ opc := 0x202, d := d, a := a, b := b, c := m.creg, la := la, men := m.men, minv := m.minv, imm := imm })
  | .vsts d a b imm m la => some ({ opc := 0x203, d := d, a := a, b := b, c := m.creg, la := la, men := m.men, minv := m.minv, imm := imm })
  | .vldx d a b iw scale m la => some ({ opc := 0x204, d := d, a := a, b := b, c := m.creg, la := la, men := m.men, minv := m.minv, aux := 0#2 ++ iw.bits ++ scale })
  | .vstx d a b iw scale m la => some ({ opc := 0x205, d := d, a := a, b := b, c := m.creg, la := la, men := m.men, minv := m.minv, aux := 0#2 ++ iw.bits ++ scale })
  | .vldL d a b imm m la => some ({ opc := 0x206, d := d, a := a, b := b, c := m.creg, la := la, men := m.men, minv := m.minv, imm := imm })
  | .vstL d a b imm m la => some ({ opc := 0x207, d := d, a := a, b := b, c := m.creg, la := la, men := m.men, minv := m.minv, imm := imm })
  | .vldxL d a b iw scale m la => some ({ opc := 0x208, d := d, a := a, b := b, c := m.creg, la := la, men := m.men, minv := m.minv, aux := 0#2 ++ iw.bits ++ scale })
  | .vstxL d a b iw scale m la => some ({ opc := 0x209, d := d, a := a, b := b, c := m.creg, la := la, men := m.men, minv := m.minv, aux := 0#2 ++ iw.bits ++ scale })
  | .vpgather d b f m la => some ({ opc := 0x20A, d := d, b := b, c := m.creg, la := la, men := m.men, minv := m.minv, imm := 0#58 ++ f })
  | .vpscatter d b f m la => some ({ opc := 0x20B, d := d, b := b, c := m.creg, la := la, men := m.men, minv := m.minv, imm := 0#58 ++ f })
  | .vstP d a b imm m la => some ({ opc := 0x20C, d := d, a := a, b := b, c := m.creg, la := la, men := m.men, minv := m.minv, imm := imm })
  | .vamo op cmb d a b iw scale acq rel m la => some ({ opc := 0x20D, d := d, a := a, b := b, c := m.creg, la := la, men := m.men, minv := m.minv, fn := op.bits, cmb := cmb, aux := BitVec.ofBool rel ++ BitVec.ofBool acq ++ iw.bits ++ scale })
  | .vldxM d a b iw scale f m la => some ({ opc := 0x20E, d := d, a := a, b := b, c := m.creg, la := la, men := m.men, minv := m.minv, aux := 0#2 ++ iw.bits ++ scale, imm := 0#58 ++ f })
  | .mclr t => some ({ opc := 0x240, d := 0#3 ++ t })
  | .mldT f t a b sp imm la => some ({ opc := 0x241, d := 0#3 ++ t, a := a, b := b, la := la, fn := 0#2 ++ f.bits, aux := BitVec.ofBool sp ++ 0#5, imm := imm })
  | .mstT f rm sat t a b sp imm la => some ({ opc := 0x242, d := 0#3 ++ t, a := a, b := b, la := la, fn := 0#2 ++ f.bits, rm := rm.bits, sat := sat, aux := BitVec.ofBool sp ++ 0#5, imm := imm })
  | .mldW slot panel form scl a b sp imm la => some ({ opc := 0x243, d := 0#4 ++ slot, a := a, b := b, la := la, fn := 0#2 ++ form.bits, aux := BitVec.ofBool sp ++ BitVec.ofBool scl ++ panel, imm := imm })
  | .mma f sat t a slot panel row0 la => some ({ opc := 0x244, d := 0#3 ++ t, a := a, b := 0#4 ++ slot, la := la, fn := 0#2 ++ f.bits, sat := sat, imm := 0#51 ++ row0 ++ 0#4 ++ panel })
  | .mvt toTile d a row0 => some ({ opc := 0x245, d := d, a := a, fn := 0#3 ++ BitVec.ofBool toTile, imm := 0#59 ++ row0 })
  | .mcmd trap d a b c la => some ({ opc := 0x246, d := d, a := a, b := b, c := c, la := la, fn := 0#3 ++ BitVec.ofBool trap })
  | .mwait => some ({ opc := 0x247 })
  | .dtabLd n a sp imm la => some ({ opc := 0x248, d := 0#4 ++ n, a := a, la := la, aux := BitVec.ofBool sp ++ 0#5, imm := imm })
  | .vcvtQ q d a b m => some ({ opc := 0x249, d := d, a := a, b := b, c := m.creg, men := m.men, minv := m.minv, fn := 0#3 ++ q.bits })
  | .vcvtDq q sat d a m => some ({ opc := 0x24A, d := d, a := a, c := m.creg, men := m.men, minv := m.minv, fn := 0#3 ++ q.bits, sat := sat })
  | .vscl q sat d a b tab m => some ({ opc := 0x24B, d := d, a := a, b := b, c := m.creg, men := m.men, minv := m.minv, fn := 0#3 ++ q.bits, sat := sat, imm := 0#61 ++ tab })
  | .vhadq q d a b n m => some ({ opc := 0x24C, d := d, a := a, b := b, c := m.creg, men := m.men, minv := m.minv, fn := 0#3 ++ q.bits, imm := 0#58 ++ n })
  | .cpStart ch a sp imm la => some ({ opc := 0x280, a := a, la := la, aux := BitVec.ofBool sp ++ 0#2 ++ ch, imm := imm })
  | .cpSeal d la => some ({ opc := 0x281, d := d, la := la })
  | .cpWait n => some ({ opc := 0x282, imm := 0#48 ++ n })
  | .sbind out d ch => some ({ opc := 0x283, d := d, fn := 0#3 ++ BitVec.ofBool out, aux := 0#3 ++ ch })
  | .sunbind d => some ({ opc := 0x284, d := d })
  | .qPush qh a n la => some ({ opc := 0x285, a := a, la := la, aux := 0#2 ++ qh, imm := 0#57 ++ n })
  | .qPop try_ qh d a la => some ({ opc := 0x286, d := d, a := a, la := la, fn := 0#3 ++ BitVec.ofBool try_, aux := 0#2 ++ qh })
  | .qNotify what qh a la => some ({ opc := 0x287, a := a, la := la, fn := 0#2 ++ what.bits, aux := 0#2 ++ qh })
  | .qCancel qh d a la => some ({ opc := 0x288, d := d, a := a, la := la, aux := 0#2 ++ qh })
  | .msgSend mode d a b c qh la => some ({ opc := 0x289, d := d, a := a, b := b, c := c, la := la, fn := 0#2 ++ mode.bits, aux := 0#2 ++ qh })
  | .hret a => some ({ opc := 0x28A, a := a })
  | .gangForm d a b size => some ({ opc := 0x28B, d := d, a := a, b := b, imm := 0#62 ++ size })
  | .gangSplit => some ({ opc := 0x28C })
  | .rastSetup s d a b => some ({ opc := 0x2C0, d := d, a := a, b := b, aux := 0#4 ++ s })
  | .rastCover s d a m => some ({ opc := 0x2C1, d := d, a := a, c := m.creg, men := m.men, minv := m.minv, aux := 0#4 ++ s })
  | .rastAttr what s d a m => some ({ opc := 0x2C2, d := d, a := a, c := m.creg, men := m.men, minv := m.minv, fn := 0#1 ++ what.bits, aux := 0#4 ++ s })
  | .vsample d a b m la => some ({ opc := 0x2C3, d := d, a := a, b := b, c := m.creg, la := la, men := m.men, minv := m.minv })
  | .vsampleM d a b f m la => some ({ opc := 0x2C4, d := d, a := a, b := b, c := m.creg, la := la, men := m.men, minv := m.minv, imm := 0#58 ++ f })
  | .rqInit q d a b m la => some ({ opc := 0x2C5, d := d, a := a, b := b, c := m.creg, la := la, men := m.men, minv := m.minv, aux := 0#5 ++ BitVec.ofBool q })
  | .rqStep q d n m la => some ({ opc := 0x2C6, d := d, c := m.creg, la := la, men := m.men, minv := m.minv, aux := 0#5 ++ BitVec.ofBool q, imm := 0#51 ++ n })
  | .rqGet fld q cand d m => some ({ opc := 0x2C7, d := d, c := m.creg, men := m.men, minv := m.minv, fn := 0#1 ++ fld.bits, aux := 0#4 ++ BitVec.ofBool cand ++ BitVec.ofBool q })
  | .rqCommit q m => some ({ opc := 0x2C8, c := m.creg, men := m.men, minv := m.minv, aux := 0#5 ++ BitVec.ofBool q })
  | .rqEnd q => some ({ opc := 0x2C9, aux := 0#5 ++ BitVec.ofBool q })
  | .bldCmd d a la => some ({ opc := 0x2CA, d := d, a := a, la := la })
  | .fence kind sc => some ({ opc := 0x300, fn := kind ++ sc })
  | .wait k w d a b c sp imm => some ({ opc := 0x301, d := d, a := a, b := b, c := c, fn := 0#2 ++ k.bits, aux := BitVec.ofBool sp ++ 0#3 ++ w, imm := imm })
  | .bar slot => some ({ opc := 0x302, imm := 0#62 ++ slot })
  | .grpRed op d a slot => some ({ opc := 0x303, d := d, a := a, fn := op.bits, imm := 0#62 ++ slot })
  | .grpBcast d a slot root => some ({ opc := 0x304, d := d, a := a, imm := 0#32 ++ root ++ 0#14 ++ slot })
  | .crr d cr => some ({ opc := 0x340, d := d, imm := 0#52 ++ cr })
  | .crw d a cr => some ({ opc := 0x341, d := d, a := a, imm := 0#52 ++ cr })
  | .crset d a cr => some ({ opc := 0x342, d := d, a := a, imm := 0#52 ++ cr })
  | .crclr d a cr => some ({ opc := 0x343, d := d, a := a, imm := 0#52 ++ cr })
  | .ecall n => some ({ opc := 0x344, imm := 0#48 ++ n })
  | .sret => some ({ opc := 0x345 })
  | .brk n => some ({ opc := 0x346, imm := 0#48 ++ n })
  | .wfi => some ({ opc := 0x347 })
  | .icinv all a imm => some ({ opc := 0x348, a := a, fn := 0#3 ++ BitVec.ofBool all, imm := imm })
  | .tlbinv kind space a b => some ({ opc := 0x349, a := a, b := b, fn := 0#2 ++ kind.bits, aux := 0#4 ++ space.bits })
  | .vmld t a b imm la => some ({ opc := 0x380, d := 0#3 ++ t, a := a, b := b, la := la, imm := imm })
  | .vmst t a b imm la => some ({ opc := 0x381, d := 0#3 ++ t, a := a, b := b, la := la, imm := imm })
  | .bmsk d a m => some ({ opc := 0x382, d := d, a := a, c := m.creg, men := m.men, minv := m.minv })
  | .mmaS48 sat t a slot panel row0 la => some ({ opc := 0x3C0, d := 0#3 ++ t, a := a, b := 0#4 ++ slot, la := la, fn := 2#4, sat := sat, imm := 0#51 ++ row0 ++ 0#4 ++ panel })
  | .rqSort q d m la => some ({ opc := 0x3C1, d := d, c := m.creg, la := la, men := m.men, minv := m.minv, aux := 0#5 ++ BitVec.ofBool q })
  | .waitConditionMet _ => none
  | .waitTimeout _ => none
  | .longLatencyComplete _ _ _ => none
  | .trapEntry _ _ => none
  | .cycleMatch _ => none
  | .stopTaken _ _ => none
  | .stopRegisterWrite _ _ => none
  | .migrationPlace _ => none
  | .matrixClaimGrant _ => none
  | .laneReclaim _ _ _ => none
  | .reclaimWindowExpiry _ _ => none
  | .fullSwitch _ => none
  | .contextResume _ _ => none
  | .sequencerRound _ => none
  | .tailNotifyWrite _ _ _ => none
  | .dispatcherConsume _ => none
  | .recordReread _ => none
  | .dispatch _ => none
  | .preemptDelayExpiry _ => none
  | .instanceRetire _ => none
  | .launchRetire _ _ => none
  | .gangFormed _ => none
  | .gangFormTimeout _ => none
  | .copyBegin _ _ => none
  | .copyElementLand _ _ _ _ => none
  | .pageWalk _ _ _ => none
  | .homeAccess _ => none
  | .rdcInvalidate _ _ => none
  | .peerAccessArrive _ _ => none
  | .atmCombine _ _ => none
  | .replySplit _ => none
  | .escapeMove _ _ => none
  | .linkRetrain _ _ _ => none
  | .linkDown _ _ => none
  | .routeRecompute _ => none
  | .sheetPortDown _ => none
  | .sheetAccessArrive _ _ _ _ => none
  | .dramScrub _ _ _ => none
  | .handlerActivation _ => none
  | .handlerReplyPush _ => none
  | .msgReplyArrive _ _ _ => none
  | .remoteMclr _ => none
  | .remoteMldT _ => none
  | .remoteMstT _ => none
  | .remoteMldW _ => none
  | .mma16 _ => none
  | .mcmdStatusArrive _ _ => none
  | .primitiveRecord _ _ => none
  | .distributorSetup _ _ => none
  | .distributorFlush _ _ => none
  | .distributorFence _ _ => none
  | .distributorFenceCount _ _ => none
  | .distributorClose _ _ => none
  | .bufferFullResume _ _ => none
  | .tilePost _ _ _ _ => none
  | .passEnd _ _ => none
  | .reprojectionSetup _ _ => none
  | .blockRequest _ _ => none
  | .blendRequest _ _ => none
  | .ticketCommit _ _ _ => none
  | .build _ _ _ => none
  | .refit _ _ _ => none
  | .rebalance _ _ _ => none
  | .publish _ _ _ => none
  | .retire _ _ _ => none
  | .query _ _ _ => none
  | .powerInterval _ _ => none
  | .powerCapOverrun _ _ => none
  | .powerOnReset _ => none
  | .vfEnable _ _ => none
  | .vfDisable _ _ => none
  | .commandDoorbell _ _ _ => none
  | .cqbaseWrite _ _ _ => none
  | .rdcwaysWrite _ _ => none
  | .ownershipWrite _ _ _ _ => none
  | .registerWrite _ _ => none
  | .identify _ => none
  | .attest _ => none
  | .createAs _ => none
  | .destroyAs _ => none
  | .map _ => none
  | .unmap _ => none
  | .migrate _ => none
  | .loadCode _ => none
  | .createQueue _ => none
  | .destroyQueue _ => none
  | .setKey _ => none
  | .clearKey _ => none
  | .setShare _ => none
  | .setPowerCap _ => none
  | .createGroupTemplate _ => none
  | .createCap _ => none
  | .createAstruct _ => none
  | .setRdc _ => none
  | .pinQuota _ => none
  | .installHandlers _ => none
  | .setBudget _ => none
  | .resetVi _ => none
  | .readCounters _ => none
  | .traceStart _ => none
  | .traceStop _ => none
  | .sheetConfig _ => none
  | .bootRecord _ => none
  | .debug _ => none
  | .readErrors _ => none
  | .setQmap _ => none
  | .setTrap _ => none
  | .assignMem _ => none
  | .setPool _ => none
  | .hostHold _ _ _ => none
  | .spdmOverDoe _ _ => none

/-- The instruction that a word's fields name when every check on them passes; none for an unassigned OPC (R71). -/
def Fields.candidate (w : Fields) : Option Instr :=
  match w.opc.toNat with
  | 0x000 => some (.nop)
  | 0x001 => some (.li w.d w.imm)
  | 0x002 => some (.mov w.d w.a)
  | 0x003 => some (.add w.d w.a w.b)
  | 0x004 => some (.addi w.d w.a w.imm)
  | 0x005 => some (.sub w.d w.a w.b)
  | 0x006 => some (.mul w.d w.a w.b)
  | 0x007 => some (.mulh w.d w.a w.b)
  | 0x008 => some (.mulhz w.d w.a w.b)
  | 0x009 => some (.div w.d w.a w.b w.la)
  | 0x00A => some (.divz w.d w.a w.b w.la)
  | 0x00B => some (.rem w.d w.a w.b w.la)
  | 0x00C => some (.remz w.d w.a w.b w.la)
  | 0x00D => some (.and w.d w.a w.b)
  | 0x00E => some (.andi w.d w.a w.imm)
  | 0x00F => some (.or w.d w.a w.b)
  | 0x010 => some (.ori w.d w.a w.imm)
  | 0x011 => some (.xor w.d w.a w.b)
  | 0x012 => some (.xori w.d w.a w.imm)
  | 0x013 => some (.andn w.d w.a w.b)
  | 0x014 => some (.shl w.d w.a w.b)
  | 0x015 => some (.shli w.d w.a (w.imm.extractLsb' 0 6))
  | 0x016 => some (.shr w.d w.a w.b)
  | 0x017 => some (.shri w.d w.a (w.imm.extractLsb' 0 6))
  | 0x018 => some (.sra w.d w.a w.b)
  | 0x019 => some (.srai w.d w.a (w.imm.extractLsb' 0 6))
  | 0x01A => some (.rotl w.d w.a w.b)
  | 0x01B => some (.rotr w.d w.a w.b)
  | 0x01C => some (.clz w.d w.a)
  | 0x01D => some (.ctz w.d w.a)
  | 0x01E => some (.popc w.d w.a)
  | 0x01F => some (.min w.d w.a w.b)
  | 0x020 => some (.max w.d w.a w.b)
  | 0x021 => some (.umin w.d w.a w.b)
  | 0x022 => some (.umax w.d w.a w.b)
  | 0x023 => some (.slt w.d w.a w.b)
  | 0x024 => some (.slo w.d w.a w.b)
  | 0x025 => some (.seq w.d w.a w.b)
  | 0x026 => some (.sel w.d w.a w.b w.c)
  | 0x027 => some (.sext w.d w.a (w.imm.extractLsb' 0 7))
  | 0x028 => some (.zext w.d w.a (w.imm.extractLsb' 0 7))
  | 0x029 => some (.bfx (Sign.ofBitsZ (w.fn.extractLsb' 0 1)) w.d w.a (w.imm.extractLsb' 0 6) (w.imm.extractLsb' 8 7))
  | 0x02A => some (.bfi w.d w.a (w.imm.extractLsb' 0 6) (w.imm.extractLsb' 8 7))
  | 0x02B => some (.lea w.d w.a w.b (w.aux.extractLsb' 0 3) w.imm)
  | 0x02C => some (.bswap w.d w.a)
  | 0x040 => some (.fadd (Fmt.ofBits (w.fn.extractLsb' 0 2)) (RmF.ofBits w.rm) w.d w.a w.b)
  | 0x041 => some (.fsub (Fmt.ofBits (w.fn.extractLsb' 0 2)) (RmF.ofBits w.rm) w.d w.a w.b)
  | 0x042 => some (.fmul (Fmt.ofBits (w.fn.extractLsb' 0 2)) (RmF.ofBits w.rm) w.d w.a w.b)
  | 0x043 => some (.fma (Fmt.ofBits (w.fn.extractLsb' 0 2)) (RmF.ofBits w.rm) w.d w.a w.b w.c)
  | 0x044 => some (.fms (Fmt.ofBits (w.fn.extractLsb' 0 2)) (RmF.ofBits w.rm) w.d w.a w.b w.c)
  | 0x045 => some (.fnma (Fmt.ofBits (w.fn.extractLsb' 0 2)) (RmF.ofBits w.rm) w.d w.a w.b w.c)
  | 0x046 => some (.fdiv (Fmt.ofBits (w.fn.extractLsb' 0 2)) (RmF.ofBits w.rm) w.d w.a w.b w.la)
  | 0x047 => some (.fsqrt (Fmt.ofBits (w.fn.extractLsb' 0 2)) (RmF.ofBits w.rm) w.d w.a w.la)
  | 0x048 => some (.fmin (Fmt.ofBits (w.fn.extractLsb' 0 2)) w.d w.a w.b)
  | 0x049 => some (.fmax (Fmt.ofBits (w.fn.extractLsb' 0 2)) w.d w.a w.b)
  | 0x04A => some (.fcmp (Fmt.ofBits (w.fn.extractLsb' 0 2)) (FCond.ofBits (w.aux.extractLsb' 0 2)) w.d w.a w.b)
  | 0x04B => some (.fcvt (Fmt.ofBits (w.fn.extractLsb' 0 2)) (RmF.ofBits w.rm) (Fmt.ofBits (w.aux.extractLsb' 0 2)) w.d w.a)
  | 0x04C => some (.fcvti (Fmt.ofBits (w.fn.extractLsb' 0 2)) (RmF.ofBits w.rm) (IntTy.ofBits (w.aux.extractLsb' 0 2)) w.d w.a)
  | 0x04D => some (.icvtf (Fmt.ofBits (w.fn.extractLsb' 0 2)) (RmF.ofBits w.rm) (IntTy.ofBits (w.aux.extractLsb' 0 2)) w.d w.a)
  | 0x04E => some (.fclass (Fmt.ofBits (w.fn.extractLsb' 0 2)) w.d w.a)
  | 0x04F => some (.fsgn (Fmt.ofBits (w.fn.extractLsb' 0 2)) (SgnOp.ofBits (w.aux.extractLsb' 0 2)) w.d w.a w.b)
  | 0x050 => some (.frnd (Fmt.ofBits (w.fn.extractLsb' 0 2)) (RmF.ofBits w.rm) w.d w.a)
  | 0x080 => some (.jmp w.imm)
  | 0x081 => some (.jr w.a w.imm)
  | 0x082 => some (.br (Cond.ofBits (w.fn.extractLsb' 0 3)) w.a w.b w.imm)
  | 0x083 => some (.bz w.a w.imm)
  | 0x084 => some (.bnz w.a w.imm)
  | 0x085 => some (.bvf (VfCond.ofBits (w.fn.extractLsb' 0 2)) w.imm)
  | 0x086 => some (.call w.imm)
  | 0x087 => some (.callr w.a w.imm)
  | 0x088 => some (.ret)
  | 0x089 => some (.loop w.a (w.imm.extractLsb' 0 4))
  | 0x08A => some (.exit)
  | 0x0C0 => some (.ld (w.aux.extractLsb' 0 2) (w.aux.getLsbD 2) w.d w.a w.b w.imm w.la)
  | 0x0C1 => some (.st (w.aux.extractLsb' 0 2) w.d w.a w.b w.imm w.la)
  | 0x0C2 => some (.ldAcq (w.aux.extractLsb' 0 2) (w.aux.getLsbD 2) (w.fn.extractLsb' 0 2) w.d w.a w.b w.imm w.la)
  | 0x0C3 => some (.stRel (w.aux.extractLsb' 0 2) (w.fn.extractLsb' 0 2) w.d w.a w.b w.imm w.la)
  | 0x0C4 => some (.amo (AmoOp.ofBits (w.fn.extractLsb' 0 4)) (w.aux.extractLsb' 0 2) w.cmb w.d w.a w.b (w.aux.extractLsb' 2 2) (w.aux.getLsbD 4) (w.aux.getLsbD 5) w.imm w.la)
  | 0x0C5 => some (.cas (w.aux.extractLsb' 0 2) w.d w.a w.b w.c (w.aux.extractLsb' 2 2) (w.aux.getLsbD 4) (w.aux.getLsbD 5) w.imm w.la)
  | 0x0C6 => some (.ldP (w.aux.extractLsb' 0 2) (w.aux.getLsbD 2) w.d w.a w.b w.imm w.la)
  | 0x0C7 => some (.stP (w.aux.extractLsb' 0 2) w.d w.a w.b w.imm w.la)
  | 0x0C8 => some (.ldL (w.aux.extractLsb' 0 2) (w.aux.getLsbD 2) w.d w.a w.b w.imm w.la)
  | 0x0C9 => some (.stL (w.aux.extractLsb' 0 2) w.d w.a w.b w.imm w.la)
  | 0x0CA => some (.pf (w.fn.getLsbD 0) w.a w.b w.imm w.la)
  | 0x0CB => some (.cflush w.a w.b w.imm w.la)
  | 0x0CC => some (.cinv w.a w.b w.imm w.la)
  | 0x0CD => some (.cpin w.d w.a w.b w.imm w.la)
  | 0x0CE => some (.cunpin w.d w.a w.b w.imm w.la)
  | 0x100 => some (.setvl w.keep w.d w.a (Ew.ofBits (w.imm.extractLsb' 0 2)) (w.imm.extractLsb' 4 2))
  | 0x101 => some (.vcfg (w.fn.extractLsb' 0 4) w.d w.a (w.imm.extractLsb' 0 3) (w.imm.extractLsb' 4 2) (w.imm.extractLsb' 8 2) (w.imm.extractLsb' 12 3))
  | 0x102 => some (.vmpush w.c w.minv)
  | 0x103 => some (.vmelse)
  | 0x104 => some (.vmpop)
  | 0x105 => some (.vmall)
  | 0x106 => some (.forkLanes w.d w.imm)
  | 0x107 => some (.joinLanes)
  | 0x108 => some (.vclaim)
  | 0x140 => some (.vadd w.d w.a (VSrc.ofBits (w.aux.extractLsb' 0 2) w.b w.imm) (Mask.ofBits w.c w.men w.minv))
  | 0x141 => some (.vsub w.d w.a (VSrc.ofBits (w.aux.extractLsb' 0 2) w.b w.imm) (Mask.ofBits w.c w.men w.minv))
  | 0x142 => some (.vadc w.d w.a (VSrc.ofBits (w.aux.extractLsb' 0 2) w.b w.imm) w.c)
  | 0x143 => some (.vmadc w.d w.a (VSrc.ofBits (w.aux.extractLsb' 0 2) w.b w.imm) w.c)
  | 0x144 => some (.vsbc w.d w.a (VSrc.ofBits (w.aux.extractLsb' 0 2) w.b w.imm) w.c)
  | 0x145 => some (.vmsbc w.d w.a (VSrc.ofBits (w.aux.extractLsb' 0 2) w.b w.imm) w.c)
  | 0x146 => some (.vmul w.d w.a (VSrc.ofBits (w.aux.extractLsb' 0 2) w.b w.imm) (Mask.ofBits w.c w.men w.minv))
  | 0x147 => some (.vmulh w.d w.a (VSrc.ofBits (w.aux.extractLsb' 0 2) w.b w.imm) (Mask.ofBits w.c w.men w.minv))
  | 0x148 => some (.vmulhz w.d w.a (VSrc.ofBits (w.aux.extractLsb' 0 2) w.b w.imm) (Mask.ofBits w.c w.men w.minv))
  | 0x149 => some (.vmacc w.d w.a (VSrc.ofBits (w.aux.extractLsb' 0 2) w.b w.imm) (Mask.ofBits w.c w.men w.minv))
  | 0x14A => some (.vdiv w.d w.a (VSrc.ofBits (w.aux.extractLsb' 0 2) w.b w.imm) (Mask.ofBits w.c w.men w.minv) w.la)
  | 0x14B => some (.vdivz w.d w.a (VSrc.ofBits (w.aux.extractLsb' 0 2) w.b w.imm) (Mask.ofBits w.c w.men w.minv) w.la)
  | 0x14C => some (.vrem (Sign.ofBitsS (w.fn.extractLsb' 0 1)) w.d w.a (VSrc.ofBits (w.aux.extractLsb' 0 2) w.b w.imm) (Mask.ofBits w.c w.men w.minv) w.la)
  | 0x14D => some (.vand w.d w.a (VSrc.ofBits (w.aux.extractLsb' 0 2) w.b w.imm) (Mask.ofBits w.c w.men w.minv))
  | 0x14E => some (.vor w.d w.a (VSrc.ofBits (w.aux.extractLsb' 0 2) w.b w.imm) (Mask.ofBits w.c w.men w.minv))
  | 0x14F => some (.vxor w.d w.a (VSrc.ofBits (w.aux.extractLsb' 0 2) w.b w.imm) (Mask.ofBits w.c w.men w.minv))
  | 0x150 => some (.vshl w.d w.a (VSrc.ofBits (w.aux.extractLsb' 0 2) w.b w.imm) (Mask.ofBits w.c w.men w.minv))
  | 0x151 => some (.vshr w.d w.a (VSrc.ofBits (w.aux.extractLsb' 0 2) w.b w.imm) (Mask.ofBits w.c w.men w.minv))
  | 0x152 => some (.vsra w.d w.a (VSrc.ofBits (w.aux.extractLsb' 0 2) w.b w.imm) (Mask.ofBits w.c w.men w.minv))
  | 0x153 => some (.vmin w.d w.a (VSrc.ofBits (w.aux.extractLsb' 0 2) w.b w.imm) (Mask.ofBits w.c w.men w.minv))
  | 0x154 => some (.vmax w.d w.a (VSrc.ofBits (w.aux.extractLsb' 0 2) w.b w.imm) (Mask.ofBits w.c w.men w.minv))
  | 0x155 => some (.vumin w.d w.a (VSrc.ofBits (w.aux.extractLsb' 0 2) w.b w.imm) (Mask.ofBits w.c w.men w.minv))
  | 0x156 => some (.vumax w.d w.a (VSrc.ofBits (w.aux.extractLsb' 0 2) w.b w.imm) (Mask.ofBits w.c w.men w.minv))
  | 0x157 => some (.vcmp (Cond.ofBits (w.fn.extractLsb' 0 3)) w.d w.a (VSrc.ofBits (w.aux.extractLsb' 0 2) w.b w.imm) (Mask.ofBits w.c w.men w.minv))
  | 0x158 => some (.vsel w.d w.a (VSrc.ofBits (w.aux.extractLsb' 0 2) w.b w.imm) w.c w.minv)
  | 0x159 => some (.vmov w.d (VSrc.ofBits (w.aux.extractLsb' 0 2) w.b w.imm) (Mask.ofBits w.c w.men w.minv))
  | 0x15A => some (.vid w.d (Mask.ofBits w.c w.men w.minv))
  | 0x15B => some (.vcvti (Sign.ofBitsZ (w.fn.extractLsb' 0 1)) w.sat (Ew.ofBits (w.aux.extractLsb' 2 2)) w.d w.a (Mask.ofBits w.c w.men w.minv))
  | 0x15C => some (.vpopc w.d w.a (Mask.ofBits w.c w.men w.minv))
  | 0x15D => some (.vfirst w.d w.a (Mask.ofBits w.c w.men w.minv))
  | 0x15E => some (.vlast w.d w.a (Mask.ofBits w.c w.men w.minv))
  | 0x15F => some (.vsadd (Sign.ofBitsS (w.fn.extractLsb' 0 1)) w.d w.a (VSrc.ofBits (w.aux.extractLsb' 0 2) w.b w.imm) (Mask.ofBits w.c w.men w.minv))
  | 0x160 => some (.vssub (Sign.ofBitsS (w.fn.extractLsb' 0 1)) w.d w.a (VSrc.ofBits (w.aux.extractLsb' 0 2) w.b w.imm) (Mask.ofBits w.c w.men w.minv))
  | 0x180 => some (.vfadd (Fmt.ofBits (w.fn.extractLsb' 0 2)) (RmF.ofBits w.rm) w.d w.a (VSrc.ofBits (w.aux.extractLsb' 0 2) w.b w.imm) (Mask.ofBits w.c w.men w.minv))
  | 0x181 => some (.vfsub (Fmt.ofBits (w.fn.extractLsb' 0 2)) (RmF.ofBits w.rm) w.d w.a (VSrc.ofBits (w.aux.extractLsb' 0 2) w.b w.imm) (Mask.ofBits w.c w.men w.minv))
  | 0x182 => some (.vfmul (Fmt.ofBits (w.fn.extractLsb' 0 2)) (RmF.ofBits w.rm) w.d w.a (VSrc.ofBits (w.aux.extractLsb' 0 2) w.b w.imm) (Mask.ofBits w.c w.men w.minv))
  | 0x183 => some (.vfma (Fmt.ofBits (w.fn.extractLsb' 0 2)) (RmF.ofBits w.rm) w.d w.a (VSrc.ofBits (w.aux.extractLsb' 0 2) w.b w.imm) (Mask.ofBits w.c w.men w.minv))
  | 0x184 => some (.vfms (Fmt.ofBits (w.fn.extractLsb' 0 2)) (RmF.ofBits w.rm) w.d w.a (VSrc.ofBits (w.aux.extractLsb' 0 2) w.b w.imm) (Mask.ofBits w.c w.men w.minv))
  | 0x185 => some (.vfnma (Fmt.ofBits (w.fn.extractLsb' 0 2)) (RmF.ofBits w.rm) w.d w.a (VSrc.ofBits (w.aux.extractLsb' 0 2) w.b w.imm) (Mask.ofBits w.c w.men w.minv))
  | 0x186 => some (.vfdiv (Fmt.ofBits (w.fn.extractLsb' 0 2)) (RmF.ofBits w.rm) w.d w.a (VSrc.ofBits (w.aux.extractLsb' 0 2) w.b w.imm) (Mask.ofBits w.c w.men w.minv) w.la)
  | 0x187 => some (.vfsqrt (Fmt.ofBits (w.fn.extractLsb' 0 2)) (RmF.ofBits w.rm) w.d w.a (Mask.ofBits w.c w.men w.minv) w.la)
  | 0x188 => some (.vfrsqe (Fmt.ofBits (w.fn.extractLsb' 0 2)) w.d w.a (Mask.ofBits w.c w.men w.minv))
  | 0x189 => some (.vfrece (Fmt.ofBits (w.fn.extractLsb' 0 2)) w.d w.a (Mask.ofBits w.c w.men w.minv))
  | 0x18A => some (.vfmin (Fmt.ofBits (w.fn.extractLsb' 0 2)) w.d w.a (VSrc.ofBits (w.aux.extractLsb' 0 2) w.b w.imm) (Mask.ofBits w.c w.men w.minv))
  | 0x18B => some (.vfmax (Fmt.ofBits (w.fn.extractLsb' 0 2)) w.d w.a (VSrc.ofBits (w.aux.extractLsb' 0 2) w.b w.imm) (Mask.ofBits w.c w.men w.minv))
  | 0x18C => some (.vfcmp (Fmt.ofBits (w.fn.extractLsb' 0 2)) (FCond.ofBits (w.aux.extractLsb' 2 2)) w.d w.a (VSrc.ofBits (w.aux.extractLsb' 0 2) w.b w.imm) (Mask.ofBits w.c w.men w.minv))
  | 0x18D => some (.vfcvt (Fmt.ofBits (w.fn.extractLsb' 0 2)) (RmF.ofBits w.rm) (Fmt.ofBits (w.aux.extractLsb' 2 2)) w.d w.a (Mask.ofBits w.c w.men w.minv))
  | 0x18E => some (.vfcvti (Fmt.ofBits (w.fn.extractLsb' 0 2)) (RmF.ofBits w.rm) (w.aux.getLsbD 2) w.d w.a (Mask.ofBits w.c w.men w.minv))
  | 0x18F => some (.vicvtf (Fmt.ofBits (w.fn.extractLsb' 0 2)) (RmF.ofBits w.rm) (w.aux.getLsbD 2) w.d w.a (Mask.ofBits w.c w.men w.minv))
  | 0x190 => some (.vfclass (Fmt.ofBits (w.fn.extractLsb' 0 2)) w.d w.a (Mask.ofBits w.c w.men w.minv))
  | 0x191 => some (.vfsgn (Fmt.ofBits (w.fn.extractLsb' 0 2)) (SgnOp.ofBits (w.aux.extractLsb' 2 2)) w.d w.a (VSrc.ofBits (w.aux.extractLsb' 0 2) w.b w.imm) (Mask.ofBits w.c w.men w.minv))
  | 0x192 => some (.vfrnd (Fmt.ofBits (w.fn.extractLsb' 0 2)) (RmF.ofBits w.rm) w.d w.a (Mask.ofBits w.c w.men w.minv))
  | 0x1C0 => some (.vslideup w.d w.a (SlideOff.ofBits (w.aux.extractLsb' 0 2) w.b (w.imm.extractLsb' 0 14)) (w.aux.getLsbD 5) (Mask.ofBits w.c w.men w.minv))
  | 0x1C1 => some (.vslidedn w.d w.a (SlideOff.ofBits (w.aux.extractLsb' 0 2) w.b (w.imm.extractLsb' 0 14)) (w.aux.getLsbD 5) (Mask.ofBits w.c w.men w.minv))
  | 0x1C2 => some (.vgatherR w.d w.a w.b (w.aux.getLsbD 5) (Mask.ofBits w.c w.men w.minv))
  | 0x1C3 => some (.vcompress w.d w.a (w.aux.getLsbD 5) (Mask.ofBits w.c w.men w.minv))
  | 0x1C4 => some (.vexpand w.d w.a (w.aux.getLsbD 5) (Mask.ofBits w.c w.men w.minv))
  | 0x1C5 => some (.vredadd (Sign.ofBitsS (w.fn.extractLsb' 0 1)) w.d w.a w.b (Mask.ofBits w.c w.men w.minv))
  | 0x1C6 => some (.vredmax (Sign.ofBitsS (w.fn.extractLsb' 0 1)) w.d w.a w.b (Mask.ofBits w.c w.men w.minv))
  | 0x1C7 => some (.vredmin (Sign.ofBitsS (w.fn.extractLsb' 0 1)) w.d w.a w.b (Mask.ofBits w.c w.men w.minv))
  | 0x1C8 => some (.vfredadd (Fmt.ofBits (w.fn.extractLsb' 0 2)) (RmF.ofBits w.rm) (w.aux.getLsbD 2) w.d w.a w.b (Mask.ofBits w.c w.men w.minv))
  | 0x1C9 => some (.vfredmax (Fmt.ofBits (w.fn.extractLsb' 0 2)) w.d w.a w.b (Mask.ofBits w.c w.men w.minv))
  | 0x1CA => some (.vfredmin (Fmt.ofBits (w.fn.extractLsb' 0 2)) w.d w.a w.b (Mask.ofBits w.c w.men w.minv))
  | 0x1CB => some (.vbfly (Fmt.ofBits (w.fn.extractLsb' 0 2)) (RmF.ofBits w.rm) w.d w.a (w.imm.extractLsb' 0 14) (Mask.ofBits w.c w.men w.minv))
  | 0x1CC => some (.vextr (Sign.ofBitsS (w.fn.extractLsb' 0 1)) w.d w.a w.b)
  | 0x1CD => some (.vinsr w.d w.a w.b)
  | 0x200 => some (.vld w.d w.a w.b w.imm (Mask.ofBits w.c w.men w.minv) w.la)
  | 0x201 => some (.vst w.d w.a w.b w.imm (Mask.ofBits w.c w.men w.minv) w.la)
  | 0x202 => some (.vlds w.d w.a w.b w.imm (Mask.ofBits w.c w.men w.minv) w.la)
  | 0x203 => some (.vsts w.d w.a w.b w.imm (Mask.ofBits w.c w.men w.minv) w.la)
  | 0x204 => some (.vldx w.d w.a w.b (Ew.ofBits (w.aux.extractLsb' 2 2)) (w.aux.extractLsb' 0 2) (Mask.ofBits w.c w.men w.minv) w.la)
  | 0x205 => some (.vstx w.d w.a w.b (Ew.ofBits (w.aux.extractLsb' 2 2)) (w.aux.extractLsb' 0 2) (Mask.ofBits w.c w.men w.minv) w.la)
  | 0x206 => some (.vldL w.d w.a w.b w.imm (Mask.ofBits w.c w.men w.minv) w.la)
  | 0x207 => some (.vstL w.d w.a w.b w.imm (Mask.ofBits w.c w.men w.minv) w.la)
  | 0x208 => some (.vldxL w.d w.a w.b (Ew.ofBits (w.aux.extractLsb' 2 2)) (w.aux.extractLsb' 0 2) (Mask.ofBits w.c w.men w.minv) w.la)
  | 0x209 => some (.vstxL w.d w.a w.b (Ew.ofBits (w.aux.extractLsb' 2 2)) (w.aux.extractLsb' 0 2) (Mask.ofBits w.c w.men w.minv) w.la)
  | 0x20A => some (.vpgather w.d w.b (w.imm.extractLsb' 0 6) (Mask.ofBits w.c w.men w.minv) w.la)
  | 0x20B => some (.vpscatter w.d w.b (w.imm.extractLsb' 0 6) (Mask.ofBits w.c w.men w.minv) w.la)
  | 0x20C => some (.vstP w.d w.a w.b w.imm (Mask.ofBits w.c w.men w.minv) w.la)
  | 0x20D => some (.vamo (AmoOp.ofBits (w.fn.extractLsb' 0 4)) w.cmb w.d w.a w.b (Ew.ofBits (w.aux.extractLsb' 2 2)) (w.aux.extractLsb' 0 2) (w.aux.getLsbD 4) (w.aux.getLsbD 5) (Mask.ofBits w.c w.men w.minv) w.la)
  | 0x20E => some (.vldxM w.d w.a w.b (Ew.ofBits (w.aux.extractLsb' 2 2)) (w.aux.extractLsb' 0 2) (w.imm.extractLsb' 0 6) (Mask.ofBits w.c w.men w.minv) w.la)
  | 0x240 => some (.mclr (w.d.extractLsb' 0 3))
  | 0x241 => some (.mldT (TFmt.ofBits (w.fn.extractLsb' 0 2)) (w.d.extractLsb' 0 3) w.a w.b (w.aux.getLsbD 5) w.imm w.la)
  | 0x242 => some (.mstT (TFmt.ofBits (w.fn.extractLsb' 0 2)) (RmF.ofBits w.rm) w.sat (w.d.extractLsb' 0 3) w.a w.b (w.aux.getLsbD 5) w.imm w.la)
  | 0x243 => some (.mldW (w.d.extractLsb' 0 2) (w.aux.extractLsb' 0 4) (WForm.ofBits (w.fn.extractLsb' 0 2)) (w.aux.getLsbD 4) w.a w.b (w.aux.getLsbD 5) w.imm w.la)
  | 0x244 => some (.mma (MFmt.ofBits (w.fn.extractLsb' 0 2)) w.sat (w.d.extractLsb' 0 3) w.a (w.b.extractLsb' 0 2) (w.imm.extractLsb' 0 4) (w.imm.extractLsb' 8 5) w.la)
  | 0x245 => some (.mvt (w.fn.getLsbD 0) w.d w.a (w.imm.extractLsb' 0 5))
  | 0x246 => some (.mcmd (w.fn.getLsbD 0) w.d w.a w.b w.c w.la)
  | 0x247 => some (.mwait)
  | 0x248 => some (.dtabLd (w.d.extractLsb' 0 2) w.a (w.aux.getLsbD 5) w.imm w.la)
  | 0x249 => some (.vcvtQ (Code.ofBits (w.fn.extractLsb' 0 1)) w.d w.a w.b (Mask.ofBits w.c w.men w.minv))
  | 0x24A => some (.vcvtDq (Code.ofBits (w.fn.extractLsb' 0 1)) w.sat w.d w.a (Mask.ofBits w.c w.men w.minv))
  | 0x24B => some (.vscl (Code.ofBits (w.fn.extractLsb' 0 1)) w.sat w.d w.a w.b (w.imm.extractLsb' 0 3) (Mask.ofBits w.c w.men w.minv))
  | 0x24C => some (.vhadq (Code.ofBits (w.fn.extractLsb' 0 1)) w.d w.a w.b (w.imm.extractLsb' 0 6) (Mask.ofBits w.c w.men w.minv))
  | 0x280 => some (.cpStart (w.aux.extractLsb' 0 3) w.a (w.aux.getLsbD 5) w.imm w.la)
  | 0x281 => some (.cpSeal w.d w.la)
  | 0x282 => some (.cpWait (w.imm.extractLsb' 0 16))
  | 0x283 => some (.sbind (w.fn.getLsbD 0) w.d (w.aux.extractLsb' 0 3))
  | 0x284 => some (.sunbind w.d)
  | 0x285 => some (.qPush (w.aux.extractLsb' 0 4) w.a (w.imm.extractLsb' 0 7) w.la)
  | 0x286 => some (.qPop (w.fn.getLsbD 0) (w.aux.extractLsb' 0 4) w.d w.a w.la)
  | 0x287 => some (.qNotify (Notify.ofBits (w.fn.extractLsb' 0 2)) (w.aux.extractLsb' 0 4) w.a w.la)
  | 0x288 => some (.qCancel (w.aux.extractLsb' 0 4) w.d w.a w.la)
  | 0x289 => some (.msgSend (MsgMode.ofBits (w.fn.extractLsb' 0 2)) w.d w.a w.b w.c (w.aux.extractLsb' 0 4) w.la)
  | 0x28A => some (.hret w.a)
  | 0x28B => some (.gangForm w.d w.a w.b (w.imm.extractLsb' 0 2))
  | 0x28C => some (.gangSplit)
  | 0x2C0 => some (.rastSetup (w.aux.extractLsb' 0 2) w.d w.a w.b)
  | 0x2C1 => some (.rastCover (w.aux.extractLsb' 0 2) w.d w.a (Mask.ofBits w.c w.men w.minv))
  | 0x2C2 => some (.rastAttr (Attr.ofBits (w.fn.extractLsb' 0 3)) (w.aux.extractLsb' 0 2) w.d w.a (Mask.ofBits w.c w.men w.minv))
  | 0x2C3 => some (.vsample w.d w.a w.b (Mask.ofBits w.c w.men w.minv) w.la)
  | 0x2C4 => some (.vsampleM w.d w.a w.b (w.imm.extractLsb' 0 6) (Mask.ofBits w.c w.men w.minv) w.la)
  | 0x2C5 => some (.rqInit (w.aux.getLsbD 0) w.d w.a w.b (Mask.ofBits w.c w.men w.minv) w.la)
  | 0x2C6 => some (.rqStep (w.aux.getLsbD 0) w.d (w.imm.extractLsb' 0 13) (Mask.ofBits w.c w.men w.minv) w.la)
  | 0x2C7 => some (.rqGet (RqField.ofBits (w.fn.extractLsb' 0 3)) (w.aux.getLsbD 0) (w.aux.getLsbD 1) w.d (Mask.ofBits w.c w.men w.minv))
  | 0x2C8 => some (.rqCommit (w.aux.getLsbD 0) (Mask.ofBits w.c w.men w.minv))
  | 0x2C9 => some (.rqEnd (w.aux.getLsbD 0))
  | 0x2CA => some (.bldCmd w.d w.a w.la)
  | 0x300 => some (.fence (w.fn.extractLsb' 2 2) (w.fn.extractLsb' 0 2))
  | 0x301 => some (.wait (WCond.ofBits (w.fn.extractLsb' 0 2)) (w.aux.extractLsb' 0 2) w.d w.a w.b w.c (w.aux.getLsbD 5) w.imm)
  | 0x302 => some (.bar (w.imm.extractLsb' 0 2))
  | 0x303 => some (.grpRed (RedOp.ofBits (w.fn.extractLsb' 0 4)) w.d w.a (w.imm.extractLsb' 0 2))
  | 0x304 => some (.grpBcast w.d w.a (w.imm.extractLsb' 0 2) (w.imm.extractLsb' 16 16))
  | 0x340 => some (.crr w.d (w.imm.extractLsb' 0 12))
  | 0x341 => some (.crw w.d w.a (w.imm.extractLsb' 0 12))
  | 0x342 => some (.crset w.d w.a (w.imm.extractLsb' 0 12))
  | 0x343 => some (.crclr w.d w.a (w.imm.extractLsb' 0 12))
  | 0x344 => some (.ecall (w.imm.extractLsb' 0 16))
  | 0x345 => some (.sret)
  | 0x346 => some (.brk (w.imm.extractLsb' 0 16))
  | 0x347 => some (.wfi)
  | 0x348 => some (.icinv (w.fn.getLsbD 0) w.a w.imm)
  | 0x349 => some (.tlbinv (TlbKind.ofBits (w.fn.extractLsb' 0 2)) (TlbSpace.ofBits (w.aux.extractLsb' 0 2)) w.a w.b)
  | 0x380 => some (.vmld (w.d.extractLsb' 0 3) w.a w.b w.imm w.la)
  | 0x381 => some (.vmst (w.d.extractLsb' 0 3) w.a w.b w.imm w.la)
  | 0x382 => some (.bmsk w.d w.a (Mask.ofBits w.c w.men w.minv))
  | 0x3C0 => some (.mmaS48 w.sat (w.d.extractLsb' 0 3) w.a (w.b.extractLsb' 0 2) (w.imm.extractLsb' 0 4) (w.imm.extractLsb' 8 5) w.la)
  | 0x3C1 => some (.rqSort (w.aux.getLsbD 0) w.d (Mask.ofBits w.c w.men w.minv) w.la)
  | _ => none

/-- The word of an instruction; an event has none. -/
def encode (i : Instr) : Option (BitVec 128) := i.toFields.map Fields.pack

/-- What the decoder finds in a word: checks 2 and 3 of spec/02_encoding.md Table 02.2. -/
inductive Decoded where
  /-- OPC is not assigned: ILLEGAL. -/
  | illegal
  /-- a reserved field is not zero, or a field is outside its limits: RSVD_FIELD. -/
  | reserved
  /-- the instruction of the word. -/
  | ok (i : Instr)
  deriving DecidableEq, Repr

/-- The decoder. -/
def decode (w : BitVec 128) : Decoded :=
  match (Fields.unpack w).candidate with
  | none => .illegal
  | some i => if i.wf && encode i == some w then .ok i else .reserved

/-- The word of 16 bytes as they lie in memory, lowest address first (spec/00_scope.md R6). -/
def wordOfBytes (bs : List Byte) : BitVec 128 :=
  BitVec.ofNat 128 (bs.foldr (fun b n => n * 256 + b.toNat) 0)

/-- The 16 bytes of a word, lowest address first. -/
def bytesOfWord (w : BitVec 128) : List Byte := (List.range 16).map fun k => w.extractLsb' (8 * k) 8

/-- What the decoder reads from an instruction whose low nbits bits are w, every higher bit 0. -/
def decodeTableWord (nbits w : Nat) : Option Instr :=
  match decode (wordOfBytes (bytesOfWord (BitVec.ofNat 128 (w % 2 ^ nbits)))) with
  | .ok i => some i
  | .illegal => none
  | .reserved => none

end Sys2Proof
end

