-- ==== Sys2Proof/Machine/Crypto.lean ====
section
/-! DEFINITION. AES-256 in XTS mode over 128-byte lines (spec/00_scope.md, spec/14_translation.md R342), SHA-384
(spec/19_host_device.md R431) and HMAC-SHA-384 (spec/15_tables.md R355), as FIPS 197, IEEE 1619 and FIPS 180-4 define
them. -/

namespace Sys2Proof.Machine

open Sys2Proof

/-- The substitution box of FIPS 197, entry x at bits 8x. -/
def aesSbox : Nat := 0x16bb54b00f2d99416842e6bf0d89a18cdf2855cee9871e9b948ed9691198f8e19e1dc186b95735610ef6034866b53e708a8bbd4b1f74dde8c6b4a61c2e2578ba08ae7a65eaf4566ca94ed58d6d37c8e779e4959162acd3c25c2406490a3a32e0db0b5ede14b8ee4688902a22dc4f816073195d643d7ea7c41744975fec130ccdd2f3ff1021dab6bcf5389d928f40a351a89f3c507f02f94585334d43fbaaefd0cf584c4a39becb6a5bb1fc20ed00d153842fe329b3d63b52a05a6e1b1a2c830975b227ebe28012079a059618c323c7041531d871f1e5a534ccf73f362693fdb7c072a49cafa2d4adf04759fa7dc982ca76abd7fe2b670130c56f6bf27b777c63

/-- Its inverse. -/
def aesInvSbox : Nat := 0x7d0c2155631469e126d677ba7e042b17619953833cbbebc8b0f52aae4d3be0a0ef9cc9939f7ae52d0d4ab519a97f51605fec8027591012b131c7078833a8dd1ff45acd78fec0db9a2079d2c64b3e56fc1bbe18aa0e62b76f89c5291d711af1476edf751ce837f9e28535ade72274ac9673e6b4f0cecff297eadc674f4111913a6b8a130103bdafc1020f3fca8f1e2cd00645b3b80558e4f70ad3bc8c00abd890849d8da75746155edab9edfd5048706c92b6655dcc5ca4d41698688664f6f87225d18b6d49a25b76b224d92866a12e084ec3fa420b954cee3d23c2a632947b54cbe9dec444438e3487ff2f9b8239e37cfbd7f3819ea340bf38a53630d56a0952

def boxAt (t : Nat) (x : Byte) : Byte := BitVec.ofNat 8 (t >>> (8 * x.toNat))

/-- Multiplication by x in the field of FIPS 197. -/
def xtime (a : Byte) : Byte := (a <<< 1) ^^^ (if a.getLsbD 7 then 0x1B else 0)

/-- The product of a and the number k below 16. -/
def gmulBy (k : Nat) (a : Byte) : Byte :=
  let b := xtime a
  let c := xtime b
  let d := xtime c
  (if k.testBit 0 then a else 0) ^^^ (if k.testBit 1 then b else 0) ^^^ (if k.testBit 2 then c else 0) ^^^
    (if k.testBit 3 then d else 0)

def byteAt (l : List Byte) (k : Nat) : Byte := l.getD k 0

def xorBytes (a b : List Byte) : List Byte := List.zipWith (· ^^^ ·) a b

/-- The next 4-byte word of the key schedule: w lists the words made so far, the last first. -/
def keyWord (w : List (List Byte)) (n : Nat) (rcon : Byte) : List Byte :=
  let prev := w.getD 0 []
  let back := w.getD 7 []
  let sub := fun (l : List Byte) => l.map (boxAt aesSbox)
  let t := if n % 8 = 0 then
      let r := sub [byteAt prev 1, byteAt prev 2, byteAt prev 3, byteAt prev 0]
      xorBytes r [rcon, 0, 0, 0]
    else if n % 8 = 4 then sub prev else prev
  xorBytes back t

/-- Words n, n + 1, … of the key schedule, k of them, onto those made. -/
def keyWords : Nat → Nat → Byte → List (List Byte) → List (List Byte)
  | 0, _, _, w => w
  | k + 1, n, rcon, w =>
    keyWords k (n + 1) (if n % 8 = 0 then xtime rcon else rcon) (keyWord w n rcon :: w)

/-- The 15 round keys of a 32-byte key. -/
def aesKeys (key : List Byte) : List (List Byte) :=
  let first := ((List.range 8).map fun i => (key.drop (4 * i)).take 4).reverse
  let ws := (keyWords 52 8 1 first).reverse
  (List.range 15).map fun r => ((ws.drop (4 * r)).take 4).flatten

def shiftRows (st : List Byte) : List Byte := (List.range 16).map fun i => byteAt st ((i + 4 * (i % 4)) % 16)
def unshiftRows (st : List Byte) : List Byte := (List.range 16).map fun i => byteAt st ((i + 12 * (i % 4)) % 16)

/-- Each column of a block times the circulant matrix with first row c0 c1 c2 c3. -/
def mixWith (c0 c1 c2 c3 : Nat) (st : List Byte) : List Byte :=
  (List.range 16).map fun i =>
    let col := i / 4 * 4
    let r := i % 4
    gmulBy c0 (byteAt st (col + r)) ^^^ gmulBy c1 (byteAt st (col + (r + 1) % 4)) ^^^
      gmulBy c2 (byteAt st (col + (r + 2) % 4)) ^^^ gmulBy c3 (byteAt st (col + (r + 3) % 4))

def aesEnc (keys : List (List Byte)) (b : List Byte) : List Byte :=
  let st := xorBytes b (keys.getD 0 [])
  let st := (List.range 13).foldl (fun st r =>
    xorBytes (mixWith 2 3 1 1 (shiftRows (st.map (boxAt aesSbox)))) (keys.getD (r + 1) [])) st
  xorBytes (shiftRows (st.map (boxAt aesSbox))) (keys.getD 14 [])

def aesDec (keys : List (List Byte)) (b : List Byte) : List Byte :=
  let st := (unshiftRows (xorBytes b (keys.getD 14 []))).map (boxAt aesInvSbox)
  (List.range 13).foldl (fun st r =>
    (unshiftRows (mixWith 14 11 13 9 (xorBytes st (keys.getD (13 - r) [])))).map (boxAt aesInvSbox)) st |>
    fun st => xorBytes st (keys.getD 0 [])

/-- The next tweak: times x in GF(2^128), little-endian (IEEE 1619). -/
def xtsNext (t : List Byte) : List Byte :=
  let n := leNat t
  let m := (2 * n) % 2 ^ 128
  leBytes 16 (if n.testBit 127 then m ^^^ 0x87 else m)

/-- One block of XTS with its tweak; the blocks of a line in turn. -/
def xtsBlocks (f : List Byte → List Byte) : Nat → List Byte → List Byte → List Byte
  | 0, _, _ => []
  | k + 1, tweak, bs =>
    xorBytes (f (xorBytes (bs.take 16) tweak)) tweak ++ xtsBlocks f k (xtsNext tweak) (bs.drop 16)

/-- A 128-byte line enciphered: the 64 key bytes hold the data key and then the tweak key. -/
def xtsEnc (key : List Byte) (tweak : Nat) (line : List Byte) : List Byte :=
  xtsBlocks (aesEnc (aesKeys (key.take 32))) 8 (aesEnc (aesKeys (key.drop 32)) (leBytes 16 tweak)) line

/-- A 128-byte line deciphered. -/
def xtsDec (key : List Byte) (tweak : Nat) (line : List Byte) : List Byte :=
  xtsBlocks (aesDec (aesKeys (key.take 32))) 8 (aesEnc (aesKeys (key.drop 32)) (leBytes 16 tweak)) line

/-- The round constants of FIPS 180-4 for 64-bit words. -/
def shaK : List Word :=
  [0x428a2f98d728ae22, 0x7137449123ef65cd, 0xb5c0fbcfec4d3b2f, 0xe9b5dba58189dbbc, 0x3956c25bf348b538] ++
  [0x59f111f1b605d019, 0x923f82a4af194f9b, 0xab1c5ed5da6d8118, 0xd807aa98a3030242, 0x12835b0145706fbe] ++
  [0x243185be4ee4b28c, 0x550c7dc3d5ffb4e2, 0x72be5d74f27b896f, 0x80deb1fe3b1696b1, 0x9bdc06a725c71235] ++
  [0xc19bf174cf692694, 0xe49b69c19ef14ad2, 0xefbe4786384f25e3, 0x0fc19dc68b8cd5b5, 0x240ca1cc77ac9c65] ++
  [0x2de92c6f592b0275, 0x4a7484aa6ea6e483, 0x5cb0a9dcbd41fbd4, 0x76f988da831153b5, 0x983e5152ee66dfab] ++
  [0xa831c66d2db43210, 0xb00327c898fb213f, 0xbf597fc7beef0ee4, 0xc6e00bf33da88fc2, 0xd5a79147930aa725] ++
  [0x06ca6351e003826f, 0x142929670a0e6e70, 0x27b70a8546d22ffc, 0x2e1b21385c26c926, 0x4d2c6dfc5ac42aed] ++
  [0x53380d139d95b3df, 0x650a73548baf63de, 0x766a0abb3c77b2a8, 0x81c2c92e47edaee6, 0x92722c851482353b] ++
  [0xa2bfe8a14cf10364, 0xa81a664bbc423001, 0xc24b8b70d0f89791, 0xc76c51a30654be30, 0xd192e819d6ef5218] ++
  [0xd69906245565a910, 0xf40e35855771202a, 0x106aa07032bbd1b8, 0x19a4c116b8d2d0c8, 0x1e376c085141ab53] ++
  [0x2748774cdf8eeb99, 0x34b0bcb5e19b48a8, 0x391c0cb3c5c95a63, 0x4ed8aa4ae3418acb, 0x5b9cca4f7763e373] ++
  [0x682e6ff3d6b2b8a3, 0x748f82ee5defb2fc, 0x78a5636f43172f60, 0x84c87814a1f0ab72, 0x8cc702081a6439ec] ++
  [0x90befffa23631e28, 0xa4506cebde82bde9, 0xbef9a3f7b2c67915, 0xc67178f2e372532b, 0xca273eceea26619c] ++
  [0xd186b8c721c0c207, 0xeada7dd6cde0eb1e, 0xf57d4f7fee6ed178, 0x06f067aa72176fba, 0x0a637dc5a2c898a6] ++
  [0x113f9804bef90dae, 0x1b710b35131c471b, 0x28db77f523047d84, 0x32caab7b40c72493, 0x3c9ebe0a15c9bebc] ++
  [0x431d67c49c100d4c, 0x4cc5d4becb3e42b6, 0x597f299cfc657e2a, 0x5fcb6fab3ad6faec, 0x6c44198c4a475817]

def shaInit : List Word := [0xcbbb9d5dc1059ed8, 0x629a292a367cd507, 0x9159015a3070dd17, 0x152fecd8f70e5939, 0x67332667ffc00b31, 0x8eb44a8768581511, 0xdb0c2e0d64f98fa7, 0x47b5481dbefa4fa4]

/-- The 80 words of the message schedule; w lists those made so far, the last first. -/
def shaSchedule : Nat → List Word → List Word
  | 0, w => w
  | k + 1, w =>
    let s0 := fun (x : Word) => x.rotateRight 1 ^^^ x.rotateRight 8 ^^^ (x >>> 7)
    let s1 := fun (x : Word) => x.rotateRight 19 ^^^ x.rotateRight 61 ^^^ (x >>> 6)
    shaSchedule k ((s1 (w.getD 1 0) + w.getD 6 0 + s0 (w.getD 14 0) + w.getD 15 0) :: w)

def shaRound (v : List Word) (kw : Word) : List Word :=
  match v with
  | [a, b, c, d, e, f, g, h] =>
    let s1 := e.rotateRight 14 ^^^ e.rotateRight 18 ^^^ e.rotateRight 41
    let ch := (e &&& f) ^^^ ((~~~ e) &&& g)
    let t1 := h + s1 + ch + kw
    let s0 := a.rotateRight 28 ^^^ a.rotateRight 34 ^^^ a.rotateRight 39
    let mj := (a &&& b) ^^^ (a &&& c) ^^^ (b &&& c)
    [t1 + s0 + mj, a, b, c, d + t1, e, f, g]
  | _ => v

def beNat (bs : List Byte) : Nat := bs.foldl (fun n b => n * 256 + b.toNat) 0

def shaBlock (hs : List Word) (blk : List Byte) : List Word :=
  let w0 := ((List.range 16).map fun i => BitVec.ofNat 64 (beNat ((blk.drop (8 * i)).take 8))).reverse
  let ws := (shaSchedule 64 w0).reverse
  let v := (List.zipWith (· + ·) shaK ws).foldl shaRound hs
  List.zipWith (· + ·) hs v

def shaBlocks : Nat → List Word → List Byte → List Word
  | 0, hs, _ => hs
  | k + 1, hs, bs => shaBlocks k (shaBlock hs (bs.take 128)) (bs.drop 128)

/-- SHA-384: 48 bytes. -/
def sha384 (msg : List Byte) : List Byte :=
  let n := msg.length
  let pad := (128 - (n + 17) % 128) % 128
  let m := msg ++ [0x80] ++ List.replicate pad 0 ++ (leBytes 16 (8 * n)).reverse
  (((shaBlocks (m.length / 128) shaInit m).take 6).map fun w => (leBytes 8 w.toNat).reverse).flatten

/-- HMAC-SHA-384 with a key of at most 128 bytes. -/
def hmac384 (key msg : List Byte) : List Byte :=
  let k := key ++ List.replicate (128 - key.length) 0
  sha384 (k.map (· ^^^ 0x5C) ++ sha384 (k.map (· ^^^ 0x36) ++ msg))

end Sys2Proof.Machine
end

