-- ==== Sys2Proof/Machine/Views.lean ====
section
/-! DEFINITION. Device tables that software can read: the bytes of queue control blocks (spec/11_queues_scheduling.md
Table 11.1) and acceleration-structure entries (spec/16_rays.md Table 16.1), computed from their records. Where the
tables lie in firmware DRAM is the model's choice (notes/assumptions/10.md). -/

namespace Sys2Proof.Machine

open Sys2Proof

/-- First byte of the firmware tables: die 0, die offset 0x7_7000_0000 (spec/19_host_device.md R428). -/
def fwBase : Nat := 0x770000000

/-- Bytes of firmware DRAM that hold the tables of one VI. -/
def fwStride : Nat := 0x100000

def astBase (v : Nat) : Nat := fwBase + v * fwStride
def qtBase (v : Nat) : Nat := astBase v + 0x80000
def ttBase (v : Nat) : Nat := astBase v + 0x84000
def gtBase (v : Nat) : Nat := astBase v + 0x88000
def hiBase (v : Nat) : Nat := astBase v + 0x8C000

def QState.code : QState → Nat
  | .disabled => 0
  | .active => 1
  | .held => 2
  | .faulted => 3

/-- Word k of a QCB. -/
def DevQueue.word (q : DevQueue) : Nat → Nat
  | 0 => q.ring.toNat / 4096 * 4096 + q.logsize
  | 1 => q.vi + q.die * 2 ^ 8 + q.prio.toNat * 2 ^ 16 + q.ceil.toNat * 2 ^ 24 + q.weight * 2 ^ 32 + q.asid.toNat * 2 ^ 48
  | 2 => q.head.toNat + q.tail.toNat * 2 ^ 32
  | 3 => q.errseq.toNat + q.st.code * 2 ^ 32 + q.errcode.toNat * 2 ^ 40
  | _ => 0

/-- Pool pages that some generation of the entry references. -/
def AsEntry.usedPages (e : AsEntry) : List Nat := (e.slots.flatMap fun g => g.2.pages).eraseDups

def AsEntry.poolFree (e : AsEntry) : Nat := e.total - e.usedPages.length

/-- Word k of an AS table entry. -/
def AsEntry.word (e : AsEntry) (k : Nat) : Nat :=
  if !e.v then 0 else
  if k = 0 then
    1 + (if e.kind then 2 else 0) + (if e.hascur then 4 else 0) + (if e.busy.isSome then 8 else 0) +
      e.cur.toNat * 2 ^ 16 + e.nextgen.toNat * 2 ^ 32
  else if k = 2 then e.total + e.poolFree * 2 ^ 32
  else if 4 ≤ k && k < 14 then
    match tfind e.slots ((k - 4) / 2) with
    | none => 0
    | some g => if k % 2 = 0 then g.gen.toNat + 2 ^ 16 + g.pins.toNat * 2 ^ 32 else g.root.toNat
  else 0

def AsEntry.none : AsEntry :=
  { v := false, kind := false, hascur := false, busy := Option.none, cur := 0, nextgen := 1, total := 0, pool := [],
    slots := [] }

/-- An acceleration-structure entry of a VI. -/
def Vi.as (v : Vi) (k : Nat) : AsEntry := tget AsEntry.none v.tables.ases k

/-- The byte that the firmware tables hold at a die-local DRAM address; none outside the readable tables. -/
def State.tableByte (s : State) (a : Nat) : Option Byte :=
  if a < fwBase || fwBase + 128 * fwStride ≤ a then none else
    let v := (a - fwBase) / fwStride
    let off := (a - fwBase) % fwStride
    let sel := fun (w : Nat) => some (BitVec.ofNat 8 (w >>> (8 * (a % 8))))
    if off < 0x80000 then sel (((s.vi v).as (off / 128)).word (off % 128 / 8))
    else if off < 0x84000 then
      match tfind (s.vi v).tables.slots ((off - 0x80000) / 64) with
      | some q => sel ((s.queue q).word (off % 64 / 8))
      | none => some 0
    else none

/-- Pages of a VI's own queue table and AS table (spec/14_translation.md R336). -/
def ownTablePage (v a : Nat) : Bool := astBase v ≤ a && a < astBase v + 0x84000

end Sys2Proof.Machine
end

