-- ==== Sys2Proof/Machine/Phys.lean ====
section
/-! DEFINITION. Physical memory (spec/08_memories.md): places, home lines with their keys and poison, the copies that the
scalar L1, the instruction cache and the RDC hold, and lane memory. -/

namespace Sys2Proof.Machine

open Sys2Proof

/-- What a physical address names (R193, Table 08.4). -/
inductive Place where
  /-- DRAM by its die-local address -/
  | dram (a : Nat)
  /-- host memory of port A or B -/
  | host (b : Bool) (a : Nat)
  /-- an offset of a die's register window -/
  | window (d off : Nat)
  | none
  deriving DecidableEq, Repr

/-- Bytes of backed DRAM of a die. -/
def dramPerDie : Nat := 0x780000000

/-- R193, R194. -/
def place (pa : Nat) : Place :=
  if pa < 0x4000000000 then (if pa % 2 ^ 35 < dramPerDie then .dram pa else .none)
  else if pa < 0x7C00000000 then
    let x := pa - 0x4000000000
    let g := x / 4096
    .dram (g % 8 * 2 ^ 35 + 4096 * (g / 8) + x % 4096)
  else if pa < 0xFF00000000 then .none
  else if pa < 0x10000000000 then .window ((pa - 0xFF00000000) / 0x20000000) ((pa - 0xFF00000000) % 0x20000000)
  else if pa < 0x800000000000 then .none
  else if pa < 0xC00000000000 then .host false (pa % 2 ^ 46)
  else if pa < 0x1000000000000 then .host true (pa % 2 ^ 46)
  else .none

def Place.isDram : Place → Bool
  | .dram _ => true
  | _ => false

def Place.onHost : Place → Bool
  | .host _ _ => true
  | _ => false

/-- The die of a die-local DRAM address. -/
def dramDie (a : Nat) : Nat := a / 2 ^ 35

/-- The home slice, as its global number (R195). -/
def homeSlice (a : Nat) : Nat :=
  let o := a % 2 ^ 35
  let f := fun k => (o >>> k) % 64
  dramDie a * 64 + ((f 7 ^^^ f 13) ^^^ (f 19 ^^^ f 25) ^^^ ((o >>> 31) % 16))

/-- The L2 set of a line (R195). -/
def l2Set (a : Nat) : Nat := ((a % 2 ^ 35) >>> 13) % 1024

/-- A key of a copy of a line: its kind of memory, its number and the tag it was filled under. -/
def Place.lineKey (p : Place) (tag : LineTag) : Nat :=
  let t := match tag with
    | some k => k.toNat + 1
    | Option.none => 0
  match p with
  | .dram a => a / 128 * 2048 + t
  | .host b a => ((if b then 2 else 1) * 2 ^ 45 + a / 128) * 2048 + t
  | _ => 0

/-- The tag that an access of a leaf names (spec/14_translation.md R342). -/
def Xlat.tag (x : Xlat) : LineTag := if x.enc then some x.key else Option.none

/-- The bytes that DRAM holds for a plaintext line held under a tag; a slot with no key leaves them as they are. -/
def cipherLine (fw : Firmware) (line : Nat) (tag : LineTag) (enc : Bool) (bs : List Byte) : List Byte :=
  match tag with
  | Option.none => bs
  | some k =>
    match tfind fw.keys k.toNat with
    | Option.none => bs
    | some slot => if enc then xtsEnc slot.bytes line bs else xtsDec slot.bytes line bs

/-- The line held under a tag: written back under the old one and refilled under the new (R342). -/
def State.retag (s : State) (line : Nat) (tag : LineTag) : State :=
  if tget Option.none s.phys.tags line = tag then s else
    let plain := Memory.readN s.phys.dram (line * 128) 128
    let bytes := cipherLine s.fw line (tget Option.none s.phys.tags line) true plain
    let now := cipherLine s.fw line tag false bytes
    { s with phys := { s.phys with dram := Memory.writeN s.phys.dram (line * 128) now,
                                   tags := tput s.phys.tags line (tag.map some) } }

/-- The bytes that DRAM holds for a line, read through no key (spec/14_translation.md R334). -/
def State.plainLine (s : State) (line : Nat) : List Byte :=
  cipherLine s.fw line (tget Option.none s.phys.tags line) true (Memory.readN s.phys.dram (line * 128) 128)

/-- n bytes of DRAM at their home. -/
def State.homeBytes (s : State) (a n : Nat) : List Byte :=
  if fwBase ≤ a && a < fwBase + 128 * fwStride then
    (List.range n).map fun k => (s.tableByte (a + k)).getD (s.phys.dram.read (a + k))
  else s.phys.dram.readN a n

/-- Bytes written at their home: poison stays unless all 128 bytes are written (R200), RDC copies of other dies are to
be invalidated (R203). uid is the writer's context, who waits for the acknowledgements. -/
def State.homeWrite (s : State) (uid : Nat) (tag : LineTag) (a : Nat) (bs : List Byte) (poison : Option Poison) : State :=
  let line := a / 128
  let s := s.retag line tag
  let ps := match poison with
    | some p => tset s.phys.poison line p
    | Option.none => if bs.length = 128 && a % 128 = 0 then tdel s.phys.poison line else s.phys.poison
  let vec := tget 0 s.phys.sharers line
  let dies := (List.range 8).filter fun d => vec.getLsbD d
  let inv := dies.map fun d => ({ die := d, line := line, uid := uid } : Inval)
  { s with phys := { s.phys with dram := s.phys.dram.writeN a bs, poison := ps, sharers := tdel s.phys.sharers line },
           net := { s.net with invals := s.net.invals ++ inv } }

/-- What a read returned: the bytes and whether they are poisoned. -/
abbrev Got := List Byte × Bool

/-- The line of a place as 1,024 bits. -/
def lineBits (bs : List Byte) : BitVec 1024 := BitVec.ofNat 1024 (leNat bs)
def bitsBytes (v : BitVec 1024) (off n : Nat) : List Byte := leBytes n (v.toNat >>> (8 * off))

/-- A read of n bytes of a line at its home or in host memory. -/
def State.freshRead (s : State) (tag : LineTag) (p : Place) (n : Nat) : Got × State :=
  match p with
  | .dram a => let s := s.retag (a / 128) tag
               ((s.homeBytes a n, (tfind s.phys.poison (a / 128)).isSome), s)
  | .host b a => (((if b then s.phys.hostB else s.phys.hostA).readN a n, false), s)
  | _ => ((List.replicate n 0, false), s)

/-- The first byte of the line of a place. -/
def Place.lineStart : Place → Place
  | .dram a => .dram (a / 128 * 128)
  | .host b a => .host b (a / 128 * 128)
  | p => p

def Place.offInLine : Place → Nat
  | .dram a => a % 128
  | .host _ a => a % 128
  | _ => 0

/-- A cache of some ways takes a copy. When the ways of its set are full, the copy that leaves is any of them. -/
def State.fillWay (s : State) (ways : Nat) (set : Nat → Nat) (t : Tab (BitVec 1024)) (key : Nat) (v : BitVec 1024) :
    Tab (BitVec 1024) × State :=
  let mates := (t.filter fun e => e.1 != key && set e.1 == set key).map Prod.fst
  if mates.length < ways then (tset t key v, s) else
    let (f, s) := s.draw
    (tset (tdel t (mates.getD ((Config.freeWord f).toNat % mates.length) 0)) key v, s)

/-- The set of an L1 cache of 64 KiB and 8 ways that holds a copy (R198): the low bits of its line number
(notes/assumptions/138.md). -/
def l1Set (key : Nat) : Nat := key / 2048 % 64

/-- The slice and set of an RDC that hold a copy (R199, R203). -/
def rdcSet (key : Nat) : Nat := homeSlice (key / 2048 * 128) % 64 * 1024 + l2Set (key / 2048 * 128)

/-- A read from a core of die e through a leaf: a remote line with RC may be answered by the die's RDC copy, which carries no
poison and may also have been dropped (R203, R204). -/
def State.netRead (s : State) (e : Nat) (x : Xlat) (p : Place) (n : Nat) : Got × State :=
  match p with
  | .dram a =>
    if x.rc && x.idem && x.cache && dramDie a != e && (s.die e).rdcways != 0 then
      let key := p.lineKey x.tag
      let (g, s) := s.freshRead x.tag (Place.dram a).lineStart 128
      let now := lineBits g.1
      let fill := fun (s : State) =>
        if g.2 then s else
          let (t, s) := s.fillWay (s.die e).rdcways.toNat rdcSet (s.die e).rdc key now
          let s := s.modDie e fun d => { d with rdc := t }
          let vec := tget 0 s.phys.sharers (a / 128) ||| BitVec.ofNat 8 (2 ^ e)
          { s with phys := { s.phys with sharers := tset s.phys.sharers (a / 128) vec } }
      match tfind (s.die e).rdc key with
      | some old =>
        if old = now && !g.2 then ((bitsBytes old (a % 128) n, false), s)
        else
          let (f, s) := s.draw
          if Config.freeBit f then ((bitsBytes old (a % 128) n, false), s)
          else ((bitsBytes now (a % 128) n, g.2), fill s)
      | Option.none => ((bitsBytes now (a % 128) n, g.2), fill s)
    else s.freshRead x.tag p n
  | _ => s.freshRead x.tag p n

/-- n occurrences of an event of Table 17.4 at a core, by a hart of a VI (spec/17_counters_debug.md R389). -/
def State.countEvent (s : State) (c : Nat) (vi : BitVec 7) (code n : Nat) : State :=
  let x := s.core c
  if x.events.toList.all (fun e => e.event == 0) then s else
    s.setCore c { x with events := x.events.map fun e =>
      if e.event == BitVec.ofNat 8 code && (!e.vien || e.vi == vi) then { e with count := e.count + BitVec.ofNat 64 n }
      else e }

/-- The L1 data cache of a core loses every copy. -/
def State.dropL1 (s : State) (core : Nat) : State := s.modCore core fun c => { c with l1 := [] }

/-- The L1 data cache of a core loses its copies of a line, whatever their tag. -/
def State.dropL1Line (s : State) (core : Nat) (p : Place) : State :=
  if (s.core core).l1.isEmpty then s else
    s.modCore core fun c => { c with l1 := c.l1.filter fun e => e.1 / 2048 != p.lineKey Option.none / 2048 }

/-- A scalar load of a core through its write-through L1 (R198): a copy of the line may answer, or may have been dropped. A
copy that is older than memory answers no load whose address depends on an earlier read (dep): what the write that the read
returned was a release of may have changed the line (spec/09_consistency.md R219; notes/assumptions/158.md). A load that
bypasses the L1 leaves no older copy there (R220). -/
def State.l1Read (s : State) (core : Nat) (vi : BitVec 7) (dep : Bool) (x : Xlat) (p : Place) (n : Nat) : Got × State :=
  if x.idem && x.cache then
    let key := p.lineKey x.tag
    let off := p.offInLine
    let (g, s) := s.netRead (dieOfCore core) x p.lineStart 128
    let now := lineBits g.1
    let fill := fun (s : State) =>
      if g.2 then s.modCore core fun c => { c with l1 := tdel c.l1 key }
      else
        let (t, s) := s.fillWay 8 l1Set (s.core core).l1 key now
        s.modCore core fun c => { c with l1 := t }
    match tfind (s.core core).l1 key with
    | some old =>
      if old = now && !g.2 then ((bitsBytes old off n, false), s)
      else
        let (f, s) := s.draw
        if Config.freeBit f && !dep then ((bitsBytes old off n, false), s)
        else ((bitsBytes now off n, g.2), fill (s.countEvent core vi 0x0B 1))
    | Option.none => ((bitsBytes now off n, g.2), fill (s.countEvent core vi 0x0B 1))
  else (s.dropL1Line core p).netRead (dieOfCore core) x p n

/-- A write of up to 128 bytes of one line from a core: scalar stores update a copy in its L1, the others drop it (R198). -/
def State.memWrite (s : State) (core uid : Nat) (scalar : Bool) (x : Xlat) (p : Place) (bs : List Byte)
    (poison : Option Poison) : State :=
  let s :=
    if scalar then
      let key := p.lineKey x.tag
      match tfind (s.core core).l1 key with
      | some old =>
        let off := p.offInLine
        let m := (2 ^ (8 * bs.length) - 1) <<< (8 * off)
        let new := BitVec.ofNat 1024 ((old.toNat &&& (2 ^ 1024 - 1 - m)) ||| (leNat bs <<< (8 * off)))
        s.modCore core fun c => { c with l1 := tset c.l1 key new }
      | Option.none => s
    else s.dropL1Line core p
  match p with
  | .dram a => s.homeWrite uid x.tag a bs poison
  | .host b a =>
    if b then { s with phys := { s.phys with hostB := s.phys.hostB.writeN a bs } }
    else { s with phys := { s.phys with hostA := s.phys.hostA.writeN a bs } }
  | _ => s

/-- Untranslated bytes of DRAM or host memory, a line's part at a time: firmware, walkers and save areas. -/
def State.physRead (s : State) (pa n : Nat) : List Byte :=
  (List.range n).map fun k =>
    match place (pa + k) with
    | .dram a => (s.tableByte a).getD (if (tget Option.none s.phys.tags (a / 128)).isNone then s.phys.dram.read a
        else (s.plainLine (a / 128)).getD (a % 128) 0)
    | .host b a => (if b then s.phys.hostB else s.phys.hostA).read a
    | _ => 0

def State.physWord (s : State) (pa : Nat) : Nat := leNat (s.physRead pa 8)

/-- Some line of the range is poisoned. -/
def State.physPoisoned (s : State) (pa n : Nat) : Bool :=
  !s.phys.poison.isEmpty && (List.range n).any fun k =>
    match place (pa + k) with
    | .dram a => (tfind s.phys.poison (a / 128)).isSome
    | _ => false

/-- Untranslated bytes written, each as its home takes it, in plaintext. -/
def State.physWrite (s : State) (uid : Nat) (pa : Nat) : List Byte → State
  | [] => s
  | b :: bs =>
    let s := match place pa with
      | .dram a => s.homeWrite uid Option.none a [b] Option.none
      | .host hb a =>
        if hb then { s with phys := { s.phys with hostB := s.phys.hostB.write a b } }
        else { s with phys := { s.phys with hostA := s.phys.hostA.write a b } }
      | _ => s
    s.physWrite uid (pa + 1) bs

/-- First bytes of the lines that n bytes at pa lie in. -/
def linesFrom (pa n : Nat) : List Nat := (List.range ((pa % 128 + n + 127) / 128)).map fun k => pa / 128 * 128 + 128 * k

/-- Untranslated bytes that the device writes at once, whose data may be poisoned: their lines are then poisoned, and a line that
clean data write whole is clean (spec/08_memories.md R200; notes/assumptions/159.md). -/
def State.physPut (s : State) (uid pa : Nat) (bs : List Byte) (poison : Option Poison) : State :=
  let s := s.physWrite uid pa bs
  if s.phys.poison.isEmpty && poison.isNone then s else
    (linesFrom pa bs.length).foldl (fun s a => match place a, poison with
      | .dram b, some p => { s with phys := { s.phys with poison := tset s.phys.poison (b / 128) p } }
      | .dram b, Option.none => if pa ≤ a && a + 128 ≤ pa + bs.length then
          { s with phys := { s.phys with poison := tdel s.phys.poison (b / 128) } } else s
      | _, _ => s) s

/-- Bytes that the device stores without translation for a hart of a core (spec/18_traps.md R409): the core's L1 keeps no older
copy of them. -/
def State.areaWrite (s : State) (core uid pa : Nat) (bs : List Byte) (poison : Option Poison := Option.none) : State :=
  ((linesFrom pa bs.length).foldl (fun s a => s.dropL1Line core (place a)) s).physPut uid pa bs poison

/-- n lines of the device's at base, from a number that holds their bytes, each with its poison. -/
def State.putLines (s : State) (uid base n v : Nat) (bad : Nat → Option Poison) : State :=
  (List.range n).foldl (fun s l => s.physPut uid (base + 128 * l) (leBytes 128 (v >>> (1024 * l))) (bad l)) s

/-! ## RDC copies of a line -/

/-- A die drops its own RDC copies of a line. -/
def State.dropRdcLine (s : State) (d line : Nat) : State :=
  if (s.die d).rdc.isEmpty then s else
    let s := s.modDie d fun x => { x with rdc := x.rdc.filter fun e => e.1 / 2048 != line }
    let v := tget 0 s.phys.sharers line &&& ~~~ (BitVec.ofNat 8 (2 ^ d))
    { s with phys := { s.phys with sharers := if v == 0 then tdel s.phys.sharers line else tset s.phys.sharers line v } }

/-- An RDC still holds a line of the firmware tables as it was before the device changed it: its invalidation is on its
way (R203). -/
def State.staleTables (s : State) : Bool :=
  s.dies.any fun d => d.2.rdc.any fun e =>
    let a := e.1 / 2048 * 128
    fwBase ≤ a && a < fwBase + 128 * fwStride && e.2 != lineBits (s.homeBytes a 128)

/-- Every write performed so far, of the module's tables among them, has been acknowledged by the dies that hold RDC copies
of its line (R203): what a release of scope DEVICE waits for, so that it covers the writes that happen before it
(spec/09_consistency.md R217, R219, R220; notes/assumptions/139.md). -/
def State.acked (s : State) : Bool := s.net.invals.isEmpty && !s.staleTables

/-- Windows that wait for the acknowledgements of their lines, when these have come (R203). -/
def State.settleAcks (s : State) : State :=
  let owed := s.net.invals.map Inval.line
  { s with harts := s.harts.map fun h => (h.1, { h.2 with windows := h.2.windows.map fun w => match w.await with
      | .acks ls => if ls.any fun l => owed.contains l then w else { w with await := .nothing }
      | _ => w }) }

/-- The writes performed so far are acknowledged by every die that holds a copy: what a release by an agent or firmware waits
for. -/
def State.ackAll (s : State) : State :=
  let s := s.net.invals.foldl (fun s i => s.dropRdcLine i.die i.line) s
  let old := fun (e : Nat × BitVec 1024) =>
    let a := e.1 / 2048 * 128
    fwBase ≤ a && a < fwBase + 128 * fwStride && e.2 != lineBits (s.homeBytes a 128)
  let s := { s with dies := s.dies.map fun (d : Nat × Die) => (d.1, { d.2 with rdc := d.2.rdc.filter fun e => !old e }) }
  State.settleAcks { s with net := { s.net with invals := [] } }

/-- The writes performed so far to some lines are acknowledged by every die that holds a copy. -/
def State.ackLines (s : State) (ls : List Nat) : State :=
  let (own, rest) := s.net.invals.partition fun i => ls.contains i.line
  let s := own.foldl (fun s i => s.dropRdcLine i.die i.line) s
  State.settleAcks { s with net := { s.net with invals := rest } }

/-! ## Lane memory (R186-R191) -/

/-- The ownership entry of the block of an offset. -/
def Core.ownerAt (c : Core) (off : Nat) : Owner := tget Owner.reset c.owners (off / 4096)

/-- R190: every block of [off, off + n) is owned by the VI, and exported when a peer asks. -/
def Core.mayTouch (c : Core) (vi : BitVec 7) (peer : Bool) (off n : Nat) : Bool :=
  off + n ≤ 0x100000 && [off, off + n - 1].all fun a =>
    let o := c.ownerAt a
    o.v && o.vi == vi && (!peer || o.exp)

/-- n bytes of a core's lane memory, with the poison of a word among them (R187). -/
def Core.laneRead (c : Core) (off n : Nat) : List Byte × Option Poison :=
  (c.lane.readN off n, (List.range n).findSome? fun k => tfind c.lPoison ((off + k) / 8))

/-- Bytes written to lane memory: a whole word written clears its poison, poisoned data poison it (R187). -/
def Core.laneWrite (c : Core) (off : Nat) (bs : List Byte) (poison : Option Poison) : Core :=
  let words := (List.range (bs.length / 8 + 2)).map (· + off / 8)
  let ps := words.foldl (fun t w =>
    let lo := max off (8 * w)
    let hi := min (off + bs.length) (8 * w + 8)
    if hi ≤ lo then t else
      match poison with
      | some p => tset t w p
      | Option.none => if hi - lo = 8 then tdel t w else t) c.lPoison
  { c with lane := c.lane.writeN off bs, lPoison := if c.lPoison.isEmpty && poison.isNone then [] else ps }

/-- The aligned 8-byte words that clean data written together at these offsets cover hold no poison (R187). -/
def Core.cleanWords (c : Core) (ps : List (Nat × Nat)) : Core :=
  if c.lPoison.isEmpty then c else
    { c with lPoison := c.lPoison.filter fun e =>
        !(List.range' (8 * e.1) 8).all fun b => ps.any fun p => p.1 ≤ b && b < p.1 + p.2 }

end Sys2Proof.Machine
end

