-- ==== Sys2Proof/Machine/Errors.lean ====
section
/-! DEFINITION. Error records (spec/17_counters_debug.md R398, R399), ECC counters (R390) and event counters (R389). -/

namespace Sys2Proof.Machine

open Sys2Proof

/-- A count that stops at n bits of ones. -/
def satAdd (n : Nat) (v : Word) : Word := if v.toNat + 1 < 2 ^ n then v + 1 else BitVec.ofNat 64 (2 ^ n - 1)

/-- A record written to a die's records (R399). -/
def State.logDie (s : State) (d : Nat) (r : ErrRec) : State :=
  s.modDie d fun x =>
    { x with errs := tset x.errs (x.errNext.toNat % 1024) { r with seq := x.errNext.setWidth 32 }, errNext := x.errNext + 1 }

/-- A record written to a VI's block, with its class counter (R398). -/
def State.logVi (s : State) (v : Nat) (r : ErrRec) : State :=
  s.modVi v fun x =>
    let e := x.errs
    { x with errs := { counts := tset e.counts r.cls.toNat (satAdd 64 (tget 0 e.counts r.cls.toNat)),
                       ring := tset e.ring (e.seq.toNat % 64) { r with seq := e.seq }, seq := e.seq + 1 } }

/-- No hart (Table 17.9). -/
def noHart : Nat := 0xFFFFFFFF

/-- An event of Table 17.8 found on a die: a die record, and the VI's record when it concerns one. -/
def State.logErr (s : State) (d : Nat) (vi : Option Nat) (cls info hart : Nat) (addr data : Word) : State :=
  let r : ErrRec := { cls := BitVec.ofNat 8 cls, seq := 0, info := BitVec.ofNat 32 info, hart := BitVec.ofNat 32 hart,
                      addr := addr, data := data }
  let s := s.logDie d r
  match vi with
  | some v => if cls < 8 then s.logVi v r else s
  | none => s

/-- A corrected or uncorrectable event of a structure of Table 17.3, at a die (R390). -/
def State.countEcc (s : State) (d i : Nat) (uncorrectable : Bool) : State :=
  s.modDie d fun x =>
    let off := 0x100100 + 16 * i + (if uncorrectable then 8 else 0)
    { x with counts := tset x.counts off (satAdd 32 (tget 0 x.counts off)) }

/-- An uncorrectable error of structure i met at a die by the work of a VI: counted where it is found, and recorded
(Table 17.8, R390). -/
def State.eccMet (s : State) (d i : Nat) (vi : Option Nat) (hart addr : Nat) : State :=
  (s.countEcc d i true).logErr d vi 5 i hart (BitVec.ofNat 64 addr) 0

/-- One more at a counter of a die's window (Table 17.5). -/
def State.countAt (s : State) (d off n : Nat) : State :=
  s.modDie d fun x => { x with counts := tset x.counts off (tget 0 x.counts off + BitVec.ofNat 64 n) }

/-! ## Links (spec/01_machine.md R14, spec/12_engines_handlers.md R297, R298) -/

/-- The ten die-to-die links as die pairs, in ascending order. -/
def linkPairs : List (Nat × Nat) := [(0, 1), (0, 4), (1, 2), (1, 5), (2, 3), (2, 6), (3, 7), (4, 5), (5, 6), (6, 7)]

/-- Links between two dies. -/
def dieDist (a b : Nat) : Nat := ((a % 4 : Nat) - (b % 4 : Nat) : Int).natAbs + ((a / 4 : Nat) - (b / 4 : Nat) : Int).natAbs

/-- Link k lies on a shortest way between two dies. -/
def crosses (k a b : Nat) : Bool :=
  let e := linkPairs.getD k (0, 0)
  dieDist a e.1 + 1 + dieDist e.2 b == dieDist a b || dieDist a e.2 + 1 + dieDist e.1 b == dieDist a b

/-- A link that is down, with the routes not yet changed, on a way between two dies. -/
def State.crossing (s : State) (a b : Nat) : Option Nat :=
  if a = b then none
  else (s.net.links.toList.zipIdx.find? fun l => !l.1.up && !l.1.routed && crosses l.2 a b).map Prod.snd

/-- The link between two neighbouring dies. -/
def linkOf (a b : Nat) : Nat := linkPairs.idxOf (min a b, max a b)

/-- Links passed along a row from one die to the column of another. -/
def rowLinks (a b : Nat) : List Nat :=
  let lo := min (a % 4) (b % 4)
  (List.range (max (a % 4) (b % 4) - lo)).map fun k => linkOf (a / 4 * 4 + lo + k) (a / 4 * 4 + lo + k + 1)

/-- The shortest routes between two dies: within a row there is one; between rows the step to the other row is made in any
column on the way. -/
def shortRoutes (a b : Nat) : List (List Nat) :=
  if a / 4 = b / 4 then [rowLinks a b] else
    let lo := min (a % 4) (b % 4)
    (List.range (max (a % 4) (b % 4) - lo + 1)).map fun k =>
      let c := lo + k
      rowLinks a c ++ [linkOf c (c + 4)] ++ rowLinks (b / 4 * 4 + c) b

/-- The route in dimension order, column first and then row (R292). -/
def dimRoute (a b : Nat) : List Nat := rowLinks a b ++ (if a / 4 = b / 4 then [] else [linkOf (b % 4) (b % 4 + 4)])

/-- The first link of a route that is down and not yet routed around. -/
def State.downOn (s : State) (route : List Nat) : Option Nat :=
  route.find? fun k => match s.net.links.toList[k]? with
    | some l => !l.up && !l.routed
    | none => false

/-- Every one of some routes has such a link: the first. -/
def State.blocked (s : State) (routes : List (List Nat)) : Option Nat :=
  let bad := routes.map s.downOn
  if bad.all Option.isSome then bad.head?.join else none

/-- An atomic request, or its reply, crosses such a link: both go in dimension order (R292). -/
def State.lostAtm (s : State) (a b : Nat) : Option Nat := if a = b then none else s.downOn (dimRoute a b) <|> s.downOn (dimRoute b a)

/-- A request from one die to another, or its reply, may be lost on such a link: the link (R298). A reply takes the route in
dimension order, so it is lost when that crosses the link; a request is lost when every shortest route does, and may be when
one does. -/
def State.lost (s : State) (a b : Nat) : Option Nat × State :=
  if (s.crossing a b).isNone then (none, s) else
  match s.downOn (dimRoute b a) with
  | some k => (some k, s)
  | none =>
    match s.blocked (shortRoutes a b) with
    | some k => (some k, s)
    | none =>
      let (f, s) := s.draw
      (if Config.freeBit f then (shortRoutes a b).findSome? s.downOn else none, s)

end Sys2Proof.Machine
end

