-- ==== Sys2Proof/Machine/Window.lean ====
section
/-! DEFINITION. Peer stores in flight, lane-memory ownership, RDCWAYS and the register windows of the dies
(spec/08_memories.md Table 08.5, spec/17_counters_debug.md R388, R399, spec/19_host_device.md R434). -/

namespace Sys2Proof.Machine

open Sys2Proof

/-- A peer store performed at its destination core. -/
def State.landPeer (s : State) (p : PeerStore) : State := s.modCore p.core fun c => c.laneWrite p.off p.bytes p.poison

/-- The peer stores that match land, in the order they were made. -/
def State.landPeers (s : State) (sel : PeerStore → Bool) : State :=
  if s.net.peers.isEmpty then s else
    let s := (s.net.peers.filter sel).foldl State.landPeer s
    { s with net := { s.net with peers := s.net.peers.filter fun p => !sel p } }

/-! ## Ownership of lane memory (R189, R190, R234) -/

def Owner.word (o : Owner) : Nat := (if o.exp then 512 else 0) + (if o.v then 256 else 0) + o.vi.toNat

/-- An ownership entry changed: accesses already probed land first, a block whose V or VI changes is zeroed. -/
def State.setOwner (s : State) (c b : Nat) (new : Owner) : State :=
  let old := tget Owner.reset (s.core c).owners b
  let s := s.landPeers fun p => p.core == c && (p.off / 4096 == b || (p.off + p.bytes.length - 1) / 4096 == b)
  s.modCore c fun x =>
    let x := { x with owners := if new == Owner.reset then tdel x.owners b else tset x.owners b new }
    if old.v == new.v && old.vi == new.vi then x else
      { x with lane := x.lane.zero (b * 4096) 4096,
               lPoison := x.lPoison.filter fun e => e.1 < b * 512 || (b + 1) * 512 ≤ e.1 }

/-- An entry written by firmware, or its EXP by mode S of the owning VI; any other write is ignored. -/
def State.writeOwner (s : State) (c b : Nat) (by_ : Writer) (v : Nat) : State :=
  let old := tget Owner.reset (s.core c).owners b
  match by_ with
  | .firmware => s.setOwner c b { exp := v.testBit 9, v := v.testBit 8, vi := BitVec.ofNat 7 v }
  | .super vi => if old.v && old.vi.toNat == vi then s.setOwner c b { old with exp := v.testBit 9 } else s
  | .user _ => s

/-! ## RDCWAYS (R202) -/

/-- The RDC copies of a die are dropped, and with them the invalidations they owe, before the new value applies. -/
def State.writeRdcways (s : State) (d : Nat) (v : Nat) : State :=
  let w := v % 16
  if 8 < w || BitVec.ofNat 4 w == (s.die d).rdcways then s else
    let s := s.modDie d fun x => { x with rdc := [], rdcways := BitVec.ofNat 4 w }
    State.settleAcks { s with net := { s.net with invals := s.net.invals.filter fun i => i.die != d } }

/-! ## Reading a window -/

/-- Cores that an island holds are numbers 4n to 4n + 3 of its die (R434). -/
def islandOf (core : Nat) : Nat := core % 128 / 4

def Die.island (d : Die) (n : Nat) : Island := tget (if n < 32 then Island.coreReset else Island.reset) d.islands n

/-- Every lane group of the four cores of a core island is idle. -/
def State.idle (s : State) (d n : Nat) : Bool :=
  n < 32 && (List.range 4).all fun k => (hartsOf (d * 128 + 4 * n + k)).all fun h => (s.hart h).G == 0

/-- GATED: idle since the controller gated it, at the end of an interval of 100 µs (R435; notes/assumptions/118.md). -/
def State.gated (s : State) (d n : Nat) : Bool := ((s.die d).island n).gated && s.idle d n

/-- A hart of the four cores keeps more lane groups than REEF by a setvl with KEEP: HOLD of a core island
(spec/01_machine.md R27). -/
def State.heldLow (s : State) (d n : Nat) : Bool :=
  n < 32 && (List.range 4).any fun k => (hartsOf (d * 128 + 4 * n + k)).any fun h =>
    (s.hart h).lanes.kept && ((s.die d).island n).reef.toNat < (s.hart h).G

/-- The frequency step that an island runs at: FSTEP, and 0 for as long as it is held (R27). -/
def State.stepAt (s : State) (d n : Nat) : Nat := if s.heldLow d n then 0 else ((s.die d).island n).fstep.toNat

def State.islandWord (s : State) (d n : Nat) : Nat :=
  let i := (s.die d).island n
  i.power.toNat * 2 ^ 16 + (if s.gated d n then 2 ^ 13 else 0) + (if s.heldLow d n then 2 ^ 12 else 0) + s.stepAt d n * 256 +
    i.reef.toNat

def ErrRec.word (r : ErrRec) : Nat → Nat
  | 0 => r.cls.toNat + r.seq.toNat * 2 ^ 32
  | 1 => r.info.toNat + r.hart.toNat * 2 ^ 32
  | 2 => r.addr.toNat
  | _ => r.data.toNat

/-- Events of Table 17.4 that the model's own steps count: instructions, strips, beats, TLB misses, walks, L1 misses, grants
cut by REEF and reclaims. The others depend on timing, and their occurrences are inputs (notes/assumptions/141.md). -/
def exactEvent (code : Nat) : Bool := [2, 3, 4, 8, 9, 0x0A, 0x0B, 0x0F, 0x10].contains code

/-- n occurrences of an event that depends on timing, at the core of a hart and for its VI (spec/17_counters_debug.md R389). -/
def State.occur (s : State) (h code n : Nat) : State :=
  if 8192 ≤ h || exactEvent code || code = 0 || 0x10 < code then s else s.countEvent (coreOf h) (s.hart h).who.vi code n

/-- Links of a die. -/
def dieLinks (d : Nat) : Nat := (linkPairs.filter fun e => e.1 == d || e.2 == d).length

/-- A register of a router (block 0x106000), of the switch of one of the die's links (0x107000) or of a slice (0x108000) of
Table 17.5, by its offset in the block. -/
def routerOff (off : Nat) : Bool := 0x106000 ≤ off && off < 0x107000 && off % 64 < 0x28
def bridgeOff (d off : Nat) : Bool := 0x107000 ≤ off && off < 0x107000 + 64 * dieLinks d && off % 64 < 0x38
def sliceOff (off : Nat) : Bool := 0x108000 ≤ off && off < 0x109000 && off % 64 < 0x38

/-- n more at a counter of Table 17.5 that depends on timing: combinations, passes at a full wait buffer, reply entries, the
peak of the wait buffer, which n may raise, and hits and misses of a slice. -/
def State.tally (s : State) (d off n : Nat) : State :=
  let k := off % 64
  let timed := if sliceOff off then k = 0 || k = 8 || k = 0x10 else
    (routerOff off || bridgeOff d off) && (k = 0 || k = 8 || k = 0x18 || k = 0x20)
  if 8 ≤ d || !timed then s
  else if !sliceOff off && k = 0x20 then
    s.modDie d fun x => { x with counts := tset x.counts off (BitVec.ofNat 64 (max (tget 0 x.counts off).toNat n)) }
  else s.countAt d off n

/-- What a register of a window reads (before the mode is judged). -/
def State.windowValue (s : State) (d off : Nat) (view : Option Nat) : Word × State :=
  let x := s.die d
  let word := fun (n : Nat) => (BitVec.ofNat 64 n, s)
  if off < 0x100000 then
    if off = 0 then word (d + (match s.stepping with
      | .a0 => 0
      | .b0 => 256))
    else if off = 8 then (Config.serial, s)
    else if off = 0x10 then (x.errNext, s)
    else if 0x1000 ≤ off && off < 0x1000 + 32 * 1024 then
      match tfind x.errs ((off - 0x1000) / 32) with
      | some r => word (r.word (off % 32 / 8))
      | none => word 0
    else word 0
  else if off = 0x100000 then word x.rdcways.toNat
  else if 0x100100 ≤ off && off < 0x100190 then (tget 0 x.counts off, s)
  else if 0x101000 ≤ off && off < 0x105000 then
    let c := s.core (d * 128 + (off - 0x101000) / 128)
    let k := off % 128
    if k < 32 then
      if view.isSome then word 0 else
        match c.events.toList[k / 8]? with
        | some e => word ((if e.vien then 2 ^ 23 else 0) + e.vi.toNat * 2 ^ 16 + e.event.toNat)
        | none => word 0
    else if k < 64 then
      match c.events.toList[(k - 32) / 8]? with
      | some e =>
        if view.isSome && !(e.vien && view == some e.vi.toNat) then word 0
        else (e.count, s)
      | none => word 0
    else word 0
  else if view.isSome && 0x106000 ≤ off && off < 0x10C000 then word 0
  else if sliceOff off && off % 64 = 0x30 then
    word ((s.phys.pins.filter fun p => dramDie (p.1 * 128) == d && homeSlice (p.1 * 128) == d * 64 + (off - 0x108000) / 64).length)
  else if routerOff off || bridgeOff d off || sliceOff off then (tget 0 x.counts off, s)
  else if 0x10A000 ≤ off && off < 0x10C000 then
    let q := (s.hart (d * 1024 + (off - 0x10A000) / 8)).irq
    word ((if q.stopReg then 1 else 0) + (if q.stepReg then 2 else 0))
  else if 0x200000 ≤ off && off < 0x220000 then
    let c := s.core (d * 128 + (off - 0x200000) / 1024)
    let b := off % 1024 / 4
    word ((tget Owner.reset c.owners b).word + (tget Owner.reset c.owners (b + 1)).word * 2 ^ 32)
  else if 0x220000 ≤ off && off < 0x220200 then word (s.islandWord d ((off - 0x220000) / 8))
  else word 0

/-- A read of 8 aligned bytes of a window by a mode of a VI; none: the range does not allow it (Table 08.5). -/
def State.windowRead (s : State) (d off : Nat) (mo : Mode) (vi : Nat) : Option (Word × State) :=
  match mo with
  | .u => none
  | .s => if off < 0x100000 then none else some (s.windowValue d off (some vi))
  | .m => some (s.windowValue d off none)

/-! ## Writing a window -/

/-- A write by mode M to a register with no behaviour of its own: counters, event selectors and island controls. A write of a
stop register makes STOP_REGISTER_WRITE the next event. -/
def State.windowPut (s : State) (d off : Nat) (v : Word) : State :=
  let cnt := fun (v : Word) => s.modDie d fun x => { x with counts := tset x.counts off v }
  if 0x100100 ≤ off && off < 0x100190 then cnt (v &&& 0xFFFFFFFF)
  else if 0x101000 ≤ off && off < 0x105000 then
    s.modCore (d * 128 + (off - 0x101000) / 128) fun c =>
      let k := off % 128
      if h : k / 8 < 4 then
        let e := BitVec.ofNat 8 v.toNat
        let e := if e.toNat ≤ 0x10 then e else 0
        { c with events := c.events.set (k / 8) { c.events[k / 8] with vien := v.getLsbD 23, vi := v.extractLsb' 16 7, event := e } }
      else if h : (k - 32) / 8 < 4 then
        { c with events := c.events.set ((k - 32) / 8) { c.events[(k - 32) / 8] with count := v } }
      else c
  else if routerOff off || bridgeOff d off || (sliceOff off && off % 64 != 0x30) then cnt v
  else if 0x10A000 ≤ off && off < 0x10C000 then
    { s with agenda := .ev (.stopRegisterWrite (d * 1024 + (off - 0x10A000) / 8) v) :: s.agenda }
  else if 0x220000 ≤ off && off < 0x220200 then
    let n := (off - 0x220000) / 8
    s.modDie d fun x =>
      let i := x.island n
      let r := v.toNat % 32
      let ok := if n < 32 then 1 ≤ r && r ≤ 16 else r == 0
      let i := { i with fstep := v.extractLsb' 8 4, reef := if ok then BitVec.ofNat 5 r else i.reef }
      { x with islands := tset x.islands n i }
  else s

/-- A write of 8 aligned bytes of a window by a mode of a VI; none: the range does not allow it. -/
def State.windowWrite (s : State) (d off : Nat) (mo : Mode) (vi : Nat) (v : Word) : Option State :=
  let owners := fun (w : Writer) =>
    let c := d * 128 + (off - 0x200000) / 1024
    let b := off % 1024 / 4
    (s.writeOwner c b w (v.toNat % 2 ^ 32)).writeOwner c (b + 1) w (v.toNat / 2 ^ 32)
  match mo with
  | .u => none
  | .s =>
    if 0x200000 ≤ off && off < 0x220000 then some (owners (.super vi))
    else if 0x220200 ≤ off then some s
    else none
  | .m =>
    if off = 0x100000 then some (s.writeRdcways d v.toNat)
    else if 0x200000 ≤ off && off < 0x220000 then some (owners .firmware)
    else some (s.windowPut d off v)

end Sys2Proof.Machine
end

