-- ==== Sys2Proof/Machine/Xlate.lean ====
section
/-! DEFINITION. Translation (spec/14_translation.md): the walk, its checks and faults, accessed and dirty bits, TLBs and
walker caches. -/

namespace Sys2Proof.Machine

open Sys2Proof

/-- On whose behalf an access is made: VI, address space, mode, the core that translates, the context and its
instruction, the lane group whose TLB bank translates, for an indexed element (R240), and whether the address depends on a read
(spec/09_consistency.md R219). -/
structure Who where
  vi    : BitVec 7
  space : Space
  mode  : Mode
  core  : Nat
  hart  : Nat
  uid   : Nat
  pc    : Word
  bank  : Option Nat := none
  dep   : Bool := false
  deriving DecidableEq, Repr

/-- The hart itself. -/
def State.who (s : State) (h : Nat) : Who :=
  let x := s.hart h
  { vi := x.who.vi, space := x.sys.space, mode := x.core.mode, core := coreOf h, hart := h, uid := x.who.uid,
    pc := x.core.pc }

/-- The hart itself, for an access whose address these registers give. -/
def State.whoBy (s : State) (h : Nat) (rs : List Reg) : Who :=
  { s.who h with dep := rs.any fun r => r != 0 && (s.hart h).deps.getLsbD r.toNat }

/-- What an access is to translation (Table 14.3). -/
inductive AKind where
  | load | store | atomic | fetch | texel
  deriving DecidableEq, Repr

def AKind.writes : AKind → Bool
  | .store | .atomic => true
  | _ => false

def AKind.missing : AKind → Cause
  | .load => .loadPage
  | .store | .atomic => .storePage
  | .fetch => .ifetchPage
  | .texel => .samplePage

def AKind.noRead : AKind → Cause
  | .load => .loadPage
  | .store | .atomic => .storePage
  | .fetch => .ifetchPage
  | .texel => .access

def AKind.denied : AKind → Cause
  | .fetch => .ifetchPage
  | _ => .access

/-- Fields of an entry (Table 14.2). -/
def ebit (e i : Nat) : Bool := e.testBit i
def eppn (e : Nat) : Nat := (e >>> 12) % 2 ^ 36
def esz (e : Nat) : Nat := (e >>> 10) % 4
def ekey (e : Nat) : Nat := (e >>> 54) % 1024

/-- Pages of 4 KiB that a leaf of a level maps, a 64 KiB group as 16. -/
def leafPages (lvl e : Nat) : Nat := if lvl = 0 then (if esz e = 1 then 16 else 1) else if lvl = 1 then 512 else 262144

/-- The die-local ranges of a range of either DRAM window (spec/08_memories.md R194, spec/19_host_device.md R428): a range of
the interleaved window gives eight when it is cut at 32 KiB, and otherwise one for each page. -/
def spans (pa len : Nat) : List (Nat × Nat) :=
  if len = 0 then [] else if pa < 0x4000000000 then [(pa, pa + len)] else
    let x := pa - 0x4000000000
    if x % 0x8000 = 0 && len % 0x8000 = 0 then
      (List.range 8).map fun d => (d * 2 ^ 35 + x / 8, d * 2 ^ 35 + (x + len) / 8)
    else (List.range ((x + len + 0xFFF) / 0x1000 - x / 0x1000)).filterMap fun k => match place (pa + 0x1000 * k) with
      | .dram a => some (a / 0x1000 * 0x1000, a / 0x1000 * 0x1000 + 0x1000)
      | _ => none

/-- A range less others. -/
def cutRange (r : Nat × Nat) : List (Nat × Nat) → List (Nat × Nat)
  | [] => [r]
  | x :: xs => (cutRange r xs).flatMap fun (y : Nat × Nat) =>
    [(y.1, min y.2 x.1), (max y.1 x.2, y.2)].filter fun z => z.1 < z.2

/-- DRAM assigned to a VI (R428). -/
def State.owns (s : State) (vi a : Nat) : Bool := s.fw.assigned.any fun r => r.2.2 == vi && r.1 ≤ a && a < r.2.1

/-- Every byte of [pa, pa + len) is backed DRAM assigned to the VI. -/
def State.ownsRange (s : State) (vi pa len : Nat) : Bool :=
  let mine := (s.fw.assigned.filter fun r => r.2.2 == vi).map fun r => (r.1, r.2.1)
  len != 0 && (pa + len ≤ 0x4000000000 || (0x4000000000 ≤ pa && pa + len ≤ 0x7C00000000)) &&
    (spans pa len).all fun r => (cutRange r mine).isEmpty

/-- The VI's host port (spec/19_host_device.md Table 19.1): A for VIs 0-63. -/
def viPort (vi : Nat) : Bool := 64 ≤ vi

/-- The port of a VI has trained (R429 step 10). -/
def State.portUp (s : State) (vi : Nat) : Bool :=
  match s.fw.pcie[if viPort vi then 1 else 0]? with
  | some p => p.up
  | none => false

/-- The VI reaches no host memory: its port has not trained, or it is a TDI in state RUN and no IDE stream is bound to it
(R422). -/
def State.cutOff (s : State) (vi : Nat) : Bool := !s.portUp vi || ((s.vi vi).tdiRun && !(s.vi vi).ide)

/-- An access of the host to a VI arrives: it needs the port, and for a TDI in state RUN the IDE stream bound to it, which this
one may or may not have come through (R422; notes/assumptions/161.md). -/
def State.heard (s : State) (vi : Nat) : Bool × State :=
  if s.cutOff vi then (false, s)
  else if (s.vi vi).tdiRun then
    let (f, s) := s.draw
    (Config.freeBit f, s)
  else (true, s)

/-- What a leaf of n pages at pa may name (R336): DRAM or host memory of the VI, its own tables read-only, or a register
window. -/
def State.leafTarget (s : State) (vi pa n e : Nat) : Bool :=
  let own := fun (k : Nat) => match place (pa + 4096 * k) with
    | .dram a => ownTablePage vi a || s.ownsRange vi (pa + 4096 * k) 4096
    | _ => false
  match place pa with
  | .dram _ => s.ownsRange vi pa (n * 4096) || (n ≤ 16 && !ebit e 5 && ebit e 50 && (List.range n).all own)
  | .host b _ => b == viPort vi && !ebit e 53
  | .window _ _ => !ebit e 53
  | .none => false

/-- R336: the leaf is not malformed. -/
def State.leafOk (s : State) (vi : Nat) (inst : Bool) (lvl va e : Nat) : Bool :=
  (e >>> 2) % 4 == 0 && (e >>> 48) % 4 == 0 &&
  (if lvl = 0 then esz e < 2 else esz e == 0) &&
  !ebit e 1 &&
  (lvl == 1 || lvl == 2 || (lvl == 0 && !inst)) &&
  (!ebit e 5 || (ebit e 4 && !inst)) &&
  (ebit e 53 || ekey e == 0) &&
  (lvl != 1 || eppn e % 2 ^ 9 == 0) && (lvl != 2 || eppn e % 2 ^ 18 == 0) &&
  (lvl != 0 || esz e != 1 || eppn e % 16 == (va >>> 12) % 16) &&
  (!inst || (ebit e 50 && ebit e 51)) &&
  (let n := leafPages lvl e
   s.leafTarget vi ((eppn e - eppn e % n) * 4096) n e)

/-- A table pointer uses V, T and PPN only and names DRAM of the VI (R334, R335). -/
def State.pointerOk (s : State) (vi e : Nat) : Bool :=
  e - (e % 4 + eppn e * 4096) == 0 && s.ownsRange vi (eppn e * 4096) 4096

/-- What a walk ends in: a leaf with its level and its own address, or a failure. -/
inductive Walked where
  | leaf (lvl at_ e : Nat)
  | invalid
  | malformed (lvl e : Nat)
  | poisoned
  deriving DecidableEq, Repr

/-- Index of a level (Table 14.1). -/
def walkIndex (va lvl : Nat) : Nat := (va >>> (12 + 9 * lvl)) % 512

/-- The pointer that the die's walker cache holds for a level of an address, when it differs from what memory gives, may answer
instead (R343): the entry used. fresh: the entry at its home, none when it reads poisoned. -/
def State.walkEntry (s : State) (d : Nat) (w : Who) (inst : Bool) (root : BitVec 36) (va lvl : Nat) (fresh : Option Nat) :
    Option Nat × State :=
  let idx := (va % 2 ^ 57) >>> (12 + 9 * lvl)
  let hit := (s.die d).walker.find? fun p =>
    p.vi == w.vi && p.inst == inst && p.root == root && p.level == lvl && p.index == idx
  match hit with
  | none => (fresh, s)
  | some p => if fresh = some p.entry then (fresh, s) else
    let (f, s) := s.draw
    (if Config.freeBit f then some p.entry else fresh, s)

/-- A list with one of its items left out when it has more than n: any of them. -/
def State.evict {α : Type} (s : State) (n : Nat) (l : List α) : List α × State :=
  if l.length ≤ n then (l, s) else
    let (f, s) := s.draw
    (l.eraseIdx ((Config.freeWord f).toNat % l.length), s)

/-- Pointers that the walker cache of a die holds, and entries of the TLBs (Table 14.4). -/
def walkerSize : Nat := 256
def coreTlbSize : Nat := 2048
def bankSize : Nat := 32
def instTlbSize : Nat := 32

/-- The walker cache keeps a pointer, in place of what it held for the same path; when it is full, any pointer leaves. -/
def State.walkFill (s : State) (d : Nat) (w : Who) (inst : Bool) (root : BitVec 36) (va lvl e : Nat) : State :=
  let idx := (va % 2 ^ 57) >>> (12 + 9 * lvl)
  let same := fun (p : WalkEntry) =>
    p.vi == w.vi && p.inst == inst && p.root == root && p.level == lvl && p.index == idx
  let l := (s.die d).walker
  let users := match l.find? same with
    | some p => if p.asids.contains w.space.asid then p.asids else w.space.asid :: p.asids
    | none => [w.space.asid]
  let x : WalkEntry := { vi := w.vi, asids := users, inst := inst, root := root, level := lvl, index := idx, entry := e }
  let (l, s) := s.evict walkerSize (x :: l.filter fun p => !same p)
  s.modDie d fun y => { y with walker := l }

/-- The walk from a table at a level downwards (R333, R334). fill: the walker cache takes part. -/
def State.walkFrom (s : State) (w : Who) (inst : Bool) (root : BitVec 36) (va : Nat) (fill : Bool) :
    Nat → Nat → Walked × State
  | lvl, base =>
    let at_ := base + 8 * walkIndex va lvl
    let fresh := if s.physPoisoned at_ 8 then none else some (s.physWord at_)
    let d := dieOfCore w.core
    let (e, s) := if fill && lvl != 0 then s.walkEntry d w inst root va lvl fresh else (fresh, s)
    match e with
    | none => (.poisoned, s)
    | some e =>
    if !ebit e 0 then (.invalid, s) else
    if ebit e 1 && lvl != 0 then
      if !s.pointerOk w.vi.toNat e then (.malformed lvl e, s) else
        let s := if fill then s.walkFill d w inst root va lvl e else s
        match lvl with
        | 0 => (.invalid, s)
        | k + 1 => s.walkFrom w inst root va fill k (eppn e * 4096)
    else if s.leafOk w.vi.toNat inst lvl va e then (.leaf lvl at_ e, s)
    else (.malformed lvl e, s)

def Who.root (w : Who) (inst : Bool) : BitVec 36 := if inst then w.space.iroot else w.space.droot

/-- The walk of an address in the caller's space. -/
def State.walk (s : State) (w : Who) (inst : Bool) (va : Nat) (fill : Bool) : Walked × State :=
  s.walkFrom w inst (w.root inst) va fill 4 ((w.root inst).toNat * 4096)

/-- R185: bits [63:57] equal bit 56. -/
def canonical (va : Word) : Bool := va.toNat / 2 ^ 56 % 256 == 0 || (va.toNat / 2 ^ 56 % 256 == 255)

/-- R438: a sheet-peer address. -/
def isSheet (va : Word) : Bool := va.toNat / 2 ^ 56 == 255 && va.getLsbD 49

/-- The entry that a leaf fills for an address (R337, R340); the walker has set A in it (R339). -/
def Who.entry (w : Who) (inst : Bool) (va lvl at_ e : Nat) : TlbEntry :=
  let n := leafPages lvl e
  let pg := (va % 2 ^ 57) >>> 12
  { vi := w.vi, asid := w.space.asid, glob := ebit e 9, inst := inst, base := pg - pg % n, pages := n, at_ := at_,
    leaf := e ||| 128 }

/-- The translation that an entry gives an address. -/
def TlbEntry.xlat (t : TlbEntry) (va : Nat) : Xlat :=
  let e := t.leaf
  { page := eppn e - eppn e % t.pages + (va >>> 12) % t.pages, idem := ebit e 50, cache := ebit e 51, rc := ebit e 52,
    enc := ebit e 53, key := BitVec.ofNat 10 (ekey e), entry := t }

/-- A translation of nothing. -/
def noXlat : Xlat :=
  TlbEntry.xlat { vi := 0, asid := 0, glob := false, inst := false, base := 0, pages := 1, at_ := 0, leaf := 0 } 0

/-- The physical page that a leaf gives an address. -/
def leafPage (va lvl e : Nat) : Nat :=
  let n := leafPages lvl e
  eppn e - eppn e % n + (va >>> 12) % n

/-- The leaf that an entry holds has D set: a write through it makes no update (R339). -/
def TlbEntry.dirty (t : TlbEntry) : Bool := ebit t.leaf 8

/-- The checks at the leaf: U, then RD and WR, then KEY (R338). -/
def State.leafFault (s : State) (w : Who) (k : AKind) (e : Nat) : Option Cause :=
  if w.mode == .u && !ebit e 6 then some k.denied
  else if !ebit e 4 then some k.noRead
  else if k.writes && !ebit e 5 then some .storePage
  else if ebit e 53 && (match tfind s.fw.keys (ekey e) with
    | some slot => slot.vi != w.vi.toNat
    | none => true) then some k.denied
  else none

def TlbEntry.hits (t : TlbEntry) (w : Who) (inst : Bool) (va : Nat) : Bool :=
  t.vi == w.vi && t.inst == inst && (t.glob || t.asid == w.space.asid) && t.base ≤ (va % 2 ^ 57) >>> 12 &&
    (va % 2 ^ 57) >>> 12 < t.base + t.pages

/-! ## TLBs (R340, Table 14.4) -/

/-- The TLB that serves an access first: the instruction TLB, the bank of a lane group, or the core TLB. -/
def State.tlbOf (s : State) (w : Who) (inst : Bool) : List TlbEntry :=
  let c := s.core w.core
  if inst then c.itlb else match w.bank with
    | none => c.tlb
    | some k => tget [] c.banks k

def State.setTlb (s : State) (w : Who) (inst : Bool) (l : List TlbEntry) : State :=
  s.modCore w.core fun c => if inst then { c with itlb := l } else match w.bank with
    | none => { c with tlb := l }
    | some k => { c with banks := tset c.banks k l }

def Who.tlbSize (w : Who) (inst : Bool) : Nat :=
  if inst then instTlbSize else match w.bank with
    | none => coreTlbSize
    | some _ => bankSize

/-- A TLB takes an entry for an address, in place of the one that served it; when it is full, any entry leaves. -/
def State.tlbPut (s : State) (w : Who) (inst : Bool) (va : Nat) (t : TlbEntry) : State :=
  let (l, s) := s.evict (w.tlbSize inst) (t :: (s.tlbOf w inst).filter fun o => !o.hits w inst va)
  s.setTlb w inst l

/-- A fresh walk and its outcome (R338, R339): a malformed entry is recorded; a leaf that passes its checks gets A and fills
the core TLB, or the instruction TLB. No TLB holds a failed translation (R340). -/
def State.xlateWalk (s : State) (w : Who) (inst : Bool) (k : AKind) (va : Nat) : Except Cause Xlat × State :=
  let (r, s) := s.walk w inst va true
  let s := s.countEvent w.core w.vi 0x0A 1
  match r with
  | .invalid => (.error k.missing, s)
  | .poisoned => (.error .dataEcc, s)
  | .malformed lvl e =>
    (.error k.denied, s.logErr (dieOfCore w.core) (some w.vi.toNat) 3 (lvl + w.space.asid.toNat * 2 ^ 16) w.hart
      (BitVec.ofNat 64 va) (BitVec.ofNat 64 e))
  | .leaf lvl at_ e =>
    match s.leafFault w k e with
    | some c => (.error c, s)
    | none =>
      let s := if ebit e 7 then s else s.physWrite w.uid at_ (leBytes 8 (e + 128))
      let t := w.entry inst va lvl at_ e
      (.ok (t.xlat va), s.tlbPut { w with bank := none } inst va t)

/-- What a TLB answers. It may have evicted an entry, which shows only when a walk would now find another leaf or another
entry of the leaf's group (R337, R343). A write that an entry allows, and whose leaf is clean, discards it when the leaf has
changed since (R339; notes/assumptions/140.md). -/
def State.tlbUse (s : State) (w : Who) (inst : Bool) (k : AKind) (va : Nat) : Option (Except Cause Xlat) × State :=
  match (s.tlbOf w inst).find? fun t => t.hits w inst va with
  | none => (none, s)
  | some t =>
    let bad := s.leafFault w k t.leaf
    let ans := match bad with
      | some c => Except.error c
      | none => .ok (t.xlat va)
    let now := match (s.walk w inst va false).1 with
      | .leaf _ at_ e => at_ == t.at_ && e == t.leaf
      | _ => false
    if k.writes && bad.isNone && !t.dirty && s.physWord t.at_ != t.leaf then
      (none, s.setTlb w inst ((s.tlbOf w inst).filter fun o => o != t))
    else if now then (some ans, s) else
      let (f, s) := s.draw
      (if Config.freeBit f then some ans else none, s)

/-- What the walks of one instruction have found for its reads, or for its writes, by page, and how often a TLB had no entry
(R341, spec/17_counters_debug.md R393). -/
structure Walks where
  found  : List (Nat × Except Cause Xlat) := []
  wrote  : List (Nat × Except Cause Xlat) := []
  misses : Nat := 0

/-- The outcome of an earlier walk of the instruction for an access of a kind to the page of an address: one that was made for
reads does not serve a write, which has checks and an update of its own (R338, R339). -/
def Walks.get (m : Walks) (k : AKind) (va : Nat) : Option (Except Cause Xlat) :=
  (if k.writes then m.wrote else m.found).findSome? fun e => match e.2 with
    | .ok x => if x.entry.base ≤ (va % 2 ^ 57) >>> 12 && (va % 2 ^ 57) >>> 12 < x.entry.base + x.entry.pages then
        some (.ok (x.entry.xlat va)) else none
    | .error c => if e.1 = va / 4096 then some (.error c) else none

/-- An outcome kept for the accesses of a kind. -/
def Walks.put (m : Walks) (k : AKind) (va : Nat) (r : Except Cause Xlat) : Walks :=
  if k.writes then { m with wrote := (va / 4096, r) :: m.wrote } else { m with found := (va / 4096, r) :: m.found }

/-- A canonical address translated (R333-R345). An access through the core TLB is translated once per page that its
instruction touches (R240); one through a lane group's bank asks the bank, the core TLB and the walker in turn, and elements
that share a page share its walk (R341). -/
def State.xlateIn (s : State) (w : Who) (inst : Bool) (k : AKind) (va : Word) (m : Walks) : Except Cause Xlat × Walks × State :=
  let a := va.toNat
  let keep := fun (m : Walks) (r : Except Cause Xlat) => m.put k a r
  if !canonical va then (.error k.denied, m, s) else
  match w.bank with
  | none =>
    (match m.get k a with
      | some r => (r, m, s)
      | none =>
        let (r, s) := s.tlbUse w inst k a
        match r with
        | some r => (r, keep m r, s)
        | none =>
          let s := if inst then s else s.countEvent w.core w.vi 0x08 1
          let (r, s) := s.xlateWalk w inst k a
          (r, keep { m with misses := m.misses + 1 } r, s))
  | some _ =>
    let (r, s) := s.tlbUse w inst k a
    match r with
    | some r => (r, m, s)
    | none =>
      let m := { m with misses := m.misses + 1 }
      let s := s.countEvent w.core w.vi 0x09 1
      let (r, m, s) : Except Cause Xlat × Walks × State := match m.get k a with
        | some r => (r, m, s)
        | none =>
          let (r, s) := s.tlbUse { w with bank := none } inst k a
          match r with
          | some r => (r, m, s)
          | none =>
            let (r, s) := (s.countEvent w.core w.vi 0x08 1).xlateWalk w inst k a
            (r, keep m r, s)
      match r with
      | .error c => (.error c, m, s)
      | .ok x => (.ok x, m, s.tlbPut w inst a x.entry)

/-- An address translated for an instruction that translates nothing else. -/
def State.xlate (s : State) (w : Who) (inst : Bool) (k : AKind) (va : Word) : Except Cause Xlat × State :=
  let (r, _, s) := s.xlateIn w inst k va {}
  (r, s)

/-- The walker sets D before the first write through an entry whose leaf is clean, and every TLB entry of the core that was
filled from that leaf records it (R339). -/
def State.markDirty (s : State) (w : Who) (x : Xlat) : State :=
  let t := x.entry
  if t.dirty then s else
    let now := s.physWord t.at_
    let s := if ebit now 8 then s else s.physWrite w.uid t.at_ (leBytes 8 (now + 256))
    let mark := fun (o : TlbEntry) => if o.at_ == t.at_ && o.leaf == t.leaf then { o with leaf := o.leaf ||| 256 } else o
    s.modCore w.core fun c =>
      { c with tlb := c.tlb.map mark, banks := c.banks.map fun b => (b.1, b.2.map mark) }

/-- A leaf replaced or removed, or an ASID given to a new table: TLBs and walker caches lose what matches (R344, R345). -/
def State.dropTlb (s : State) (p : TlbEntry → Bool) (q : WalkEntry → Bool) : State :=
  let keep := fun (l : List TlbEntry) => l.filter fun t => !p t
  { s with cores := s.cores.map fun c => (c.1, { c.2 with tlb := keep c.2.tlb, itlb := keep c.2.itlb,
                                                          banks := c.2.banks.map fun b => (b.1, keep b.2) }),
           dies := s.dies.map fun d => (d.1, { d.2 with walker := d.2.walker.filter fun e => !q e }) }

/-- How many copies and requests of the networks have been numbered. -/
def State.numbered (s : State) : Nat × Nat := (s.net.arrivals, s.fresh)

/-- An access that has been probed, among those numbered so far, and not performed holds a translation that matches: queued
copies, copies, stores and atomic requests on their way (R344). -/
def State.xlatHeld (s : State) (r : Nat × Nat) (p : TlbEntry → Bool) : Bool :=
  let copy := fun (y : Copy) => y.seq < r.1 && y.pages.any fun e => p e.2.entry
  (s.harts.any fun e => e.2.eng.chans.toList.any fun c => c.copies.any copy) ||
  (s.net.entries.any fun e => match e.post with
    | .copy _ y => copy y
    | _ => false) ||
  (s.net.stores.any fun q => q.id < r.2 && p q.xl.entry) || s.net.atms.any fun q => q.id < r.2 && q.reply.isNone && p q.xl.entry

end Sys2Proof.Machine
end

