-- ==== Sys2Proof/Machine/Mem.lean ====
section
/-! DEFINITION. Accesses of the data virtual space, L-space and peer L-space (spec/10_memory_isa.md): what an address
reaches, its faults, reading and writing it. -/

namespace Sys2Proof.Machine

open Sys2Proof

/-! ## Devices' own translation -/

/-- Who a device acts for in a VI's address space. -/
def State.whoVi (s : State) (vi : Nat) (asid : BitVec 16) : Who :=
  { vi := BitVec.ofNat 7 vi, space := tget { iroot := 0, droot := 0, asid := asid } (s.vi vi).spaces asid.toNat, mode := .s,
    core := 0, hart := noHart, uid := 0, pc := 0 }

/-- A page of a VI's data or instruction space walked through the walkers of a device's die: the entry, with A set at the leaf
(R339, R340). -/
def State.devWalk (s : State) (w : Who) (inst : Bool) (k : AKind) (va : Word) : Except Cause TlbEntry × State :=
  if !canonical va || (isSheet va && !inst) then (.error .access, s) else
  let (r, s) := s.walk w inst va.toNat true
  match r with
  | .invalid => (.error k.missing, s)
  | .poisoned => (.error .dataEcc, s)
  | .malformed lvl e =>
    (.error .access, s.logErr (dieOfCore w.core) (some w.vi.toNat) 3 (lvl + w.space.asid.toNat * 2 ^ 16) w.hart va
      (BitVec.ofNat 64 e))
  | .leaf lvl at_ e =>
    match s.leafFault w k e with
    | some c => (.error c, s)
    | none => (.ok (w.entry inst va.toNat lvl at_ e), if ebit e 7 then s else s.physWrite w.uid at_ (leBytes 8 (e + 128)))

/-- D set at the leaf that an entry was filled from. -/
def State.setDirty (s : State) (uid : Nat) (t : TlbEntry) : State :=
  let now := s.physWord t.at_
  if ebit now 8 then s else s.physWrite uid t.at_ (leBytes 8 (now + 256))

/-- A device's access to a page of a VI's data space: the translation, with A and D set at the leaf. -/
def State.devXlate (s : State) (w : Who) (k : AKind) (va : Word) : Except Cause Xlat × State :=
  let (r, s) := s.devWalk w false k va
  match r with
  | .error c => (.error c, s)
  | .ok t => (.ok (t.xlat va.toNat), if k.writes then s.setDirty w.uid t else s)

/-- n bytes that a device reads from a VI's data space; none: a fault, or poison. -/
def State.devRead (s : State) (w : Who) (va : Word) : Nat → Option (List Byte) × State
  | 0 => (some [], s)
  | n + 1 =>
    let (r, s) := s.devRead w va n
    match r with
    | none => (none, s)
    | some bs =>
      let a := va + BitVec.ofNat 64 n
      let (x, s) := s.devXlate w .load a
      match x with
      | .error _ => (none, s)
      | .ok x =>
        let p := place (x.page * 4096 + a.toNat % 4096)
        match p with
        | .dram _ | .host _ _ =>
          if p.onHost && s.cutOff w.vi.toNat then (none, s) else
          let (g, s) := s.freshRead x.tag p 1
          if g.2 then (none, s) else (some (bs ++ g.1), s)
        | _ => (none, s)

/-- Bytes that a device writes to a VI's data space; none: a fault at some byte, and the state then holds no byte of
it. -/
def State.devWrite (s : State) (w : Who) (va : Word) (bs : List Byte) : Option State :=
  let step := fun (acc : Option (State × Nat)) (b : Byte) =>
    match acc with
    | none => none
    | some (s, k) =>
      let a := va + BitVec.ofNat 64 k
      let (x, s) := s.devXlate w .store a
      match x with
      | .error _ => none
      | .ok x =>
        let p := place (x.page * 4096 + a.toNat % 4096)
        match p with
        | .dram pa => some (s.homeWrite w.uid x.tag pa [b] none, k + 1)
        | .host hb pa =>
          if s.cutOff w.vi.toNat then none else
          some (if hb then { s with phys := { s.phys with hostB := s.phys.hostB.write pa b } }
                else { s with phys := { s.phys with hostA := s.phys.hostA.write pa b } }, k + 1)
        | _ => none
  (bs.foldl step (some (s, 0))).map Prod.fst

/-- Bytes that firmware reads at a command's buffer address (spec/19_host_device.md R423): bit 47 names host memory
through the function's own port, otherwise ASID 0 of the VI's data space. A host may refuse an access. -/
def State.bufRead (s : State) (vi : Nat) (a : Word) (n : Nat) : Option (List Byte) × State :=
  if a.getLsbD 47 then
    let (f, s) := s.draw
    if s.cutOff vi || Config.freeBit f then (none, s)
    else (some ((if viPort vi then s.phys.hostB else s.phys.hostA).readN (a.toNat % 2 ^ 46) n), s)
  else s.devRead (s.whoVi vi 0) a n

/-- Bytes that firmware writes at a command's buffer address. -/
def State.bufWrite (s : State) (vi : Nat) (a : Word) (bs : List Byte) : Option State :=
  if a.getLsbD 47 then
    let (f, s) := s.draw
    if s.cutOff vi || Config.freeBit f then none
    else if viPort vi then some { s with phys := { s.phys with hostB := s.phys.hostB.writeN (a.toNat % 2 ^ 46) bs } }
    else some { s with phys := { s.phys with hostA := s.phys.hostA.writeN (a.toNat % 2 ^ 46) bs } }
  else s.devWrite (s.whoVi vi 0) a bs

/-! ## What an address of the data space reaches -/

/-- What an access reaches. -/
inductive Target where
  | mem (x : Xlat) (p : Place)
  | sheet (va : Word)
  deriving DecidableEq, Repr

/-- A fault of an access: its cause and TVAL. -/
abbrev MemFault := Cause × Word

/-- R394: an access of n bytes by the hart matches a watch range. -/
def Hart.watches (x : Hart) (mo : Mode) (k : AKind) (va : Word) (n : Nat) : Bool :=
  mo == .u && x.sys.watch.toList.any fun w =>
    w.en && (match k with
      | .load | .texel => w.ld
      | .store => w.st
      | .atomic => w.ld || w.st
      | .fetch => false) &&
    w.base.toNat < w.lim.toNat && va.toNat < w.lim.toNat && w.base.toNat < va.toNat + n

/-- The configuration of this module in its sheet group. -/
def State.sheetConf (s : State) : Option SheetConf := s.fw.sheets.head?

/-- The Sheet ports that may carry traffic to a module. -/
def State.sheetPorts (s : State) (dest : Nat) : List Nat :=
  match s.sheetConf with
  | none => []
  | some c => (List.range 12).filter fun k => (c.routes.getD dest 0).getLsbD k

/-- Some Sheet port may. -/
def State.sheetRoute (s : State) (dest : Nat) : Bool := !(s.sheetPorts dest).isEmpty

/-- R438: the fault of a sheet-peer address at the probe, or the destination's refusal, which is another module's to give. -/
def State.sheetProbe (s : State) (k : AKind) (va : Word) : Option Cause × State :=
  if !s.sheetRoute (bitsOf va 55 50) then (some .access, s)
  else if va.getLsbD 48 && (k == .atomic || bitsOf va 47 42 != 0 || bitsOf va 31 20 != 0) then (some .access, s)
  else
    let (f, s) := s.draw
    (if Config.freeBit f then some .access else none, s)

/-- The probe of n aligned bytes of the data space: translation, permission, space, watch ranges. memo holds what the walks of
the instruction have found. -/
def State.probeIn (s : State) (w : Who) (k : AKind) (va : Word) (n : Nat) (memo : Walks) :
    Except MemFault Target × Walks × State :=
  let watch := (s.hart w.hart).watches w.mode k va n
  if isSheet va then
    let (c, s) := s.sheetProbe k va
    match c with
    | some c => (.error (c, va), memo, s)
    | none => (if watch then .error (.watch, va) else .ok (.sheet va), memo, s)
  else
    let (r, memo, s) := s.xlateIn w false k va memo
    match r with
    | .error c => (.error (c, va), memo, s)
    | .ok x =>
      let p := place (x.page * 4096 + va.toNat % 4096)
      match p with
      | .dram _ => (if watch then .error (.watch, va) else .ok (.mem x p), memo, s)
      | .host _ _ =>
        if k == .atomic then (.error (.access, va), memo, s) else
        let (f, s) := s.draw
        if s.cutOff w.vi.toNat || Config.freeBit f then (.error (.access, va), memo, s)
        else (if watch then .error (.watch, va) else .ok (.mem x p), memo, s)
      | .window d off =>
        if k == .atomic || k == .texel then (.error (.access, va), memo, s)
        else if n != 8 then (.error (.align, va), memo, s)
        else if (if k.writes then (s.windowWrite d off w.mode w.vi.toNat 0).isNone
                 else (s.windowRead d off w.mode w.vi.toNat).isNone) then (.error (.access, va), memo, s)
        else (.ok (.mem x p), memo, s)
      | .none => (.error (.access, va), memo, s)

/-- The probe of an instruction that accesses one place. -/
def State.probe (s : State) (w : Who) (k : AKind) (va : Word) (n : Nat) : Except MemFault Target × State :=
  let (r, _, s) := s.probeIn w k va n {}
  (r, s)

/-! ## Link loss (spec/12_engines_handlers.md R298) -/

/-- An access of a context completed as LINK_LOST. -/
def State.linkErr (s : State) (w : Who) (addr k : Nat) : State :=
  s.logErr (dieOfCore w.core) (some w.vi.toNat) 6 k w.hart (BitVec.ofNat 64 addr) 0

/-- An access without a register destination that was lost is reported to its context (spec/02_encoding.md R58). -/
def State.pend (s : State) (w : Who) (c : ErrCause) : State :=
  if (s.hart w.hart).who.uid == w.uid && (s.hart w.hart).pendErr.isNone then
    s.modHart w.hart fun x => { x with pendErr := some { cause := c, addr := w.pc } }
  else s

/-- The die at which a place is reached (spec/01_machine.md R14): that of a home line or a register window, and for host memory
the die of its PCIe port, 0 for port A and 3 for port B. -/
def Place.die (p : Place) (d : Nat) : Nat := match p with
  | .dram a => dramDie a
  | .host b _ => if b then 3 else 0
  | .window d _ => d
  | .none => d

/-- The die that a Sheet port attaches to: two ports on each of dies 1, 2, 4, 5, 6 and 7 (spec/01_machine.md R14). -/
def sheetDie (port : Nat) : Nat := [1, 2, 4, 5, 6, 7].getD (port / 2) 0

/-- The link on which an access of what a probe found is lost, or 0x100 + the Sheet port. One of another module leaves through any
port that its route names, and is lost where the port is down (spec/19_host_device.md R437). atomic: an atomic request, which
goes in dimension order. -/
def State.lostTo (s : State) (w : Who) (t : Target) (atomic : Bool := false) : Option Nat × State :=
  let d := dieOfCore w.core
  match t with
  | .mem _ p => if atomic then (s.lostAtm d (p.die d), s) else s.lost d (p.die d)
  | .sheet va =>
    let ports := s.sheetPorts (bitsOf va 55 50)
    if ports.all fun k => s.fw.ports.getLsbD k && (s.crossing d (sheetDie k)).isNone then (none, s) else
      let (f, s) := s.draw
      let k := ports.getD ((Config.freeWord f).toNat % ports.length) 0
      if s.fw.ports.getLsbD k then s.lost d (sheetDie k) else (some (0x100 + k), s)

def Place.addr (p : Place) : Nat := match p with
  | .dram a => a
  | .host _ a => a
  | _ => 0

/-- Data delivered to a hart, with its poison: a parity error found at delivery poisons them, and is counted at the die of
the hart (spec/12_engines_handlers.md R294, spec/08_memories.md Table 08.8). -/
def State.deliver (s : State) (w : Who) (addr : Nat) (p : Option Poison) : Option Poison × State :=
  if !s.net.parity.contains w.hart then (p, s) else
    let s := { s with net := { s.net with parity := s.net.parity.erase w.hart } }
    (some { cause := .dataEcc, addr := w.pc }, s.eccMet (dieOfCore w.core) 8 (some w.vi.toNat) w.hart addr)

/-- Data that arrive with an error for an instruction of a hart: a parity error is found, counted and recorded where they are
delivered (R294), and a loss on a link or at a Sheet port recorded (spec/17_counters_debug.md R398); of which address, and of
which link or port, the record tells is free. -/
def State.arriveBad (s : State) (h : Nat) (c : ErrCause) : State :=
  let (f, s) := s.draw
  let addr := (Config.freeWord f).toNat
  match c with
  | .dataEcc => s.eccMet (dieOf h) 8 (some (s.hart h).who.vi.toNat) h addr
  | .linkLost =>
    let (k, s) := s.draw
    let n := (Config.freeWord k).toNat % 22
    s.linkErr (s.who h) addr (if n < 10 then n else 0x100 + (n - 10))

/-- The physical address that a lost request names, or for another module the virtual one. -/
def Target.addr : Target → Nat
  | .mem _ p => p.addr
  | .sheet va => va.toNat

/-- The value of n bytes that a target holds, with its poison. scalar: through the core's L1. -/
def State.readTarget (s : State) (w : Who) (scalar : Bool) (t : Target) (n : Nat) : (Nat × Option Poison) × State :=
  match s.lostTo w t with
  | (some k, s) => ((0, some { cause := .linkLost, addr := w.pc }), s.linkErr w t.addr k)
  | (none, s) =>
  match t with
  | .sheet va =>
    let (f, s) := s.draw
    let s := { s with net := { s.net with sheetOut := s.net.sheetOut ++ [(va, [])] } }
    (((Config.freeWord f).toNat % 2 ^ (8 * n), none), s)
  | .mem x p =>
    match p with
    | .window d off =>
      (match s.windowRead d off w.mode w.vi.toNat with
        | some (v, s) => ((v.toNat, none), s)
        | none => ((0, none), s))
    | _ =>
    let (g, s) := if scalar then s.l1Read w.core w.vi w.dep x p n
      else
        let s := s.dropL1Line w.core p
        s.netRead (dieOfCore w.core) x p n
    let s := match p with
      | .dram a => if x.rc then s else s.dropRdcLine (dieOfCore w.core) (a / 128)
      | _ => s
    let (q, s) := s.deliver w p.addr (if g.2 then some { cause := .dataEcc, addr := w.pc } else none)
    ((leNat g.1, q), s)

/-- n bytes written where they have arrived. -/
def State.putTarget (s : State) (w : Who) (scalar : Bool) (t : Target) (n v : Nat) (poison : Option Poison) : State :=
  match t with
  | .sheet va => { s with net := { s.net with sheetOut := s.net.sheetOut ++ [(va, leBytes n v)] } }
  | .mem x p =>
    match p with
    | .window d off => (s.windowWrite d off w.mode w.vi.toNat (BitVec.ofNat 64 v)).getD s
    | _ =>
    let s := match p with
      | .dram a => s.dropRdcLine (dieOfCore w.core) (a / 128)
      | _ => s
    s.memWrite w.core w.uid scalar x p (leBytes n v) poison

/-- A write lost on a link, or its acknowledgement: it may have been performed, and is reported to its context. -/
def State.loseWrite (s : State) (w : Who) (scalar : Bool) (t : Target) (n v : Nat) (poison : Option Poison) (link : Nat) : State :=
  let (f, s) := s.draw
  let s := (s.linkErr w t.addr link).pend w .linkLost
  if Config.freeBit f then s.putTarget w scalar t n v poison else s

/-- n bytes written to a target that the probe has passed. -/
def State.writeTarget (s : State) (w : Who) (scalar : Bool) (t : Target) (n v : Nat) (poison : Option Poison) : State :=
  match s.lostTo w t with
  | (none, s) => s.putTarget w scalar t n v poison
  | (some k, s) => s.loseWrite w scalar t n v poison k

/-- An atomic performed at the home: the old value, and poison when the line holds poison, which then stays as it is
(R200). -/
def State.amoTarget (s : State) (w : Who) (t : Target) (n : Nat) (f : Nat → Option Nat) : (Nat × Option Poison) × State :=
  let go := fun (s : State) =>
    match t with
    | .sheet va =>
      let (k, s) := s.draw
      let old := (Config.freeWord k).toNat % 2 ^ (8 * n)
      ((old, none), { s with net := { s.net with sheetOut := s.net.sheetOut ++ [(va, leBytes n ((f old).getD old))] } })
    | .mem x p =>
      let s := s.dropL1Line w.core p
      let s := match p with
        | .dram a => s.dropRdcLine (dieOfCore w.core) (a / 128)
        | _ => s
      let (g, s) := s.freshRead x.tag p n
      if g.2 then ((leNat g.1, some { cause := .dataEcc, addr := w.pc }), s) else
        let old := leNat g.1
        match f old with
        | some new => ((old, (none : Option Poison)), s.memWrite w.core w.uid false x p (leBytes n new) none)
        | none => ((old, none), s)
  match s.lostTo w t true with
  | (none, s) => go s
  | (some k, s) =>
    let (b, s) := s.draw
    let s := s.linkErr w t.addr k
    ((0, some { cause := .linkLost, addr := w.pc }), if Config.freeBit b then (go s).2 else s)

/-! ## L-space and peer L-space (R185, R191, R234) -/

/-- The core and offset of a peer address (R191). -/
def peerAddr (a : Word) : Option (Nat × Nat) :=
  if bitsOf a 63 62 != 0 || bitsOf a 51 20 != 0 then none else some (bitsOf a 61 52, bitsOf a 19 0)

/-- The ownership probe of n bytes of a core's lane memory for a VI. -/
def State.laneProbe (s : State) (c : Nat) (vi : BitVec 7) (peer : Bool) (off : Nat) (n : Nat) : Bool :=
  (s.core c).mayTouch vi peer off n

/-- A hart's own peer stores to a core land, in the order it made them, before its own access of bytes that one of them
writes (R214, R221). -/
def State.landOwn (s : State) (uid c off n : Nat) : State :=
  if s.net.peers.any fun p => p.uid == uid && p.core == c && p.off < off + n && off < p.off + p.bytes.length then
    s.landPeers fun p => p.uid == uid && p.core == c
  else s

/-- n bytes of lane memory read for a context. -/
def State.readLane (s : State) (w : Who) (c off n : Nat) : (Nat × Option Poison) × State :=
  match s.lost (dieOfCore w.core) (dieOfCore c) with
  | (some k, s) => ((0, some { cause := .linkLost, addr := w.pc }), s.linkErr w (c * 2 ^ 52 + off) k)
  | (none, s) =>
    let s := s.landOwn w.uid c off n
    let (bs, p) := (s.core c).laneRead off n
    let (p, s) := if c = w.core then (p, s) else s.deliver w (c * 2 ^ 52 + off) p
    ((leNat bs, p.map fun q => { q with addr := w.pc }), s)

/-- n bytes of lane memory written for a context. -/
def State.writeLane (s : State) (w : Who) (c off n v : Nat) (poison : Option Poison) : State :=
  let put := fun (s : State) => (s.landOwn w.uid c off n).modCore c fun x => x.laneWrite off (leBytes n v) poison
  match s.lost (dieOfCore w.core) (dieOfCore c) with
  | (none, s) => put s
  | (some k, s) =>
    let (f, s) := s.draw
    let s := (s.linkErr w (c * 2 ^ 52 + off) k).pend w .linkLost
    if Config.freeBit f then put s else s

/-- A peer store on its way (R221). -/
def State.sendPeer (s : State) (w : Who) (c off n v : Nat) : State :=
  let p : PeerStore := { uid := w.uid, pc := w.pc, core := c, off := off, bytes := leBytes n v, poison := none }
  { s with net := { s.net with peers := s.net.peers ++ [p] } }

/-- The walker sets D for a write to a target that the probe has passed (R339). -/
def State.dirtyTarget (s : State) (w : Who) : Target → State
  | .mem x _ => s.markDirty w x
  | .sheet _ => s

/-- The home line of a target. -/
def Target.line : Target → List Nat
  | .mem _ (.dram a) => [a / 128]
  | _ => []

/-! ## Fences, releases and acquires (R217, R245) -/

/-- An atomic request of a context that its home has not performed. -/
def AtmReq.open_ (q : AtmReq) (uid : Nat) : Bool := q.uid == uid && q.reply.isNone

/-- Some atomic or store of a context is on its way to its home. -/
def State.atmsOpen (s : State) (uid : Nat) : Bool := (s.net.atms.any fun q => q.open_ uid) || s.net.stores.any fun q => q.uid == uid

/-- Bytes of a request. -/
def AtmReq.bytes (q : AtmReq) : Nat := if q.wide then 8 else 4

/-- An atomic or a store of a context on its way to its home meets n bytes at a place: a later access of the context to them
follows it (R214). -/
def State.atmsMeet (s : State) (uid : Nat) (p : Place) (n : Nat) : Bool :=
  match p with
  | .dram a => (s.net.atms.any fun q => q.open_ uid && q.addr < a + n && a < q.addr + q.bytes) ||
      s.net.stores.any fun q => q.uid == uid && q.addr < a + n && a < q.addr + q.bytes.length
  | _ => false

/-- The same for what a probe found. -/
def State.targetMet (s : State) (uid : Nat) (t : Target) (n : Nat) : Bool :=
  match t with
  | .mem _ p => s.atmsMeet uid p n
  | .sheet _ => false

/-- An earlier atomic request of a core has not reached the home of a place: an atomic that is performed at once waits for it,
as the networks keep their order (spec/12_engines_handlers.md R292). -/
def State.atmAhead (s : State) (core : Nat) (t : Target) : Bool :=
  match t with
  | .mem _ (.dram a) => s.net.atms.any fun q => q.src == core && q.reply.isNone && homeSlice q.addr == homeSlice a
  | _ => false

/-- Whom a store on its way acts for. -/
def State.storeWho (s : State) (q : PostedStore) : Who := { s.who q.hart with uid := q.uid, vi := q.vi, core := q.core, pc := q.pc }

def PostedStore.target (q : PostedStore) : Target := .mem q.xl (.dram q.addr)

/-- The k-th store on its way is performed at its home, or lost on a link that it has not passed (spec/12_engines_handlers.md
R298). -/
def State.performStore (s : State) (k : Nat) : State :=
  match s.net.stores[k]? with
  | none => s
  | some q =>
    let w := s.storeWho q
    let n := q.bytes.length
    let v := leNat q.bytes
    let s := { s with net := { s.net with stores := s.net.stores.eraseIdx k } }
    if q.past then s.putTarget w true q.target n v none else s.writeTarget w true q.target n v none

/-- The stores of a context on their way are performed. -/
def State.landStores (s : State) (uid : Nat) : State :=
  (List.range s.net.stores.length).foldl (fun s _ => match s.net.stores.findIdx? fun q => q.uid == uid with
    | some k => s.performStore k
    | none => s) s

/-- An acquire of a scope by a hart of a core: scope DIE or wider empties the core's L1 data cache (R198). -/
def State.acquire (s : State) (core : Nat) (sc : BitVec 2) : State := if sc == 0 then s else s.dropL1 core

end Sys2Proof.Machine
end

