-- ==== Sys2Proof/Machine/Ops.lean ====
section
/-! DEFINITION. What every meaning is made of: completing an instruction (spec/05_scalar_isa.md R124), lookahead windows
(spec/02_encoding.md R54-R59), taking a trap (spec/18_traps.md R400-R403), trace records (spec/17_counters_debug.md R391)
and the checks before execution (spec/02_encoding.md Table 02.2). -/

namespace Sys2Proof.Machine

open Sys2Proof

/-! ## Completing an instruction -/

/-- The hart runs a trap handler. -/
def Hart.inHandler (x : Hart) : Bool := !x.frames.isEmpty

/-- The handler has not executed vclaim: the vector unit is frozen (spec/18_traps.md R405). -/
def Hart.frozen (x : Hart) : Bool :=
  match x.frames with
  | [] => false
  | f :: _ => !f.claimed

/-- A loop is active: LCNT ≠ 0, and not suspended by a trap (R124, spec/18_traps.md R406). -/
def Hart.loopActive (x : Hart) : Bool := x.core.loop.lcnt != 0 && !x.frozen

/-- The state in which the hart runs on: RUNNING, or TRAPPED in a handler. -/
def Hart.runSt (x : Hart) : HState := if x.inHandler then .trapped else .running

/-- The hart runs on. -/
def Hart.resume (x : Hart) : Hart := x.setSt x.runSt

/-- The pc moves past an instruction, or by the step of R124 at LEND − 16. -/
def Hart.advance (x : Hart) : Hart :=
  let l := x.core.loop
  if x.loopActive && x.core.pc == l.lend - 16 then
    let n := l.lcnt - 1
    { x with core := { x.core with loop := { l with lcnt := n }, pc := if n == 0 then l.lend else l.lpc } }
  else { x with core := { x.core with pc := x.core.pc + 16 } }

/-- The pc moves to a target. -/
def Hart.goto (x : Hart) (t : Word) : Hart := { x with core := { x.core with pc := t } }

/-- An instruction has completed: INSTRET counts it outside a handler (spec/17_counters_debug.md R386), a single step
asks for its stop (R396), and the hart runs on. -/
def Hart.retire (x : Hart) : Hart :=
  let x := { x.resume with counted := false }
  let x := if x.inHandler then x
    else { x with sys := { x.sys with time := { x.sys.time with instret := x.sys.time.instret + 1 } } }
  if x.irq.stepArmed && x.irq.stepReg && !x.inHandler then
    { x with irq := { x.irq with stop := true, stepArmed := false } }
  else x

/-- Event 0x02: the instruction of a hart completes outside a trap handler, as INSTRET counts it (spec/17_counters_debug.md
Table 17.4, R386). -/
def State.countDone (s : State) (h : Nat) (x : Hart) : State :=
  if x.inHandler then s else s.countEvent (coreOf h) x.who.vi 2 1

/-- An instruction that a hart has completed is to be done again: INSTRET and event 0x02 count it once. -/
def State.undone (s : State) (h : Nat) (instret : Word) : State :=
  let x := s.hart h
  (s.countEvent (coreOf h) x.who.vi 2 (instret - x.sys.time.instret).toNat).modHart h fun y =>
    { y with sys := { y.sys with time := { y.sys.time with instret := instret } } }

/-- The instruction of the current hart completes with this change of the hart, at the next instruction. -/
def State.done (s : State) (f : Hart → Hart) : Out :=
  .next ((s.modMe fun x => (f x).advance.retire).countDone s.cur s.me)

/-- The instruction of the current hart completes and continues at a target. -/
def State.doneAt (s : State) (t : Word) (f : Hart → Hart) : Out :=
  .next ((s.modMe fun x => ((f x).goto t).retire).countDone s.cur s.me)

/-- The instruction waits with the hart RUNNING: nothing changes. -/
def State.stall (s : State) : Out := .next s

/-- The instruction waits with the hart WAITING, and is tried again at the hart's turn. -/
def State.waitPoll (s : State) : Out := .next (s.modMe fun x => x.setSt (.waiting .poll))

/-! ## Trace records -/

/-- A record of Table 17.6 for a hart, with its last three words, when its VI traces the core and the kind. -/
def State.putRec (s : State) (h kind : Nat) (pc info elem data : Word) (tail : List Nat) : State :=
  let x := s.hart h
  let v := x.who.vi.toNat
  match (s.vi v).trace with
  | none => s
  | some t =>
    let c := coreOf h
    if !(t.cores.contains c && t.kinds.getLsbD kind) then s else
      let seq := (s.core c).recSeq
      let s := s.modCore c fun y => { y with recSeq := y.recSeq + 1 }
      let ws := [kind + h * 2 ^ 19 + seq.toNat * 2 ^ 32, pc.toNat, info.toNat % 2 ^ 32 + elem.toNat % 2 ^ 16 * 2 ^ 32,
                 x.sys.time.cycle.toNat, data.toNat] ++ tail
      let at_ := t.buf + BitVec.ofNat 64 (64 + t.widx.toNat % (2 ^ t.logb - 64))
      match s.bufWrite t.owner at_ ((ws.map (leBytes 8)).flatten) with
      | none => s.draw.2
      | some s =>
        let n := t.widx + 64
        match s.bufWrite t.owner t.buf (leBytes 8 n.toNat) with
        | none => s.draw.2
        | some s => s.modVi v fun y => { y with trace := some { t with widx := n } }

/-- The VI of a hart traces its core and a kind. -/
def State.traces (s : State) (h kind : Nat) : Bool := match (s.vi (s.hart h).who.vi.toNat).trace with
  | none => false
  | some t => t.cores.contains (coreOf h) && t.kinds.getLsbD kind

/-- A record is created, unless the core's writer lacks bandwidth; the records lost for want of it are told in a LOST record
before the next one (Table 17.7). -/
def State.traceRec (s : State) (h kind : Nat) (pc info elem data : Word) (tail : List Nat) : State :=
  if !s.traces h kind then s else
  let c := coreOf h
  if (s.core c).busyWriter then s.modCore c fun y => { y with lost := y.lost + 1 } else
  let s := if (s.core c).lost != 0 && s.traces h 0x0F then
      (s.putRec h 0x0F 0 0 0 (s.core c).lost [0, 0, 0]).modCore c fun y => { y with lost := 0 }
    else s
  s.putRec h kind pc info elem data tail

/-- A record of a kind with no sample words. -/
def State.trace (s : State) (h kind : Nat) (pc info data : Word) : State := s.traceRec h kind pc info 0 data [0, 0, 0]

/-! ## Lookahead windows -/

/-- An element that a window writes. -/
def VState.landV (v : VState) (w : VWrite) : VState :=
  let v := v.setReg w.reg (regPut (v.reg w.reg) w.bit w.width w.value)
  if v.vPoison.isEmpty && w.poison.isNone then v else
    { v with vPoison := (List.range ((w.width + 7) / 8)).foldl (fun t k => tput t (w.reg * 2048 + w.bit / 8 + k) w.poison) v.vPoison }

/-- A g result lands. The error of a result that goes to g0 is left to be reported (R58); the first that is not reported
yet stays (notes/assumptions/127.md). -/
def Hart.landG (x : Hart) (r : Reg) (v : Word) (p : Option Poison) : Hart :=
  if r = 0 then { x with pendErr := x.pendErr <|> p } else x.putG r v p

/-- The results of a window land, in a hart; an error that it has kept is left to be reported. -/
def Hart.land (x : Hart) (w : Window) : Hart :=
  let x := w.gw.foldl (fun x g => x.landG g.1 g.2.1 g.2.2) x
  let x := if w.vw.isEmpty then x else x.modVs fun v => w.vw.foldl VState.landV v
  let x := x.raise w.fl
  if w.err.isNone then x else { x with pendErr := x.pendErr <|> w.err }

/-- Every open window completes; none: one of them still waits for a reply. -/
def Hart.landAll (x : Hart) : Option Hart :=
  if x.windows.isEmpty then some x
  else if x.windows.all fun w => w.await == .nothing then
    some { x.windows.foldl Hart.land x with windows := [] }
  else none

/-- Before an instruction issues, the windows that have let all their instructions issue complete (R55); none: one of them
still waits. The count of each window that stays falls by 1. -/
def Hart.openIssue (x : Hart) : Option Hart :=
  if x.windows.isEmpty then some x
  else
    let due := x.windows.filter fun w => w.left == 0
    if due.all fun w => w.await == .nothing then
      let x := { due.foldl Hart.land x with windows := x.windows.filter fun w => w.left != 0 }
      some { x with windows := x.windows.map fun w => { w with left := w.left - 1 } }
    else none

/-- Windows of instructions that set VFLAGS complete (spec/05_scalar_isa.md R120); none: one of them still waits. -/
def Hart.landFlags (x : Hart) : Option Hart :=
  let due := x.windows.filter fun w => w.sets
  if due.all fun w => w.await == .nothing then
    some { due.foldl Hart.land x with windows := x.windows.filter fun w => !w.sets }
  else none

/-- Windows of accesses complete (spec/10_memory_isa.md R245); none: one of them still waits. -/
def Hart.landAccess (x : Hart) : Option Hart :=
  let due := x.windows.filter fun w => w.acc
  if due.all fun w => w.await == .nothing then
    some { due.foldl Hart.land x with windows := x.windows.filter fun w => !w.acc }
  else none

/-- A long-latency instruction's results: written at once with LA = 0, and otherwise when its window closes. -/
def State.doneLa (s : State) (la : BitVec 4) (gw : List (Reg × Word × Option Poison)) (vw : List VWrite) (fl : Flags)
    (f : Hart → Hart) (sets : Bool := false) (acc : Bool := true) : Out :=
  s.done fun x =>
    let w : Window := { pc := x.core.pc, left := la.toNat, gw := gw, vw := vw, fl := fl, await := .nothing, sets := sets,
                        acc := acc }
    let x := f x
    if la == 0 then x.land w else { x with windows := x.windows ++ [w] }

/-- An atomic's results: its home returns them once every RDC copy of its lines has been invalidated
(spec/08_memories.md R203). -/
def State.doneAcks (s : State) (la : BitVec 4) (lines : List Nat) (gw : List (Reg × Word × Option Poison)) (vw : List VWrite)
    (f : Hart → Hart) : Out :=
  if s.net.invals.any fun i => lines.contains i.line then
    s.done fun x =>
      let w : Window := { pc := x.core.pc, left := la.toNat, gw := gw, vw := vw, fl := 0, await := .acks lines }
      let x := f x
      { x with windows := x.windows ++ [w] }
  else s.doneLa la gw vw 0 f

/-- A long-latency instruction that waits for a reply: its window stays open until the reply arrives. -/
def State.doneAwait (s : State) (la : BitVec 4) (aw : Await) (f : Hart → Hart) (acq : Bool := false)
    (vw : List VWrite := []) (acc : Bool := true) : Out :=
  s.done fun x =>
    let w : Window := { pc := x.core.pc, left := la.toNat, gw := [], vw := vw, fl := 0, await := aw, acq := acq, acc := acc }
    let x := f x
    { x with windows := x.windows ++ [w] }

/-- What a window awaits has come, with these results. -/
def Hart.answer (x : Hart) (aw : Await) (gw : List (Reg × Word × Option Poison)) : Hart :=
  { x with windows := x.windows.map fun w => if w.await == aw then { w with await := .nothing, gw := gw } else w }

/-! ## Instructions that wait for a place (spec/01_machine.md Table 01.4) -/

/-- The hart still runs the context that a packet is for. -/
def State.isFor (s : State) (h uid : Nat) : Bool := (s.hart h).who.uid == uid && (s.hart h).core.st != .free

/-- The entry of a hart whose context still runs, or of a Pip core. -/
def State.entryLive (s : State) (e : Entry) : Bool := 8192 ≤ e.hart || s.isFor e.hart e.uid

/-- What waits joins the others behind them. -/
def State.addEntry (s : State) (e : Entry) : State :=
  { s with net := { s.net with entries := (s.net.entries.filter s.entryLive) ++ [e], arrivals := s.net.arrivals + 1 } }

/-- What waits is a copy or a seal. -/
def Entry.engine (e : Entry) : Bool := match e.post with
  | .copy _ _ | .seal _ => true
  | _ => false

/-- A copy or a seal of the hart waits for a place: what comes after it in the hart's queue waits behind it. -/
def State.engineWaits (s : State) (h : Nat) : Bool := s.net.entries.any fun e => e.hart == h && s.entryLive e && e.engine

/-- The instruction's window stays open until there is a place for what it hands over. -/
def State.doneEntry (s : State) (la : BitVec 4) (p : Post) (f : Hart → Hart := fun x => x) (acc : Bool := true)
    (acq : Bool := false) : Out :=
  let (id, s) := s.draw
  let e : Entry := { id := id, hart := s.cur, uid := s.me.who.uid, pc := s.me.core.pc, loop := s.me.core.loop, post := p }
  (s.addEntry e).doneAwait la (.entry id) f (acc := acc) (acq := acq)

/-! ## Traps (spec/18_traps.md) -/

/-- A trap about to be taken: cause, TVAL, TELEM, the missing pages with their overflow, the watch mask, and the failed
command that it reports. -/
structure TrapInfo where
  cause : Cause
  tval  : Word
  telem : Nat := 0
  pages : List Word := []
  wmask : Option EMask := none
  cap   : Option (Nat × Word) := none

/-- R401: TDELEG delegates the cause; ECALL_S, PREEMPT and a stop never are. -/
def Hart.delegates (x : Hart) (c : Cause) (stop : Bool) : Bool :=
  !stop && c != .ecallS && c != .preempt &&
    (if c.code < 0x40 then x.sys.tdeleg.getLsbD c.code else x.sys.tdeleg.getLsbD 63)

/-- The mode a trap goes to: S when delegated from mode U, or for an interrupt in a mode S handler; M otherwise. -/
def Hart.trapMode (x : Hart) (c : Cause) (intr stop : Bool) : Mode :=
  match x.core.mode with
  | .u => if x.delegates c stop then .s else .m
  | .s => if intr && x.delegates c stop then .s else .m
  | .m => .m

/-- BV, BSLOT and BPHASE of the hart's context: the barrier arrival that stands (R247). -/
def Hart.barrierWord (x : Hart) : Nat := match x.phases.find? fun p => p.depth == x.frames.length with
  | some p => 2 ^ 63 + p.slot.toNat * 2 ^ 48 + p.phase.toNat * 2 ^ 32
  | none => 0

/-- The fault fields of the save area (R410), stored for a hart of a core, and the barrier arrival that stands. -/
def State.writeFault (s : State) (core : Nat) (x : Hart) (t : TrapInfo) : State :=
    let base := x.sys.strap.tsave.toNat
    let np := min 16 t.pages.length
    let w0 := x.G * 256 + np * 2 ^ 16 + (if 16 < t.pages.length then 2 ^ 24 else 0)
    let s := s.areaWrite core x.who.uid base (leBytes 8 w0)
    let s := s.areaWrite core x.who.uid (base + 0x40) (leBytes 8 x.barrierWord)
    let s := s.areaWrite core x.who.uid (base + 0x80) (((t.pages.take 16).map fun p => leBytes 8 p.toNat).flatten)
    match t.wmask with
    | some m => s.areaWrite core x.who.uid (base + 0x1800) (leBytes 2048 m.toNat)
    | none => s

/-- The trap registers of an entry (R403). -/
def TrapSet.enter (r : TrapSet) (t : TrapInfo) (pc : Word) (mo : Mode) : TrapSet :=
  { r with tcause := BitVec.ofNat 8 t.cause.code, tpc := pc, tval := t.tval, telem := BitVec.ofNat 16 t.telem, pmode := mo,
           ie := false }

/-- A member that has completed the gang's current instruction, which stored nothing, is before it again, with its registers
and windows (notes/assumptions/128.md). -/
def Hart.goBefore (x : Hart) (b : Before) : Hart := { x with core := b.core, windows := b.windows, fetched := [], counted := false }

/-- A member of a gang that is dissolved: what its core's sequencer has charged for an instruction that has not issued is given
back. -/
def State.leaveGang (s : State) (g : Gang) (k : Nat) : State :=
  let s := match g.granted.find? fun e => e.1 == k with
    | some e => s.modCore (coreOf k) fun c =>
        { c with deficit := tset c.deficit (s.hart k).who.queue.toNat (tget 0 c.deficit (s.hart k).who.queue.toNat + e.2) }
    | none => s
  let s := match g.before.find? fun b => b.hart == k with
    | some b => (s.undone k b.instret).modHart k fun y => y.goBefore b
    | none => s
  s.modHart k fun y => { y with gang := none }

/-- A gang a hart is in is dissolved: its members go on by themselves, each at the gang's current instruction (R33). -/
def State.dissolve (s : State) (h : Nat) : State :=
  match (s.hart h).gang with
  | none => s
  | some g => g.members.foldl (fun s k => s.leaveGang g k) s

/-- The gang of a hart completes an instruction: all members follow the leader, and none has begun the next. -/
def State.gangNext (s : State) (h : Nat) : State :=
  match (s.hart h).gang with
  | none => s
  | some g =>
    let l := (s.hart (g.members.headD h)).core
    g.members.foldl (fun s m => s.modHart m fun y =>
      { y with gang := some { g with finished := [], before := [], granted := [] },
               core := { y.core with pc := l.pc, loop := l.loop } }) s

/-- The open windows of some harts complete; none: one of them still waits for a reply. -/
def State.landHarts (s : State) : List Nat → Option State
  | [] => some s
  | k :: ks => match (s.hart k).landAll with
    | none => none
    | some x => (s.setHart k x).landHarts ks

/-- The gang of a hart, if it is in one, is dissolved, and the open windows of every member complete first
(spec/12_engines_handlers.md Table 12.3). none: one of them still waits. -/
def State.quitGang (s : State) (h : Nat) : Option State := (s.dissolve h).landHarts (match (s.hart h).gang with
  | none => [h]
  | some g => g.members)

/-- The hart leaves its gang, which is dissolved. -/
def State.alone (s : State) (k : State → Out) : Out :=
  match s.me.gang with
  | none => k s
  | some _ => match s.quitGang s.cur with
    | none => s.stall
    | some t => k t

/-- R403: a trap of a hart. Open windows complete first, and while one of them waits for a reply the trap waits; an error
pending under R58 is taken in the trap's place. clear says what an interrupt that is taken clears. -/
def State.takeTrap (s : State) (h : Nat) (t : TrapInfo) (intr stop : Bool) (clear : Irqs → Irqs) : State :=
  match s.quitGang h with
  | none => s
  | some s =>
    let x := s.hart h
    let err := x.pendErr
    let t := match err with
      | some p => { cause := p.cause.toCause, tval := p.addr }
      | none => t
    let intr := intr && err.isNone
    let x := { x with pendErr := none, irq := if err.isNone then clear x.irq else x.irq,
                      caps := x.caps.filter fun e => some e != t.cap }
    let mo := x.trapMode t.cause intr (stop && err.isNone)
    let pc := x.core.pc
    let s := (s.setHart h x).landPeers fun p => p.uid == x.who.uid
    let s := if mo == .s then s.writeFault (coreOf h) x t else s
    let s := if stop && err.isNone then s.traceRec h 3 pc 0 x.core.vs.vstart.toNat 0 [0, 0, 0] else s
    let s := s.traceRec h 1 pc (BitVec.ofNat 64 t.cause.code) (BitVec.ofNat 64 t.telem) t.tval [0, 0, 0]
    let f : Frame := { mode := mo, claimed := false, kept := none, rayTag := 0 }
    s.modHart h fun x =>
      let x := { x with frames := f :: x.frames, arrival := none, fetched := [], counted := false, inval := none }
      let sys := if mo == .s then { x.sys with strap := x.sys.strap.enter t pc x.core.mode }
                 else { x.sys with mtrap := x.sys.mtrap.enter t pc x.core.mode }
      let base := if mo == .s then sys.strap.tvec else sys.mtrap.tvec
      { x with sys := sys, core := { x.core with mode := mo, pc := base &&& ~~~ 15#64, st := .trapped } }

/-- A synchronous trap of the current hart. -/
def State.trapWith (s : State) (t : TrapInfo) : Out := .next (s.takeTrap s.cur t false false id)

def State.trap (s : State) (c : Cause) (tval : Word) : Out := s.trapWith { cause := c, tval := tval }

def State.trapAt (s : State) (c : Cause) (tval : Word) (e : Nat) : Out := s.trapWith { cause := c, tval := tval, telem := e }

/-! ## Checks before execution (Table 02.2) -/

/-- Bits [63:0] of an instruction's word: the TVAL of the decode checks. -/
def lowWord (i : Instr) : Word :=
  match encode i with
  | some w => w.setWidth 64
  | none => 0

/-- The instruction, with the modes, steppings and places that may run it checked by the caller, reads its source registers:
a poisoned one traps precisely (R58), and so does the status of a command that failed its capability
(spec/07_matrix_isa.md R180). -/
def State.withG (s : State) (rs : List Reg) (k : Hart → Out) : Out :=
  match s.me.gPoisonOf rs with
  | some p => s.trapAt p.cause.toCause p.addr 0
  | none =>
    match s.me.caps.find? fun c => rs.any fun r => r.toNat == c.1 with
    | some c => s.trapWith { cause := .matrixCap, tval := c.2, cap := some c }
    | none => k s.me

/-- Every earlier instruction of the hart completes first (R81, R136, R126); a window that waits for a reply makes the
instruction wait. -/
def State.drained (s : State) (k : State → Out) : Out :=
  match s.me.landAll with
  | none => s.stall
  | some x => k (s.setMe x)

end Sys2Proof.Machine
end

