-- ==== Sys2Proof/Machine/ScalarInt.lean ====
section
/-! DEFINITION. Class 0x0, scalar integer instructions (spec/05_scalar_isa.md R105-R110). -/

namespace Sys2Proof.Machine

open Sys2Proof

/-- An instruction that writes g[D] from its source registers. -/
def State.scalar (s : State) (d : Reg) (src : List Reg) (f : Hart → Word) : Out :=
  s.withG src fun x => s.done fun y => y.writeG d (f x)

/-- A long-latency instruction that writes g[D] from its source registers. -/
def State.scalarLa (s : State) (d : Reg) (la : BitVec 4) (src : List Reg) (f : Hart → Word) : Out :=
  s.withG src fun x => s.doneLa la [(d, f x, none)] [] 0 id (acc := false)

/-- A shift amount: bits [5:0]. -/
def shAmt (b : Word) : Nat := b.toNat % 64

def boolWord (b : Bool) : Word := if b then 1 else 0

/-- The number of leading zero bits of the low w bits, w for 0. -/
def leadingZeros (w n : Nat) : Nat := if n % 2 ^ w = 0 then w else w - 1 - Nat.log2 (n % 2 ^ w)

/-- The number of trailing zero bits of the low w bits, w for 0. -/
def trailingZeros (w n : Nat) : Nat := (findBelow (fun i => n.testBit i) w).getD w

/-- The number of 1 bits among the low w bits. -/
def popCount (w n : Nat) : Nat := ((List.range w).filter fun i => n.testBit i).length

/-- R109, Table 05.2: quotient and remainder of w bits, signed toward zero. -/
def divSigned (w a b : Nat) : Nat :=
  if b % 2 ^ w = 0 then 2 ^ w - 1 else ofSigned w ((toSigned w a).tdiv (toSigned w b))
def remSigned (w a b : Nat) : Nat :=
  if b % 2 ^ w = 0 then a % 2 ^ w else ofSigned w ((toSigned w a).tmod (toSigned w b))
def divUnsigned (w a b : Nat) : Nat := if b % 2 ^ w = 0 then 2 ^ w - 1 else (a % 2 ^ w) / (b % 2 ^ w)
def remUnsigned (w a b : Nat) : Nat := if b % 2 ^ w = 0 then a % 2 ^ w else (a % 2 ^ w) % (b % 2 ^ w)

/-- The bit field of R110. -/
def bitField (sg : Sign) (v : Word) (pos len : Nat) : Word :=
  let f := (v.toNat >>> pos) % 2 ^ len
  match sg with
  | .z => BitVec.ofNat 64 f
  | .s => BitVec.ofInt 64 (toSigned len f)

/-- The low len bits of v at pos of old (R110). -/
def bitInsert (old v : Word) (pos len : Nat) : Word :=
  let m := (2 ^ len - 1) <<< pos
  BitVec.ofNat 64 ((old.toNat &&& (2 ^ 64 - 1 - m)) ||| ((v.toNat % 2 ^ len) <<< pos))

/-- The bytes of a word in reverse order. -/
def byteSwap (v : Word) : Word := BitVec.ofNat 64 (leNat (leBytes 8 v.toNat).reverse)

/-- nop. -/
def execNop (s : State) : Out := s.done id

/-- li. -/
def execLi (d : Reg) (imm : Word) (s : State) : Out := s.scalar d [] fun _ => imm

/-- mov. -/
def execMov (d a : Reg) (s : State) : Out := s.scalar d [a] fun x => x.readG a

/-- add. -/
def execAdd (d a b : Reg) (s : State) : Out := s.scalar d [a, b] fun x => x.readG a + x.readG b

/-- addi. -/
def execAddi (d a : Reg) (imm : Word) (s : State) : Out := s.scalar d [a] fun x => x.readG a + imm

/-- sub. -/
def execSub (d a b : Reg) (s : State) : Out := s.scalar d [a, b] fun x => x.readG a - x.readG b

/-- mul. -/
def execMul (d a b : Reg) (s : State) : Out := s.scalar d [a, b] fun x => x.readG a * x.readG b

/-- mulh: bits [127:64] of the signed product. -/
def execMulh (d a b : Reg) (s : State) : Out := s.scalar d [a, b] fun x => BitVec.ofInt 64 ((x.readG a).toInt * (x.readG b).toInt / (2 ^ 64 : Nat))

/-- mulhz: bits [127:64] of the unsigned product. -/
def execMulhz (d a b : Reg) (s : State) : Out := s.scalar d [a, b] fun x => BitVec.ofNat 64 ((x.readG a).toNat * (x.readG b).toNat / 2 ^ 64)

/-- div (R109). -/
def execDiv (d a b : Reg) (la : BitVec 4) (s : State) : Out :=
  s.scalarLa d la [a, b] fun x => BitVec.ofNat 64 (divSigned 64 (x.readG a).toNat (x.readG b).toNat)

/-- divz (R109). -/
def execDivz (d a b : Reg) (la : BitVec 4) (s : State) : Out :=
  s.scalarLa d la [a, b] fun x => BitVec.ofNat 64 (divUnsigned 64 (x.readG a).toNat (x.readG b).toNat)

/-- rem (R109). -/
def execRem (d a b : Reg) (la : BitVec 4) (s : State) : Out :=
  s.scalarLa d la [a, b] fun x => BitVec.ofNat 64 (remSigned 64 (x.readG a).toNat (x.readG b).toNat)

/-- remz (R109). -/
def execRemz (d a b : Reg) (la : BitVec 4) (s : State) : Out :=
  s.scalarLa d la [a, b] fun x => BitVec.ofNat 64 (remUnsigned 64 (x.readG a).toNat (x.readG b).toNat)

/-- and. -/
def execAnd (d a b : Reg) (s : State) : Out := s.scalar d [a, b] fun x => x.readG a &&& x.readG b

/-- andi. -/
def execAndi (d a : Reg) (imm : Word) (s : State) : Out := s.scalar d [a] fun x => x.readG a &&& imm

/-- or. -/
def execOr (d a b : Reg) (s : State) : Out := s.scalar d [a, b] fun x => x.readG a ||| x.readG b

/-- ori. -/
def execOri (d a : Reg) (imm : Word) (s : State) : Out := s.scalar d [a] fun x => x.readG a ||| imm

/-- xor. -/
def execXor (d a b : Reg) (s : State) : Out := s.scalar d [a, b] fun x => x.readG a ^^^ x.readG b

/-- xori. -/
def execXori (d a : Reg) (imm : Word) (s : State) : Out := s.scalar d [a] fun x => x.readG a ^^^ imm

/-- andn. -/
def execAndn (d a b : Reg) (s : State) : Out := s.scalar d [a, b] fun x => x.readG a &&& ~~~ x.readG b

/-- shl. -/
def execShl (d a b : Reg) (s : State) : Out := s.scalar d [a, b] fun x => x.readG a <<< shAmt (x.readG b)

/-- shli. -/
def execShli (d a : Reg) (sh : BitVec 6) (s : State) : Out := s.scalar d [a] fun x => x.readG a <<< sh.toNat

/-- shr. -/
def execShr (d a b : Reg) (s : State) : Out := s.scalar d [a, b] fun x => x.readG a >>> shAmt (x.readG b)

/-- shri. -/
def execShri (d a : Reg) (sh : BitVec 6) (s : State) : Out := s.scalar d [a] fun x => x.readG a >>> sh.toNat

/-- sra. -/
def execSra (d a b : Reg) (s : State) : Out := s.scalar d [a, b] fun x => (x.readG a).sshiftRight (shAmt (x.readG b))

/-- srai. -/
def execSrai (d a : Reg) (sh : BitVec 6) (s : State) : Out :=
  s.scalar d [a] fun x => (x.readG a).sshiftRight sh.toNat

/-- rotl. -/
def execRotl (d a b : Reg) (s : State) : Out := s.scalar d [a, b] fun x => (x.readG a).rotateLeft (shAmt (x.readG b))

/-- rotr. -/
def execRotr (d a b : Reg) (s : State) : Out := s.scalar d [a, b] fun x => (x.readG a).rotateRight (shAmt (x.readG b))

/-- clz. -/
def execClz (d a : Reg) (s : State) : Out := s.scalar d [a] fun x => BitVec.ofNat 64 (leadingZeros 64 (x.readG a).toNat)

/-- ctz. -/
def execCtz (d a : Reg) (s : State) : Out := s.scalar d [a] fun x => BitVec.ofNat 64 (trailingZeros 64 (x.readG a).toNat)

/-- popc. -/
def execPopc (d a : Reg) (s : State) : Out := s.scalar d [a] fun x => BitVec.ofNat 64 (popCount 64 (x.readG a).toNat)

/-- min, signed. -/
def execMin (d a b : Reg) (s : State) : Out := s.scalar d [a, b] fun x => if (x.readG a).slt (x.readG b) then x.readG a else x.readG b

/-- max, signed. -/
def execMax (d a b : Reg) (s : State) : Out := s.scalar d [a, b] fun x => if (x.readG a).slt (x.readG b) then x.readG b else x.readG a

/-- umin. -/
def execUmin (d a b : Reg) (s : State) : Out := s.scalar d [a, b] fun x => if x.readG a < x.readG b then x.readG a else x.readG b

/-- umax. -/
def execUmax (d a b : Reg) (s : State) : Out := s.scalar d [a, b] fun x => if x.readG a < x.readG b then x.readG b else x.readG a

/-- slt. -/
def execSlt (d a b : Reg) (s : State) : Out := s.scalar d [a, b] fun x => boolWord ((x.readG a).slt (x.readG b))

/-- slo. -/
def execSlo (d a b : Reg) (s : State) : Out := s.scalar d [a, b] fun x => boolWord ((x.readG a).ult (x.readG b))

/-- seq. -/
def execSeq (d a b : Reg) (s : State) : Out := s.scalar d [a, b] fun x => boolWord (x.readG a == x.readG b)

/-- sel. -/
def execSel (d a b c : Reg) (s : State) : Out :=
  s.scalar d [a, b, c] fun x => if x.readG c == 0 then x.readG b else x.readG a

/-- sext (R110). -/
def execSext (d a : Reg) (n : BitVec 7) (s : State) : Out := s.scalar d [a] fun x => bitField .s (x.readG a) 0 n.toNat

/-- zext (R110). -/
def execZext (d a : Reg) (n : BitVec 7) (s : State) : Out := s.scalar d [a] fun x => bitField .z (x.readG a) 0 n.toNat

/-- bfx (R110). -/
def execBfx (sg : Sign) (d a : Reg) (pos : BitVec 6) (len : BitVec 7) (s : State) : Out :=
  s.scalar d [a] fun x => bitField sg (x.readG a) pos.toNat len.toNat

/-- bfi (R110): g[D] is a source. -/
def execBfi (d a : Reg) (pos : BitVec 6) (len : BitVec 7) (s : State) : Out :=
  s.scalar d [d, a] fun x => bitInsert (x.readG d) (x.readG a) pos.toNat len.toNat

/-- lea. -/
def execLea (d a b : Reg) (sh : BitVec 3) (imm : Word) (s : State) : Out :=
  s.scalar d [a, b] fun x => x.readG a + (x.readG b <<< sh.toNat) + imm

/-- bswap. -/
def execBswap (d a : Reg) (s : State) : Out := s.scalar d [a] fun x => byteSwap (x.readG a)

end Sys2Proof.Machine
end

