-- ==== Sys2Proof/Machine/ScalarFloat.lean ====
section
/-! DEFINITION. Class 0x1, scalar float instructions (spec/05_scalar_isa.md R111-R117). -/

namespace Sys2Proof.Machine

open Sys2Proof

/-- The low bits of g[r] that a format reads (spec/04_numbers.md R85). -/
def Hart.readF (x : Hart) (k : FpK) (r : Reg) : Nat := (x.readG r).toNat % 2 ^ k.width

/-- The mode of an instruction that rounds: VCFG.RM for the dynamic one (spec/02_encoding.md R45). -/
def Hart.rm (x : Hart) (f : RmF) : RMode := RMode.ofField f x.core.vs.cfg.rm

/-- An instruction that writes g[D] from its sources and raises flags. -/
def State.scalarF (s : State) (d : Reg) (src : List Reg) (f : Hart → Nat × Flags) : Out :=
  s.withG src fun x =>
    let r := f x
    s.done fun y => (y.writeG d (BitVec.ofNat 64 r.1)).raise r.2

/-- The same with a window: the flags come with the result. -/
def State.scalarFLa (s : State) (d : Reg) (la : BitVec 4) (src : List Reg) (f : Hart → Nat × Flags) : Out :=
  s.withG src fun x =>
    let r := f x
    s.doneLa la [(d, BitVec.ofNat 64 r.1, none)] [] r.2 id (acc := false)

/-- Signedness and width of an integer type (R115). -/
def intTy : IntTy → Bool × Nat
  | .s64 => (true, 64)
  | .u64 => (false, 64)
  | .s32 => (true, 32)
  | .u32 => (false, 32)

/-- fadd. -/
def execFadd (f : Fmt) (rm : RmF) (d a b : Reg) (s : State) : Out :=
  s.scalarF d [a, b] fun x => fAdd f.k (x.rm rm) (x.readF f.k a) (x.readF f.k b)

/-- fsub. -/
def execFsub (f : Fmt) (rm : RmF) (d a b : Reg) (s : State) : Out :=
  s.scalarF d [a, b] fun x => fSub f.k (x.rm rm) (x.readF f.k a) (x.readF f.k b)

/-- fmul. -/
def execFmul (f : Fmt) (rm : RmF) (d a b : Reg) (s : State) : Out :=
  s.scalarF d [a, b] fun x => fMul f.k (x.rm rm) (x.readF f.k a) (x.readF f.k b)

/-- fma: A × B + C. -/
def execFma (f : Fmt) (rm : RmF) (d a b c : Reg) (s : State) : Out :=
  s.scalarF d [a, b, c] fun x => fFma f.k (x.rm rm) false false (x.readF f.k a) (x.readF f.k b) (x.readF f.k c)

/-- fms: A × B − C. -/
def execFms (f : Fmt) (rm : RmF) (d a b c : Reg) (s : State) : Out :=
  s.scalarF d [a, b, c] fun x => fFma f.k (x.rm rm) false true (x.readF f.k a) (x.readF f.k b) (x.readF f.k c)

/-- fnma: −(A × B) + C. -/
def execFnma (f : Fmt) (rm : RmF) (d a b c : Reg) (s : State) : Out :=
  s.scalarF d [a, b, c] fun x => fFma f.k (x.rm rm) true false (x.readF f.k a) (x.readF f.k b) (x.readF f.k c)

/-- fdiv. -/
def execFdiv (f : Fmt) (rm : RmF) (d a b : Reg) (la : BitVec 4) (s : State) : Out :=
  s.scalarFLa d la [a, b] fun x => fDiv f.k (x.rm rm) (x.readF f.k a) (x.readF f.k b)

/-- fsqrt. -/
def execFsqrt (f : Fmt) (rm : RmF) (d a : Reg) (la : BitVec 4) (s : State) : Out :=
  s.scalarFLa d la [a] fun x => fSqrt f.k (x.rm rm) (x.readF f.k a)

/-- fmin (R113). -/
def execFmin (f : Fmt) (d a b : Reg) (s : State) : Out :=
  s.scalarF d [a, b] fun x => fMinMax f.k false (x.readF f.k a) (x.readF f.k b)

/-- fmax (R113). -/
def execFmax (f : Fmt) (d a b : Reg) (s : State) : Out :=
  s.scalarF d [a, b] fun x => fMinMax f.k true (x.readF f.k a) (x.readF f.k b)

/-- fcmp (R114): a true result is 64 one bits, which is how 'writes 1 or 0 to all 64 bits' is read
(notes/assumptions/132.md). -/
def execFcmp (f : Fmt) (k : FCond) (d a b : Reg) (s : State) : Out :=
  s.scalarF d [a, b] fun x =>
    let r := fCmp f.k k (x.readF f.k a) (x.readF f.k b)
    (if r.1 then 2 ^ 64 - 1 else 0, r.2)

/-- fcvt (R115). -/
def execFcvt (f : Fmt) (rm : RmF) (sf : Fmt) (d a : Reg) (s : State) : Out :=
  s.scalarF d [a] fun x => fCvt f.k sf.k (x.rm rm) (x.readF sf.k a)

/-- fcvti (R115): a 32-bit result is sign- or zero-extended by its type. -/
def execFcvti (f : Fmt) (rm : RmF) (ty : IntTy) (d a : Reg) (s : State) : Out :=
  s.scalarF d [a] fun x =>
    let r := fToInt f.k (x.rm rm) (intTy ty).1 (intTy ty).2 (x.readF f.k a)
    (ofSigned 64 r.1, r.2)

/-- icvtf (R115). -/
def execIcvtf (f : Fmt) (rm : RmF) (ty : IntTy) (d a : Reg) (s : State) : Out :=
  s.scalarF d [a] fun x =>
    let n := (x.readG a).toNat % 2 ^ (intTy ty).2
    intToF f.k (x.rm rm) (if (intTy ty).1 then toSigned (intTy ty).2 n else n)

/-- fclass (R116). -/
def execFclass (f : Fmt) (d a : Reg) (s : State) : Out :=
  s.scalarF d [a] fun x => (fClass f.k (x.readF f.k a), 0)

/-- fsgn (R117). -/
def execFsgn (f : Fmt) (k : SgnOp) (d a b : Reg) (s : State) : Out :=
  s.scalarF d [a, b] fun x => (fSgn f.k k (x.readF f.k a) (x.readF f.k b), 0)

/-- frnd. -/
def execFrnd (f : Fmt) (rm : RmF) (d a : Reg) (s : State) : Out :=
  s.scalarF d [a] fun x => fRnd f.k (x.rm rm) (x.readF f.k a)

end Sys2Proof.Machine
end

