-- ==== Sys2Proof/Machine/Control.lean ====
section
/-! DEFINITION. Class 0x2 without exit: jumps, branches, call, return and the zero-overhead loop
(spec/05_scalar_isa.md R118-R125). -/

namespace Sys2Proof.Machine

open Sys2Proof

/-- R125: while a loop is active, a class 0x2 instruction raises RSVD_FIELD. -/
def State.noLoop (s : State) (i : Instr) (k : Out) : Out := if s.me.loopActive then s.trap .rsvdField (lowWord i) else k

/-- R405, R406: PRIV in a trap handler before vclaim. -/
def State.claimedOnly (s : State) (i : Instr) (k : Out) : Out := if s.me.frozen then s.trap .priv (lowWord i) else k

/-- A taken branch: the target must be 16-byte aligned (R47). -/
def State.branchTo (s : State) (t : Word) (f : Hart → Hart) : Out :=
  if t.toNat % 16 ≠ 0 then s.trap .ifetchAlign t
  else (s.trace s.cur 8 s.me.core.pc 0 t).doneAt t f

/-- jmp. -/
def execJmp (imm : Word) (s : State) : Out := s.noLoop (.jmp imm) (s.branchTo (s.me.core.pc + imm) id)

/-- jr. -/
def execJr (a : Reg) (imm : Word) (s : State) : Out :=
  s.noLoop (.jr a imm) (s.withG [a] fun x => s.branchTo (x.readG a + imm) id)

/-- A conditional branch on a test of the hart. -/
def State.branchIf (s : State) (i : Instr) (src : List Reg) (imm : Word) (p : Hart → Bool) : Out :=
  s.noLoop i (s.withG src fun x => if p x then s.branchTo (x.core.pc + imm) id else s.done id)

/-- The conditions of Table 05.5. -/
def condHolds (k : Cond) (a b : Word) : Bool :=
  match k with
  | .eq => a == b
  | .ne => a != b
  | .lt => a.slt b
  | .ge => !a.slt b
  | .lo => a.ult b
  | .hs => !a.ult b

/-- br. -/
def execBr (k : Cond) (a b : Reg) (imm : Word) (s : State) : Out :=
  s.branchIf (.br k a b imm) [a, b] imm fun x => condHolds k (x.readG a) (x.readG b)

/-- bz. -/
def execBz (a : Reg) (imm : Word) (s : State) : Out := s.branchIf (.bz a imm) [a] imm fun x => x.readG a == 0

/-- bnz. -/
def execBnz (a : Reg) (imm : Word) (s : State) : Out := s.branchIf (.bnz a imm) [a] imm fun x => x.readG a != 0

/-- The conditions of bvf (Table 05.5). -/
def vfHolds (k : VfCond) (f : VFlags) : Bool :=
  match k with
  | .none => f.n
  | .some => f.s
  | .all => f.a
  | .notall => !f.a

/-- bvf (R120): earlier instructions that set VFLAGS have completed. -/
def execBvf (k : VfCond) (imm : Word) (s : State) : Out :=
  s.claimedOnly (.bvf k imm) (s.noLoop (.bvf k imm) (match s.me.landFlags with
    | none => s.stall
    | some x => (s.setMe x).branchIf (.bvf k imm) [] imm fun x => vfHolds k x.core.vs.flags))

/-- The vector-state word (Table 05.6). -/
def VState.stackWord (v : VState) : Word :=
  BitVec.ofNat 64 (v.cfg.vl.toNat + v.cfg.ew.code * 2 ^ 16 + v.cfg.grp.toNat * 2 ^ 18 + v.cfg.sc.toNat * 2 ^ 20 +
    v.cfg.rm.code * 2 ^ 22 + v.mstack.length * 2 ^ 32)

/-- The data-space probe of two 8-byte parts of the stack, in order. -/
def State.probeStack (s : State) (k : AKind) (sp : Word) : Except MemFault (Target × Target) × State :=
  let w := s.who s.cur
  let (r, memo, s) := s.probeIn w k sp 8 {}
  match r with
  | .error e => (.error e, s)
  | .ok t =>
    let (r2, _, s) := s.probeIn w k (sp + 8) 8 memo
    match r2 with
    | .error e => (.error e, s)
    | .ok t2 => (.ok (t, t2), s)

/-- call and callr (R122) with their target. -/
def State.callTo (s : State) (target : Word) : Out :=
  if target.toNat % 16 ≠ 0 then s.trap .ifetchAlign target else
  let x := s.me
  if 16 ≤ x.core.vs.mstack.length then s.trap .maskStack 16 else
  let sp := x.readG 63 - 16
  if sp.toNat % 16 ≠ 0 then s.trap .align sp else
  let (r, s) := s.probeStack .store sp
  match r with
  | .error (c, a) => s.trap c a
  | .ok (t1, t2) =>
    let w := s.who s.cur
    let s := (s.dirtyTarget w t1).dirtyTarget w t2
    let s := s.writeTarget w true t1 8 (x.core.pc + 16).toNat none
    let s := s.writeTarget w true t2 8 x.core.vs.stackWord.toNat none
    (s.trace s.cur 8 x.core.pc 0 target).doneAt target fun y =>
      (y.writeG 63 sp).modVs fun v => { v with mstack := v.em :: v.mstack }

/-- call. A poisoned g63 (for callr also g[A]) traps before the checks of R122, as registers are read first
(notes/assumptions/133.md). -/
def execCall (imm : Word) (s : State) : Out :=
  s.claimedOnly (.call imm) (s.noLoop (.call imm) (s.withG [63] fun x => s.callTo (x.core.pc + imm)))

/-- callr. -/
def execCallr (a : Reg) (imm : Word) (s : State) : Out :=
  s.claimedOnly (.callr a imm) (s.noLoop (.callr a imm) (s.withG [a, 63] fun x => s.callTo (x.readG a + imm)))

/-- The configuration a stack word restores (R123), its VL below the VLMAX of grant G. -/
def VCfg.ofStackWord (word : Word) (rm : RMode) (G : Nat) : VCfg :=
  let ew := Ew.ofBits (word.extractLsb' 16 2)
  let grp := word.extractLsb' 18 2
  { vl := BitVec.ofNat 16 (min (bitsOf word 15 0) (vlmaxAt G ew.width (grpOf grp))), rm := rm,
    sc := word.extractLsb' 20 2, grp := grp, ew := ew }

/-- ret (R123). -/
def execRet (s : State) : Out :=
  s.claimedOnly .ret (s.noLoop .ret (s.withG [63] fun x =>
    let sp := x.readG 63
    if sp.toNat % 16 ≠ 0 then s.trap .align sp else
    let (r, s) := s.probeStack .load sp
    match r with
    | .error (c, a) => s.trap c a
    | .ok (t1, t2) =>
      let w := s.whoBy s.cur [63]
      let ((ra, p1), s) := s.readTarget w true t1 8
      let ((wd, p2), s) := s.readTarget w true t2 8
      let ra := BitVec.ofNat 64 ra
      let word : Word := BitVec.ofNat 64 wd
      match p1, p2 with
      | some p, _ => s.trap p.cause.toCause sp
      | none, some p => s.trap p.cause.toCause (sp + 8)
      | none, none =>
        if ra.toNat % 16 ≠ 0 then s.trap .ifetchAlign ra else
        match RMode.ofNat? (bitsOf word 24 22) with
        | none => s.trap .rsvdField word
        | some rm =>
          if bitsOf word 63 40 ≠ 0 || bitsOf word 31 25 ≠ 0 then s.trap .rsvdField word else
          let m := bitsOf word 39 32
          let msp := x.core.vs.mstack.length
          if 15 < m || msp < m + 1 then s.trap .maskStack (BitVec.ofNat 64 msp) else
          (s.trace s.cur 8 x.core.pc 0 ra).doneAt ra fun y =>
            (y.writeG 63 (sp + 16)).modVs fun v =>
              { v with em := v.mstack.getD (msp - (m + 1)) 0, mstack := v.mstack.drop (msp - m),
                       cfg := VCfg.ofStackWord word rm y.G }))

/-- loop (R124). -/
def execLoop (a : Reg) (n : BitVec 4) (s : State) : Out :=
  s.claimedOnly (.loop a n) (s.noLoop (.loop a n) (s.withG [a] fun x =>
    let lpc := x.core.pc + 16
    let lend := lpc + BitVec.ofNat 64 (16 * n.toNat)
    let cnt := x.readG a
    s.doneAt (if cnt == 0 then lend else lpc) fun y =>
      { y with core := { y.core with loop := { lpc := lpc, lcnt := cnt, lend := lend } } }))

end Sys2Proof.Machine
end

