-- ==== Sys2Proof/Machine/CopyDesc.lean ====
section
/-! DEFINITION. The elements that a copy descriptor names (spec/12_engines_handlers.md R276-R278), and the blocks of lane memory
whose ownership they hold (spec/10_memory_isa.md R234). -/

namespace Sys2Proof.Machine

open Sys2Proof

/-- Bytes of an element. -/
def CopyDesc.z (d : CopyDesc) : Nat := 2 ^ d.esize

/-- Elements in all. -/
def CopyDesc.total (d : CopyDesc) : Nat := (d.counts.take d.ndim).foldl (· * ·) 1

/-- The sum of index × stride for element e, dimension 0 innermost. -/
def strideSum : List Nat → List Word → Nat → Word
  | c :: cs, s :: ss, e => BitVec.ofNat 64 (e % c) * s + strideSum cs ss (e / c)
  | _, _, _ => 0

def CopyDesc.srcAt (d : CopyDesc) (e : Nat) : Word := d.src + strideSum (d.counts.take d.ndim) d.sstrides e
def CopyDesc.dstAt (d : CopyDesc) (e : Nat) : Word := d.dst + strideSum (d.counts.take d.ndim) d.dstrides e

/-- What a side of a copy is: memory, the hart's lane memory, peer lane memory, or a register. -/
inductive Side where
  | va | own | peer | reg
  deriving DecidableEq, Repr

def CopyDesc.srcSide (d : CopyDesc) : Side :=
  if d.kind == 0 || d.kind == 2 || d.kind == 4 then .va else if d.kind == 5 then .reg else .own

def CopyDesc.dstSide (d : CopyDesc) : Side :=
  if d.kind == 0 then .own else if d.kind == 3 then .peer else if d.kind == 4 then .reg else .va

/-- A copy of the hart touches a block of a core's lane memory by an element that has not landed. -/
def Copy.touches (c : Copy) (h core block : Nat) : Bool :=
  let hit := fun (off : Nat) => off / 4096 == block || (off + c.desc.z - 1) / 4096 == block
  (List.range c.desc.total).any fun e => !c.landed.contains e &&
    ((c.desc.srcSide == .own && coreOf h == core && hit (c.desc.srcAt e).toNat) ||
     (c.desc.dstSide == .own && c.targets.any (fun t => coreOf t == core) && hit (c.desc.dstAt e).toNat) ||
     (c.desc.dstSide == .peer && (match peerAddr (c.desc.dstAt e) with
       | some (k, off) => k == core && hit off
       | none => false)))

/-- A probed access of a copy to a block is not performed yet, in a channel or waiting for one: a change of its ownership waits
(R234). -/
def State.copyUses (s : State) (core block : Nat) : Bool :=
  (s.harts.any fun (x : Nat × Hart) => x.2.eng.chans.toList.any fun ch => ch.copies.any fun c => c.touches x.1 core block) ||
    s.net.entries.any fun e => match e.post with
      | .copy _ c => c.touches e.hart core block
      | _ => false

/-- What a probe found is an ownership entry of a block with such an access: a write of it waits. -/
def State.ownerBusy (s : State) (t : Target) : Bool :=
  match t with
  | .mem _ (.window d off) => 0x200000 ≤ off && off < 0x220000 && (
      let c := d * 128 + (off - 0x200000) / 1024
      let b := off % 1024 / 4
      s.copyUses c b || s.copyUses c (b + 1))
  | _ => false

end Sys2Proof.Machine
end

