-- ==== Sys2Proof/Machine/ScalarMem.lean ====
section
/-! DEFINITION. Class 0x3, scalar accesses, atomics, cache control and pins (spec/10_memory_isa.md R227-R237). -/

namespace Sys2Proof.Machine

open Sys2Proof

/-- The bytes of a width code (R228). -/
def wBytes (w : BitVec 2) : Nat := 2 ^ w.toNat

/-- A loaded value extended to 64 bits (R228). -/
def extendLoad (w : BitVec 2) (sx : Bool) (v : Nat) : Word :=
  bitField (if sx then .s else .z) (BitVec.ofNat 64 v) 0 (8 * wBytes w)

/-- The bits of a register that a store of a width writes. -/
def storeBits (w : BitVec 2) (v : Word) : Nat := v.toNat % 2 ^ (8 * wBytes w)

/-- base of R227. -/
def Hart.base (x : Hart) (a b : Reg) (imm : Word) : Word := x.readG a + x.readG b + imm

/-! ## What a release and an acquire wait for and do -/

/-- Everything the hart did before is performed (R217): peer stores land and the atomics on their way have reached their homes;
at DEVICE and wider, the invalidations of RDC copies have been acknowledged. Until then the instruction waits. -/
def State.released (s : State) (sc : BitVec 2) (k : State → Out) : Out :=
  let u := s.me.who.uid
  let s := s.landPeers fun p => p.uid == u
  if s.atmsOpen u || (2 ≤ sc.toNat && !s.acked) then s.stall else k s

/-! ## Loads and stores -/

/-- Requests travel through switches (R295): the target is DRAM of class I, and no link on the way is down. -/
def State.travels (s : State) (xl : Xlat) (pa : Nat) : Bool :=
  s.net.congested && xl.idem && (s.crossing (dieOf s.cur) (dramDie pa)).isNone

/-- A load of the data space (R231); by_ names the registers that give its address. -/
def State.loadData (s : State) (w : BitVec 2) (sx : Bool) (d : Reg) (by_ : List Reg) (addr : Word) (la : BitVec 4)
    (after : State → State) : Out :=
  let n := wBytes w
  if addr.toNat % n ≠ 0 then s.trap .align addr else
  let me := s.whoBy s.cur by_
  let (r, s) := s.probe me .load addr n
  match r with
  | .error (c, a) => s.trap c a
  | .ok t =>
    if s.targetMet me.uid t n then s.stall else
    let ((v, p), s) := s.readTarget me true t n
    (after s).doneLa la [(d, extendLoad w sx v, p)] [] 0 id

/-- A number for a request in the networks. -/
def State.netId (s : State) : Nat × State := s.draw

/-- A store to the data space (R231). With the networks congested, one to DRAM is performed at its home later
(spec/09_consistency.md R216). -/
def State.storeData (s : State) (w : BitVec 2) (v : Word) (addr : Word) (la : BitVec 4) : Out :=
  let n := wBytes w
  if addr.toNat % n ≠ 0 then s.trap .align addr else
  let me := s.who s.cur
  let (r, s) := s.probe me .store addr n
  match r with
  | .error (c, a) => s.trap c a
  | .ok t =>
    if s.targetMet me.uid t n || s.ownerBusy t then s.stall else
    let s := s.dirtyTarget me t
    let here := fun (s : State) => (s.writeTarget me true t n (storeBits w v) none).doneLa la [] [] 0 id
    match t with
    | .mem xl (.dram pa) =>
      if s.travels xl pa then
        let (k, s) := s.netId
        let q : PostedStore := { id := k, hart := s.cur, uid := me.uid, vi := me.vi, pc := me.pc, core := me.core, xl := xl, addr := pa,
                                 bytes := leBytes n (storeBits w v) }
        ({ s with net := { s.net with stores := s.net.stores ++ [q] } }).doneLa la [] [] 0 id
      else here s
    | _ => here s

/-- ld. -/
def execLd (w : BitVec 2) (sx : Bool) (d a b : Reg) (imm : Word) (la : BitVec 4) (s : State) : Out :=
  s.withG [a, b] fun x => s.loadData w sx d [a, b] (x.base a b imm) la id

/-- st. -/
def execSt (w : BitVec 2) (d a b : Reg) (imm : Word) (la : BitVec 4) (s : State) : Out :=
  s.withG [d, a, b] fun x => s.storeData w (x.readG d) (x.base a b imm) la

/-- ld.acq: an acquire at its scope. -/
def execLdAcq (w : BitVec 2) (sx : Bool) (sc : BitVec 2) (d a b : Reg) (imm : Word) (la : BitVec 4) (s : State) : Out :=
  s.withG [a, b] fun x => s.loadData w sx d [a, b] (x.base a b imm) la fun s => s.acquire (coreOf s.cur) sc

/-- st.rel: performed after every earlier access of the hart. -/
def execStRel (w sc : BitVec 2) (d a b : Reg) (imm : Word) (la : BitVec 4) (s : State) : Out :=
  s.withG [d, a, b] fun x => s.released sc fun s => s.storeData w (x.readG d) (x.base a b imm) la

/-! ## Atomics (R232, R233) -/

/-- The new value of an atomic of n bytes (Table 10.2). -/
def amoNew (op : AmoOp) (n old x : Nat) : Nat :=
  let w := 8 * n
  let so := toSigned w old
  let sx := toSigned w x
  match op with
  | .add => (old + x) % 2 ^ w
  | .and => old &&& x
  | .or => old ||| x
  | .xor => old ^^^ x
  | .min => if sx < so then x else old
  | .max => if so < sx then x else old
  | .umin => min old x
  | .umax => max old x
  | .swap => x
  | .fadd => (fAdd .s .rne old x).1

/-- amo (R232). With the networks congested, a request to DRAM travels to its home by events (R295). -/
def execAmo (op : AmoOp) (w : BitVec 2) (cmb : Bool) (d a b : Reg) (sc : BitVec 2) (acq rel : Bool) (imm : Word)
    (la : BitVec 4) (s : State) : Out :=
  s.withG [a, b] fun x =>
    let n := wBytes w
    let addr := x.readG a + imm
    let v := storeBits w (x.readG b)
    if addr.toNat % n ≠ 0 then s.trap .align addr else
    let me := s.who s.cur
    let (r, s) := s.probe me .atomic addr n
    match r with
    | .error (c, e) => s.trap c e
    | .ok t =>
      if s.targetMet me.uid t n then s.stall else
      let s0 := s
      let go := fun (s : State) =>
        let s := s.dirtyTarget me t
        let here := fun (s : State) =>
          let ((old, p), s) := s.amoTarget me t n fun o => some (amoNew op n o v)
          (if acq then s.acquire (coreOf s.cur) sc else s).doneAcks la t.line [(d, BitVec.ofNat 64 old, p)] [] id
        match t with
        | .mem xl (.dram pa) =>
          if s.travels xl pa then
            let (id, s) := s.netId
            let q : AtmReq := { id := id, hart := s.cur, uid := me.uid, addr := pa, op := op, wide := n == 8,
                                x := BitVec.ofNat 64 v, scope := sc, cmb := cmb, dest := d, elems := [], src := coreOf s.cur,
                                acq := acq, xl := xl, absorbed := none, reply := none, pc := x.core.pc }
            ({ s with net := { s.net with atms := s.net.atms ++ [q] } }).doneAwait la (.atomic [id]) (fun y => y) acq
          else if s.atmAhead (coreOf s.cur) t then s0.stall else here s
        | _ => here s
      if rel then s.released sc go else go s

/-- cas (R233): a comparison that fails only reads, and releases nothing. -/
def execCas (w : BitVec 2) (d a b c : Reg) (sc : BitVec 2) (acq rel : Bool) (imm : Word) (la : BitVec 4) (s : State) : Out :=
  s.withG [a, b, c] fun x =>
    let n := wBytes w
    let addr := x.readG a + imm
    let want := storeBits w (x.readG b)
    let new := storeBits w (x.readG c)
    if addr.toNat % n ≠ 0 then s.trap .align addr else
    let me := s.who s.cur
    let (r, s) := s.probe me .atomic addr n
    match r with
    | .error (f, e) => s.trap f e
    | .ok t =>
      if s.targetMet me.uid t n || s.atmAhead (coreOf s.cur) t then s.stall else
      let go := fun (s : State) =>
        let s := s.dirtyTarget me t
        let ((old, p), s) := s.amoTarget me t n fun o => if o = want then some new else none
        (if acq then s.acquire (coreOf s.cur) sc else s).doneAcks la t.line [(d, BitVec.ofNat 64 old, p)] [] id
      if rel then s.released sc go else go s

/-! ## Peer and L-space forms (R234) -/

/-- ld.p. -/
def execLdP (w : BitVec 2) (sx : Bool) (d a b : Reg) (imm : Word) (la : BitVec 4) (s : State) : Out :=
  s.withG [a, b] fun x =>
    let addr := x.base a b imm
    let n := wBytes w
    if addr.toNat % n ≠ 0 then s.trap .align addr else
    match peerAddr addr with
    | none => s.trap .access addr
    | some (c, off) =>
      if !s.laneProbe c x.who.vi true off n then s.trap .access addr else
      let ((v, p), s) := s.readLane (s.who s.cur) c off n
      s.doneLa la [(d, extendLoad w sx v, p)] [] 0 id

/-- st.p: the store is on its way when the instruction has completed (R221). -/
def execStP (w : BitVec 2) (d a b : Reg) (imm : Word) (la : BitVec 4) (s : State) : Out :=
  s.withG [d, a, b] fun x =>
    let addr := x.base a b imm
    let n := wBytes w
    if addr.toNat % n ≠ 0 then s.trap .align addr else
    match peerAddr addr with
    | none => s.trap .access addr
    | some (c, off) =>
      if !s.laneProbe c x.who.vi true off n then s.trap .access addr else
      (s.sendPeer (s.who s.cur) c off n (storeBits w (x.readG d))).doneLa la [] [] 0 id

/-- ld.l. -/
def execLdL (w : BitVec 2) (sx : Bool) (d a b : Reg) (imm : Word) (la : BitVec 4) (s : State) : Out :=
  s.withG [a, b] fun x =>
    let addr := x.base a b imm
    let n := wBytes w
    if addr.toNat % n ≠ 0 then s.trap .align addr
    else if !s.laneProbe (coreOf s.cur) x.who.vi false addr.toNat n then s.trap .access addr
    else
      let ((v, p), s) := s.readLane (s.who s.cur) (coreOf s.cur) addr.toNat n
      s.doneLa la [(d, extendLoad w sx v, p)] [] 0 id

/-- st.l. -/
def execStL (w : BitVec 2) (d a b : Reg) (imm : Word) (la : BitVec 4) (s : State) : Out :=
  s.withG [d, a, b] fun x =>
    let addr := x.base a b imm
    let n := wBytes w
    if addr.toNat % n ≠ 0 then s.trap .align addr
    else if !s.laneProbe (coreOf s.cur) x.who.vi false addr.toNat n then s.trap .access addr
    else (s.writeLane (s.who s.cur) (coreOf s.cur) addr.toNat n (storeBits w (x.readG d)) none).doneLa la [] [] 0 id

/-! ## Cache control and pins (R235-R237) -/

/-- pf: a copy of the line of a class I cacheable DRAM page is fetched; anything else does nothing. -/
def execPf (l2 : Bool) (a b : Reg) (imm : Word) (la : BitVec 4) (s : State) : Out :=
  let x := s.me
  let s := if (x.gPoisonOf [a, b]).isSome then s else
    let addr := x.base a b imm
    if isSheet addr then s else
    let (r, s) := s.xlate (s.who s.cur) false .load addr
    match r with
    | .error _ => s
    | .ok xl =>
      let p := place (xl.page * 4096 + addr.toNat % 4096)
      if p.isDram && xl.idem && xl.cache && (s.crossing (dieOf s.cur) (p.die 0)).isNone then
        if l2 then (s.netRead (dieOf s.cur) xl p 1).2 else (s.l1Read (coreOf s.cur) x.who.vi false xl p 1).2
      else s
  s.doneLa la [] [] 0 id

/-- cflush and cinv: the line leaves the core's L1 and the die's RDC; memory keeps its value. -/
def State.dropLine (s : State) (a b : Reg) (imm : Word) (la : BitVec 4) : Out :=
  s.withG [a, b] fun x =>
    let addr := x.base a b imm
    if isSheet addr then
      let (c, s) := s.sheetProbe .load addr
      match c with
      | some c => s.trap c addr
      | none => s.doneLa la [] [] 0 id
    else
    let (r, s) := s.xlate (s.who s.cur) false .load addr
    match r with
    | .error c => s.trap c addr
    | .ok xl =>
      match place (xl.page * 4096 + addr.toNat % 4096) with
      | .dram pa =>
        if xl.idem then
          ((s.dropL1Line (coreOf s.cur) (.dram pa)).dropRdcLine (dieOf s.cur) (pa / 128)).doneLa la [] [] 0 id
        else s.doneLa la [] [] 0 id
      | _ => s.doneLa la [] [] 0 id

/-- cflush. -/
def execCflush (a b : Reg) (imm : Word) (la : BitVec 4) (s : State) : Out := s.dropLine a b imm la

/-- cinv. -/
def execCinv (a b : Reg) (imm : Word) (la : BitVec 4) (s : State) : Out := s.dropLine a b imm la

/-- The status of a pin request for a line (R207, Table 10.3), judged in the order of the table. -/
def State.pinStatus (s : State) (vi line : Nat) : Nat :=
  let others := s.phys.pins.filter fun p => p.1 != line
  let set := others.filter fun p => homeSlice (p.1 * 128) == homeSlice (line * 128) && l2Set (p.1 * 128) == l2Set (line * 128)
  let mine := others.filter fun p => p.2.vi == vi
  if 4 ≤ set.length then 1
  else if (s.vi vi).pinquota ≤ mine.length then 2
  else match tfind s.phys.pins line with
    | none => 0
    | some p => if p.vi != vi then 3 else if 15 ≤ p.count then 4 else 0

/-- The status of an unpin. -/
def State.unpinStatus (s : State) (vi line : Nat) : Nat :=
  match tfind s.phys.pins line with
  | none => 6
  | some p => if p.vi != vi then 3 else 0

/-- The pins with a line's count changed by one; a count of 0 ends the pin. -/
def Phys.repin (ph : Phys) (vi line : Nat) (up : Bool) : Phys :=
  let n := match tfind ph.pins line with
    | some p => p.count
    | none => 0
  let n := if up then n + 1 else n - 1
  { ph with pins := if n = 0 then tdel ph.pins line else tset ph.pins line { vi := vi, count := n } }

/-- cpin and cunpin: translated as a load; status 5 off class I cacheable DRAM (R237). -/
def State.pinLine (s : State) (up : Bool) (d a b : Reg) (imm : Word) (la : BitVec 4) : Out :=
  s.withG [a, b] fun x =>
    let addr := x.base a b imm
    let vi := x.who.vi.toNat
    let fin := fun (s : State) (st : Nat) => s.doneLa la [(d, BitVec.ofNat 64 st, none)] [] 0 id
    if isSheet addr then
      let (c, s) := s.sheetProbe .load addr
      match c with
      | some c => s.trap c addr
      | none => fin s 5
    else
    let (r, s) := s.xlate (s.who s.cur) false .load addr
    match r with
    | .error c => s.trap c addr
    | .ok xl =>
      match place (xl.page * 4096 + addr.toNat % 4096) with
      | .dram pa =>
        if !(xl.idem && xl.cache) then fin s 5 else
        let st := if up then s.pinStatus vi (pa / 128) else s.unpinStatus vi (pa / 128)
        if st = 0 then fin { s with phys := s.phys.repin vi (pa / 128) up } 0 else fin s st
      | _ => fin s 5

/-- cpin. -/
def execCpin (d a b : Reg) (imm : Word) (la : BitVec 4) (s : State) : Out := s.pinLine true d a b imm la

/-- cunpin. -/
def execCunpin (d a b : Reg) (imm : Word) (la : BitVec 4) (s : State) : Out := s.pinLine false d a b imm la

end Sys2Proof.Machine
end

