-- ==== Sys2Proof/Machine/Operands.lean ====
section
/-! DEFINITION. Operands of vector instructions (spec/06_vector_isa.md R127-R135): register groups and their checks, masks
and active elements, second operands by FORM, landed bits, streams (spec/12_engines_handlers.md R281-R284), and the
charge of an instruction in the vector unit (spec/11_queues_scheduling.md R265). -/

namespace Sys2Proof

/-- The vector register groups and g registers that a second operand names. -/
def VSrc.groups : VSrc → List Reg
  | .vec b => [b]
  | _ => []

def VSrc.scalars : VSrc → List Reg
  | .gpr b => [b]
  | _ => []

end Sys2Proof

namespace Sys2Proof.Machine

open Sys2Proof

/-! ## Register groups -/

/-- Registers of a group whose elements have width w (R128): 1 when p × w / EW is below 1. -/
def VCfg.groupSize (c : VCfg) (w : Nat) : Nat := max 1 (c.p * w / c.w)

/-- R46, R128: the register number is a multiple of the group size, which is at most 8. -/
def VCfg.aligned (c : VCfg) (n w : Nat) : Bool := c.groupSize w ≤ 8 && n % c.groupSize w == 0

/-- R129: the mask register group lies within v0-v63. -/
def VCfg.maskFits (c : VCfg) (n : Nat) : Bool := n + c.p ≤ 64

/-- The registers that a mask operand names. -/
def maskRegs : Mask → List Reg
  | .none => []
  | .on c => [c]
  | .off c => [c]

/-! ## Active elements -/

/-- Bit 0 of element i of a mask register group. -/
def Hart.maskBit (x : Hart) (c : Reg) (i : Nat) : Bool := x.elem c.toNat x.core.vs.cfg.w i % 2 == 1

/-- The mask operand admits element i. -/
def Hart.admits (x : Hart) (m : Mask) (i : Nat) : Bool :=
  match m with
  | .none => true
  | .on c => x.maskBit c i
  | .off c => !x.maskBit c i

/-- active(i): EM and the mask operand let it through (spec/00_scope.md Table 00.3). -/
def Hart.active (x : Hart) (m : Mask) (i : Nat) : Bool := x.core.vs.em.getLsbD i && x.admits m i

/-- VL and VSTART as numbers. -/
def Hart.vl (x : Hart) : Nat := x.core.vs.cfg.vl.toNat
def Hart.vstart (x : Hart) : Nat := x.core.vs.vstart.toNat

/-- Elements of one logical group: 1,024 / EW. -/
def VCfg.perGroup (c : VCfg) : Nat := 1024 / c.w

/-! ## The second operand (R130) -/

/-- b of element i at width w. -/
def Hart.second (x : Hart) (b : VSrc) (w i : Nat) : Nat :=
  match b with
  | .vec r => x.elem r.toNat w i
  | .gpr r => (x.readG r).toNat % 2 ^ w
  | .imm v => v.toNat % 2 ^ w

/-- R130: an integer immediate is an extension of its low w bits; a float immediate has zeros above them. -/
def immFits (float : Bool) (w : Nat) : VSrc → Bool
  | .imm v => v.toNat < 2 ^ w || (!float && 2 ^ 64 - 2 ^ (w - 1) ≤ v.toNat)
  | _ => true

/-! ## Landed bits (R281) -/

/-- The logical group that holds element i of width w of group n awaits a landing. -/
def Hart.unlanded (x : Hart) (n w i : Nat) : Bool :=
  let e := x.perReg w
  e != 0 && !x.core.vs.landed.getLsbD (16 * (n + i / e) + i % e / (1024 / w))

/-- Some element of a list (register, width, element) awaits a landing. -/
def Hart.awaits (x : Hart) (l : Hart → List (Nat × Nat × Nat)) : Bool :=
  x.core.vs.landed != BitVec.allOnes 1024 && (l x).any fun e => x.unlanded e.1 e.2.1 e.2.2

/-- Some logical group of the grant awaits a landing in some register. -/
def Hart.anyUnlanded (x : Hart) : Bool :=
  x.core.vs.landed != BitVec.allOnes 1024 &&
    (List.range 64).any fun n => (List.range x.G).any fun k => !x.core.vs.landed.getLsbD (16 * n + k)

/-! ## Charges -/

/-- A strip issued for an instruction of a hart: its core counts it and its queue is charged. -/
def State.chargeOf (s : State) (h beats : Nat) : State :=
  let c := coreOf h
  let x := s.hart h
  let q := x.who.queue.toNat
  let s := (s.countEvent c x.who.vi 3 1).countEvent c x.who.vi 4 beats
  s.modCore c fun y => { y with deficit := tset y.deficit q (tget 0 y.deficit q - beats) }

/-- A strip issued for an instruction of the current hart. -/
def State.charge (s : State) (beats : Nat) : State := s.chargeOf s.cur beats

/-- Element-beats of an instruction over [VSTART, VL) (R36, Table 11.6). -/
def Hart.beats (x : Hart) : Nat :=
  let per := x.core.vs.cfg.perGroup
  if x.vl ≤ x.vstart then 1
  else min x.G ((x.vl - 1) / per + 1 - x.vstart / per) * x.core.vs.cfg.p

/-! ## Streams (R283, R284) -/

/-- Bytes of one strip. -/
def Hart.stripBytes (x : Hart) : Nat := x.vl * x.core.vs.cfg.ew.bytes

/-- Every byte of the copy has landed. -/
def Copy.done (c : Copy) : Bool := c.count ≤ c.landed.length

/-- A copy queued on a channel can still supply, or take, bytes of a stream: the first of them, with the bytes that the buffer
now holds. -/
def Hart.streamLive (x : Hart) (ch : Nat) (b : Bind) : Bool :=
  match x.eng.chans.toList[ch]? with
  | none => false
  | some c => match c.copies.find? fun y => y.stream && !y.done && y.desc.kind == (if b.out then 5 else 4) with
    | none => false
    | some y => if b.out then 2 ^ y.desc.esize ≤ b.buf.length else b.buf.length + 2 ^ y.desc.esize ≤ 16384

/-- What becomes of an instruction's strips. -/
inductive StripVerdict where
  | ready
  | wait
  | fault (pos : Word)
  deriving DecidableEq, Repr

/-- The binding gives or takes a strip at this instruction: it names the register, and its strip was not taken already. -/
def Hart.stripDue (x : Hart) (rd wr : List Reg) (b : Bind) : Bool :=
  if b.out then wr.contains b.reg else rd.contains b.reg && !(b.open_ && b.taker == some x.core.pc)

/-- R284. -/
def Hart.stripVerdict (x : Hart) (rd wr : List Reg) : StripVerdict :=
  let n := x.stripBytes
  if n = 0 then .ready else
    x.core.vs.binds.foldl (fun v e =>
      match v with
      | .ready =>
        let b := e.2
        if !x.stripDue rd wr b then .ready
        else if (if b.out then b.buf.length + n ≤ 16384 else n ≤ b.buf.length) then .ready
        else if x.streamLive e.1 b then .wait else .fault b.pos
      | v => v) .ready

/-- The bytes of a strip placed in elements 0 to VL − 1. -/
def Hart.placeStrip (x : Hart) (n : Nat) (bs : List StreamByte) : Hart :=
  let w := x.core.vs.cfg.w
  let k := w / 8
  (List.range x.vl).foldl (fun y i =>
    let e := (bs.drop (i * k)).take k
    y.setElem n w i (leNat (e.map fun b => b.byte)) (e.findSome? fun b => b.poison)) x

/-- Strips taken for the sources. -/
def Hart.takeStrips (x : Hart) (rd : List Reg) : Hart :=
  let n := x.stripBytes
  if n = 0 || x.core.vs.binds.isEmpty then x else
    x.core.vs.binds.foldl (fun y e =>
      let b := e.2
      if b.out || !y.stripDue rd [] b then y else
        let y := y.placeStrip b.reg.toNat (b.buf.take n)
        let b := { b with buf := b.buf.drop n, pos := b.pos + BitVec.ofNat 64 n, taker := some y.core.pc, open_ := true }
        y.modVs fun v => { v with binds := tset v.binds e.1 b }) x

/-- The bytes of elements 0 to VL − 1 of a group. -/
def Hart.stripOf (x : Hart) (n : Nat) : List StreamByte :=
  let w := x.core.vs.cfg.w
  ((List.range x.vl).map fun i =>
    let p := x.elemPoison n w i
    (leBytes (w / 8) (x.elem n w i)).map fun b => ({ byte := b, poison := p } : StreamByte)).flatten

/-- Strips given for the destinations, when the instruction completes; the strips it took are used up. -/
def Hart.giveStrips (x : Hart) (wr : List Reg) : Hart :=
  if x.core.vs.binds.isEmpty then x else
    let n := x.stripBytes
    x.core.vs.binds.foldl (fun y e =>
      let b := e.2
      let b := if b.out && wr.contains b.reg && n != 0 then
          { b with buf := b.buf ++ y.stripOf b.reg.toNat, pos := b.pos + BitVec.ofNat 64 n }
        else { b with open_ := false }
      y.modVs fun v => { v with binds := tset v.binds e.1 b }) x

/-! ## Issue of a vector instruction -/

/-- The registers of a vector instruction: groups with element widths, which follow R46 and R128; register groups read as
masks (R129); registers read and written outside these rules; g registers; whether it takes and gives strips, and whether it
has no element range to be charged for. -/
structure VUse where
  rd     : List (Reg × Nat) := []
  wr     : List (Reg × Nat) := []
  masks  : List Reg := []
  raw    : List Reg := []
  also   : List Reg := []
  gs     : List Reg := []
  strips : Bool := true
  flat   : Bool := false

/-- Check 7 of Table 02.2. -/
def VUse.fits (u : VUse) (c : VCfg) : Bool :=
  (u.rd ++ u.wr).all (fun o => c.aligned o.1.toNat o.2) && u.masks.all fun m => c.maskFits m.toNat

def VUse.readRegs (u : VUse) : List Reg := u.rd.map Prod.fst ++ u.masks ++ u.raw
def VUse.writeRegs (u : VUse) : List Reg := u.wr.map Prod.fst ++ u.also

/-- A vector instruction up to its execution: the vector unit is not frozen (spec/18_traps.md R405), checks at issue, poisoned
g registers, landed bits of the elements that touch names, streams (a strip is taken whatever VSTART holds,
notes/assumptions/135.md); then it is charged, unless it has no element range, whose charge is the caller's. -/
def State.vector (s : State) (i : Instr) (u : VUse) (ok : Hart → Bool) (touch : Hart → List (Nat × Nat × Nat))
    (k : State → Out) : Out :=
  s.claimedOnly i (
    let x := s.me
    if !(u.fits x.core.vs.cfg && ok x) then s.trap .rsvdField (lowWord i) else
    s.withG u.gs fun x =>
      if x.awaits touch then s.waitPoll else
      match (if u.strips then x.stripVerdict u.readRegs u.writeRegs else .ready) with
      | .wait => s.stall
      | .fault pos => if s.engineWaits s.cur then s.stall else s.trap .access pos
      | .ready =>
        let s := if u.strips then s.modMe fun x => x.takeStrips u.readRegs else s
        k (if u.flat then s else s.charge x.beats))

/-- A vector instruction completes: VSTART := 0, strips are given. -/
def State.vdone (s : State) (u : VUse) (f : Hart → Hart) : Out :=
  s.done fun x =>
    let x := (f x).modVs fun v => { v with vstart := 0 }
    if u.strips then x.giveStrips u.writeRegs else x

/-- A vector instruction that gives no strip completes: VSTART := 0 (spec/03_registers.md Table 03.2). -/
def Hart.vend (x : Hart) : Hart := x.modVs fun v => { v with vstart := 0 }

/-- The write of element i of a group as a window keeps it. -/
def Hart.vwrite (x : Hart) (n w i v : Nat) (p : Option Poison) : VWrite :=
  let e := x.perReg w
  { reg := n + i / e, bit := i % e * w, width := w, value := v, poison := p }

/-- A vector instruction completes with these element writes and flags: at once when its window is empty or a stream takes
what it writes, and otherwise when its window closes. sets and acc are those of the window. -/
def State.vland (s : State) (u : VUse) (la : BitVec 4) (ws : List VWrite) (fl : Flags) (sets : Bool := false)
    (acc : Bool := true) : Out :=
  if la == 0 || s.me.core.vs.binds.any (fun b => b.2.out && u.writeRegs.contains b.2.reg) then
    s.vdone u fun y => (y.modVs fun v => ws.foldl VState.landV v).raise fl
  else
    s.doneLa la [] ws fl (sets := sets) (acc := acc) fun y =>
      let y := y.modVs fun v => { v with vstart := 0 }
      if u.strips then y.giveStrips [] else y

/-- The elements of masks that an instruction over [from, VL) reads. -/
def maskTouch (ms : List Reg) (start : Nat) (x : Hart) : List (Nat × Nat × Nat) :=
  ((List.range x.vl).filter fun i => start ≤ i && x.core.vs.em.getLsbD i).flatMap fun i =>
    ms.map fun m => (m.toNat, x.core.vs.cfg.w, i)

/-! ## Kind E (R131, R132) -/

/-- An elementwise instruction: its destination with its width, the mask that gates it, the elements that an active
element reads, and its result from the registers as the elements before it have left them. -/
structure EOp where
  d    : Reg
  dw   : Nat
  mask : Mask
  src  : List (Reg × Nat)
  f    : Hart → Nat → Nat × Flags

/-- A strip under way: the hart, the flags, the hart and flags at the last multiple of 1,024/EW, the writes, and the
poisoned element that stopped it. -/
structure ERun where
  x    : Hart
  fl   : Flags
  at_  : Nat
  x0   : Hart
  fl0  : Flags
  ws   : List (Nat × Nat)
  stop : Option (Nat × Poison)

/-- The poison that element i reads: its mask bits where EM is set, its sources when it is active. -/
def EOp.poison (e : EOp) (x : Hart) (i : Nat) : Option Poison :=
  if x.core.vs.vPoison.isEmpty || !x.core.vs.em.getLsbD i then none else
    match (maskRegs e.mask).findSome? fun c => x.elemPoison c.toNat x.core.vs.cfg.w i with
    | some p => some p
    | none => if x.active e.mask i then e.src.findSome? fun o => x.elemPoison o.1.toNat o.2 i else none

/-- Element i. -/
def EOp.element (e : EOp) (r : ERun) (i : Nat) : ERun :=
  if r.stop.isSome then r else
    let r := if i % r.x.core.vs.cfg.perGroup = 0 then { r with at_ := i, x0 := r.x, fl0 := r.fl } else r
    match e.poison r.x i with
    | some p => { r with stop := some (i, p) }
    | none =>
      if r.x.active e.mask i then
        let v := e.f r.x i
        { r with x := r.x.setElem e.d.toNat e.dw i v.1 none, fl := r.fl ||| v.2, ws := (i, v.1) :: r.ws }
      else r

/-- Elements VSTART to n − 1. -/
def EOp.run (e : EOp) (x : Hart) (n : Nat) : ERun :=
  (List.range' x.vstart (n - x.vstart)).foldl e.element
    { x := x, fl := 0, at_ := x.vstart / x.core.vs.cfg.perGroup * x.core.vs.cfg.perGroup, x0 := x, fl0 := 0, ws := [],
      stop := none }

/-- Where an interrupt that is about to be taken stops the instruction part-way (R132, spec/10_memory_isa.md R241). -/
def Hart.splitAt (x : Hart) : Option Nat :=
  match x.irq.split with
  | some b => if b % x.core.vs.cfg.perGroup = 0 && x.vstart < b && b < x.vl then some b else none
  | none => none

/-- An instruction stopped part-way: it runs again from element b. -/
def Hart.stopAt (x : Hart) (b : Nat) : Hart :=
  { x.modVs (fun v => { v with vstart := BitVec.ofNat 16 b }) with irq := { x.irq with split := none } }

/-- The elements that the instruction reads and writes. -/
def EOp.touch (e : EOp) (x : Hart) : List (Nat × Nat × Nat) :=
  maskTouch (maskRegs e.mask) x.vstart x ++
    ((List.range x.vl).filter fun i => x.vstart ≤ i && x.active e.mask i).flatMap fun i =>
      (e.d.toNat, e.dw, i) :: e.src.map fun o => (o.1.toNat, o.2, i)

/-- A kind E instruction: u names its operands, la its window; with a window it is never split (R132). Results go into a window
only when no stream takes them. -/
def State.elementwise (s : State) (i : Instr) (la : BitVec 4) (u : VUse) (ok : Hart → Bool) (op : Hart → EOp) : Out :=
  s.vector i u ok (fun x => (op x).touch x) fun s =>
    let x := s.me
    let e := op x
    let part := if la == 0 then x.splitAt else none
    let r := e.run x (part.getD x.vl)
    match r.stop with
    | some (n, p) =>
      let x := (r.x0.raise r.fl0).modVs fun v => { v with vstart := BitVec.ofNat 16 r.at_ }
      (s.setMe x).trapAt p.cause.toCause p.addr n
    | none =>
      match part with
      | some b => .next (s.setMe ((r.x.raise r.fl).stopAt b))
      | none => s.vland u la (r.ws.reverse.map fun w => x.vwrite e.d.toNat e.dw w.1 w.2 none) r.fl (acc := false)

/-! ## Kinds M, S and P (R133, R134) -/

/-- The active elements below VL, from element 0; none when VSTART ≥ VL. -/
def Hart.actives (x : Hart) (m : Mask) : List Nat :=
  if x.vl ≤ x.vstart then [] else (List.range x.vl).filter fun i => x.active m i

/-- Elements whose bits an instruction of these kinds reads to find its active elements. -/
def Hart.gated (x : Hart) : List Nat :=
  if x.vl ≤ x.vstart then [] else (List.range x.vl).filter fun i => x.core.vs.em.getLsbD i

/-- The first poisoned element among mask bits and sources, with the active element that reads it. -/
def Hart.poisonAmong (x : Hart) (m : Mask) (rd : List (Nat × Nat × Nat × Nat)) : Option (Nat × Poison) :=
  if x.core.vs.vPoison.isEmpty then none else
    match x.gated.findSome? fun i =>
        ((maskRegs m).findSome? fun c => x.elemPoison c.toNat x.core.vs.cfg.w i).map fun p => (i, p) with
    | some r => some r
    | none => rd.findSome? fun e => (x.elemPoison e.2.1 e.2.2.1 e.2.2.2).map fun p => (e.1, p)

/-- An instruction that is never split: rd lists (active element, register, width, element read), wr the elements written;
a poisoned one traps precisely. -/
def State.whole (s : State) (i : Instr) (u : VUse) (m : Mask) (ok : Hart → Bool)
    (rd : Hart → List (Nat × Nat × Nat × Nat)) (wr : Hart → List (Nat × Nat × Nat)) (k : State → Hart → Out) : Out :=
  s.vector i u ok
    (fun x => maskTouch (maskRegs m) (if x.vl ≤ x.vstart then x.vl else 0) x ++ (rd x).map Prod.snd ++ wr x) fun s =>
    let x := s.me
    match x.poisonAmong m (rd x) with
    | some (n, p) => s.trapAt p.cause.toCause p.addr n
    | none => k s x

end Sys2Proof.Machine
end

