-- ==== Sys2Proof/Machine/Flags.lean ====
section
/-! DEFINITION. VFLAGS (spec/06_vector_isa.md R134) and instructions of kind M, S and P over their operands. FFLAGS is
gathered by Hart.raise (spec/04_numbers.md R89). -/

namespace Sys2Proof.Machine

open Sys2Proof

/-- R134: the flags of the truth values of the active elements. -/
def vflagsOf (ts : List Bool) : VFlags :=
  { n := !ts.any id, s := ts.any id, a := !ts.isEmpty && ts.all id }

/-- All ones at width w when true. -/
def maskValue (w : Nat) (t : Bool) : Nat := if t then 2 ^ w - 1 else 0

/-- The result of a kind M instruction: truth values by element. -/
def Hart.putMask (x : Hart) (d : Reg) (ts : List (Nat × Bool)) (fl : Flags) : Hart :=
  let w := x.core.vs.cfg.w
  let x := ts.foldl (fun y t => y.setElem d.toNat w t.1 (maskValue w t.2) none) x
  (x.raise fl).modVs fun v => { v with flags := vflagsOf (ts.map Prod.snd) }

/-- A kind M instruction: src are the registers that element i reads at width EW. -/
def State.maskOp (s : State) (i : Instr) (u : VUse) (m : Mask) (ok : Hart → Bool) (d : Reg) (src : List Reg)
    (f : Hart → Nat → Bool × Flags) : Out :=
  s.whole i u m ok (fun x => (x.actives m).flatMap fun i => src.map fun r => (i, r.toNat, x.core.vs.cfg.w, i))
    (fun x => (x.actives m).map fun i => (d.toNat, x.core.vs.cfg.w, i)) fun s x =>
    let rs := (x.actives m).map fun i => (i, f x i)
    s.vdone u fun y => y.putMask d (rs.map fun r => (r.1, r.2.1)) (rs.foldl (fun a r => a ||| r.2.2) 0)

/-- A kind S instruction on the elements of one group: g[D] receives the result of the active elements. -/
def State.scalarOp (s : State) (i : Instr) (u : VUse) (m : Mask) (ok : Hart → Bool) (d a : Reg)
    (f : Hart → List Nat → Nat × Flags) : Out :=
  s.whole i u m ok (fun x => (x.actives m).map fun i => (i, a.toNat, x.core.vs.cfg.w, i)) (fun _ => []) fun s x =>
    let r := f x (x.actives m)
    s.vdone u fun y => (y.writeG d (BitVec.ofNat 64 r.1)).raise r.2

/-- A kind P instruction: plan lists (active element, destination element, source element or zero). -/
def State.moveOp (s : State) (i : Instr) (u : VUse) (m : Mask) (ok : Hart → Bool) (d a : Reg)
    (index : Hart → List (Nat × Nat × Nat × Nat)) (plan : Hart → List (Nat × Nat × Option Nat)) : Out :=
  s.whole i u m ok
    (fun x => index x ++ (plan x).filterMap fun p => p.2.2.map fun j => (p.1, a.toNat, x.core.vs.cfg.w, j))
    (fun x => (plan x).map fun p => (d.toNat, x.core.vs.cfg.w, p.2.1)) fun s x =>
    let w := x.core.vs.cfg.w
    s.vdone u fun y => (plan x).foldl (fun y p =>
      y.setElem d.toNat w p.2.1 (match p.2.2 with
        | some j => x.elem a.toNat w j
        | none => 0) none) y

end Sys2Proof.Machine
end

