-- ==== Sys2Proof/Machine/Lanes.lean ====
section
/-! DEFINITION. Lane grants (spec/01_machine.md R21-R31): slice sets, reservations, the grant that setvl computes, and what
changing a grant does to the registers. -/

namespace Sys2Proof.Machine

open Sys2Proof

/-- A slice set of a lane group is held by a hart of the core. -/
def State.unitHeld (s : State) (c g k : Nat) : Bool :=
  (hartsOf c).any fun h => (s.hart h).lanes.grant.any fun u => u.1 == g && u.2 == k

/-- The reservation of a slice set. -/
def Core.reserved (c : Core) (g k : Nat) : Option Holder :=
  (c.resv.find? fun r => r.group == g && r.slot == k).map fun r => r.holder

/-- The slice set that a holder would get in a lane group: the one reserved for it, or otherwise the lowest-numbered that is
unassigned and not reserved for another (R23). -/
def State.unitFor (s : State) (c : Nat) (who : Option Holder) (g : Nat) : Option Nat :=
  match (List.range 4).find? fun k => who.isSome && (s.core c).reserved g k == who && !s.unitHeld c g k with
  | some k => some k
  | none => (List.range 4).find? fun k => !s.unitHeld c g k && ((s.core c).reserved g k).isNone

/-- The lane groups that a holder can add, reserved ones first, each with its slice set. -/
def State.unitsFor (s : State) (c : Nat) (who : Option Holder) (own : List (Nat × Nat)) : List (Nat × Nat) :=
  let gs := (List.range 16).filter fun g => !own.any fun u => u.1 == g
  let mine := gs.filter fun g => who.isSome && (List.range 4).any fun k => (s.core c).reserved g k == who
  (mine ++ gs.filter fun g => !mine.contains g).filterMap fun g => (s.unitFor c who g).map fun k => (g, k)

/-- The registers of a grant that shrinks to n groups: what is given up reads 0 in every later grant (R24). -/
def VState.shrink (v : VState) (n : Nat) : VState :=
  let m := 2 ^ (n * 1024)
  { v with v := v.v.map fun r => BitVec.ofNat 16384 (r.toNat % m),
           vPoison := v.vPoison.filter fun e => e.1 % 2048 < n * 128,
           landed := BitVec.ofNat 1024 ((List.range 64).foldl (fun a r => a ||| ((2 ^ (16 - n) - 1) <<< (16 * r + n))) v.landed.toNat) }

/-- REEF of a core's island. -/
def State.reef (s : State) (c : Nat) : Nat := ((s.die (dieOfCore c)).island (islandOf c)).reef.toNat

/-- G of R23 under a reef ceiling. -/
def State.newG (s : State) (h : Nat) (keep : Bool) (reef : Nat) : Nat :=
  let x := s.hart h
  let avail := x.G + (s.unitsFor (coreOf h) (some (.ctx x.who.uid)) x.lanes.grant).length
  let want := min (min x.lanes.lreq.toNat x.lanes.ceil.toNat) (min reef avail)
  if keep then max x.G want else want

/-- An instance of a launch of a queue still waits to be placed. -/
def State.awaitsPlace (s : State) (q : Nat) (l i : BitVec 32) : Bool :=
  match tfind s.queues q with
  | none => false
  | some y => y.table.any fun e => e.index == l && e.placed ≤ i.toNat && i.toNat < e.cut

/-- The holder that a recipient is (R26): a hart that is FREE, and an instance that was placed or removed, get nothing. -/
def State.holderOf (s : State) (r : Recipient) : Option Holder :=
  match r with
  | .nobody => none
  | .hart h => if (s.hart h).core.st == .free then none else some (.ctx (s.hart h).who.uid)
  | .waiting q l i => if s.awaitsPlace q l i then some (.waiting q l i) else none

/-- Slice sets of a core reserved for a holder; with no holder they are free. -/
def State.reserve (s : State) (c : Nat) (r : Option Holder) (us : List (Nat × Nat)) : State :=
  match r with
  | none => s
  | some w => s.modCore c fun y => { y with resv := y.resv ++ us.map fun u => { group := u.1, slot := u.2, holder := w } }

/-- The reservations of a core that a holder has end. -/
def State.unreserve (s : State) (c : Nat) (w : Holder) : State :=
  s.modCore c fun y => { y with resv := y.resv.filter fun r => r.holder != w }

/-- Reservations that a holder has on other cores than c end: it, or the context that reserved them, has moved (R31). -/
def State.unreserveElsewhere (s : State) (c : Nat) (w : Holder) : State :=
  { s with cores := s.cores.map fun (e : Nat × Core) =>
      (e.1, if e.1 = c then e.2 else { e.2 with resv := e.2.resv.filter fun r => r.holder != w }) }

/-- A GRANT record when a grant changes (spec/17_counters_debug.md Table 17.7). -/
def State.traceGrant (s : State) (h old new : Nat) : State :=
  if old = new then s
  else s.trace h 7 (s.hart h).core.pc (BitVec.ofNat 64 (16 * new)) (BitVec.ofNat 64 (16 * old))

/-- The grant of a hart recomputed at setvl outside a handler (R23, R24, R26; spec/18_traps.md R414). -/
def State.regrant (s : State) (h : Nat) (keep : Bool) : State :=
  let x := s.hart h
  let c := coreOf h
  let w : Holder := .ctx x.who.uid
  let n := s.newG h keep (s.reef c)
  let s := if n < s.newG h keep 16 then s.countEvent c x.who.vi 0x0F 1 else s
  let add := (s.unitsFor c (some w) x.lanes.grant).take (n - x.G)
  let drop := x.lanes.grant.drop n
  let grant := x.lanes.grant.take n ++ add
  let s := (s.unreserve c w).unreserveElsewhere c w
  let done := !keep && x.lanes.reclaim.isSome
  let s := match x.lanes.reclaim with
    | some r => if done then (s.reserve c (s.holderOf r.recipient) drop).countEvent c x.who.vi 0x10 1 else s
    | none => s
  let s := s.traceGrant h x.G n
  s.modHart h fun x =>
    let x := if n < x.G then x.modVs fun v => v.shrink n else x
    { x with lanes := { x.lanes with grant := grant, kept := keep && s.reef c < n, reclaim := if done then none else x.lanes.reclaim } }

/-- VL of a setvl of a hart with its grant: against the smallest member VLMAX in a gang (R32). -/
def State.setvlMax (s : State) (h : Nat) (keep : Bool) (w grp : Nat) : Nat :=
  let one := fun k => vlmaxAt (if (s.hart k).inHandler then (s.hart k).G else s.newG k keep (s.reef (coreOf k))) w grp
  match (s.hart h).gang with
  | none => one h
  | some g => g.members.foldl (fun m k => min m (one k)) (one h)

end Sys2Proof.Machine
end

