-- ==== Sys2Proof/Machine/VecConfig.lean ====
section
/-! DEFINITION. Class 0x4: setvl, vcfg and the execution mask with its stack (spec/06_vector_isa.md R136-R138). fork.lanes
and join.lanes are in Split.lean, vclaim in Traps.lean. -/

namespace Sys2Proof.Machine

open Sys2Proof

/-- setvl (R136): outside a handler the grant is recomputed, inside it is frozen (spec/18_traps.md R407). -/
def execSetvl (keep : Bool) (d a : Reg) (ew : Ew) (grp : BitVec 2) (s : State) : Out :=
  s.claimedOnly (.setvl keep d a ew grp) (s.drained fun s =>
    if s.me.anyUnlanded then s.waitPoll else
    s.withG [a] fun x =>
      let s := s.charge x.G
      let max := s.setvlMax s.cur keep ew.width (grpOf grp)
      let s := if x.inHandler then s else s.regrant s.cur keep
      let vl := min (x.readG a).toNat max
      s.done fun y =>
        (y.modVs fun v => { v with cfg := { v.cfg with vl := BitVec.ofNat 16 vl, ew := ew, grp := grp }, vstart := 0 }).writeG d
          (BitVec.ofNat 64 vl))

/-- vcfg (R137): fields of VCFG selected by FN; the grant stays. -/
def execVcfg (which : BitVec 4) (d a : Reg) (ew : BitVec 3) (grp sc : BitVec 2) (rm : BitVec 3) (s : State) : Out :=
  s.claimedOnly (.vcfg which d a ew grp sc rm) (s.drained fun s =>
    s.withG [a] fun x =>
      let c := x.core.vs.cfg
      let c := if which.getLsbD 0 then { c with ew := Ew.ofBits (ew.setWidth 2) } else c
      let c := if which.getLsbD 1 then { c with grp := grp } else c
      let c := if which.getLsbD 2 then { c with sc := sc } else c
      let c := if which.getLsbD 3 then { c with rm := (RMode.ofNat? rm.toNat).getD c.rm } else c
      let vl := min (x.readG a).toNat (vlmaxAt x.G c.w c.p)
      (s.charge x.G).done fun y =>
        (y.modVs fun v => { v with cfg := { c with vl := BitVec.ofNat 16 vl }, vstart := 0 }).writeG d (BitVec.ofNat 64 vl))

/-- R138: VFLAGS over the elements below VL that a set admits, true where the new EM bit is 1. -/
def Hart.maskFlags (x : Hart) (set new : EMask) : VFlags :=
  vflagsOf (((List.range x.vl).filter fun i => set.getLsbD i).map fun i => new.getLsbD i)

/-- The mask stack does not allow the instruction. -/
def State.stackTrap (s : State) : Out := s.trap .maskStack (BitVec.ofNat 64 s.me.core.vs.mstack.length)

/-- EM narrowed by the mask register group, below VLMAX. -/
def Hart.narrowed (x : Hart) (c : Reg) (inv : Bool) : EMask :=
  let n := x.vlmax
  let keep := (List.range n).foldl (fun a i => if x.maskBit c i != inv then a + 2 ^ i else a) 0
  BitVec.ofNat 16384 (x.core.vs.em.toNat &&& (keep + (2 ^ 16384 - 2 ^ n)))

/-- vmpush. It and the other mask instructions set VSTART to 0 as every vector instruction does (spec/03_registers.md
Table 03.2). -/
def execVmpush (c : Reg) (inv : Bool) (s : State) : Out :=
  s.claimedOnly (.vmpush c inv) (s.drained fun s =>
    let elems := fun (x : Hart) => (List.range x.vlmax).filter fun i => x.core.vs.em.getLsbD i
    if s.me.core.vs.cfg.maskFits c.toNat && 16 ≤ s.me.core.vs.mstack.length then s.stackTrap else
    s.vector (.vmpush c inv) { masks := [c], flat := true } (fun _ => true)
      (fun x => (elems x).map fun i => (c.toNat, x.core.vs.cfg.w, i)) fun s =>
      let x := s.me
      let bad := if x.core.vs.vPoison.isEmpty then none else
        (elems x).findSome? fun i => (x.elemPoison c.toNat x.core.vs.cfg.w i).map fun p => (i, p)
      match bad with
      | some (i, p) => s.trapAt p.cause.toCause p.addr i
      | none =>
        let new := x.narrowed c inv
        (s.charge x.G).done fun y => (y.modVs fun v =>
          { v with mstack := v.em :: v.mstack, em := new, flags := x.maskFlags x.core.vs.em new, vstart := 0 }).giveStrips [])

/-- vmelse. -/
def execVmelse (s : State) : Out :=
  s.claimedOnly .vmelse (s.drained fun s =>
    match s.me.core.vs.mstack with
    | [] => s.stackTrap
    | tos :: _ => (s.charge s.me.G).done fun y => y.modVs fun v =>
        let new := tos &&& ~~~v.em
        { v with em := new, flags := y.maskFlags tos new, vstart := 0 })

/-- vmpop. -/
def execVmpop (s : State) : Out :=
  s.claimedOnly .vmpop (s.drained fun s =>
    match s.me.core.vs.mstack with
    | [] => s.stackTrap
    | tos :: rest => (s.charge s.me.G).done fun y => y.modVs fun v => { v with em := tos, mstack := rest, vstart := 0 })

/-- vmall. -/
def execVmall (s : State) : Out :=
  s.claimedOnly .vmall (s.drained fun s => (s.charge s.me.G).done fun y => y.modVs fun v => { v with em := BitVec.allOnes 16384, vstart := 0 })

end Sys2Proof.Machine
end

