-- ==== Sys2Proof/Machine/VecInt.lean ====
section
/-! DEFINITION. Class 0x5, vector integer instructions (spec/06_vector_isa.md R142-R145). -/

namespace Sys2Proof.Machine

open Sys2Proof

/-- EW in bits under the hart's VCFG. -/
def Hart.ew (x : Hart) : Nat := x.core.vs.cfg.w

/-- The groups that an instruction on v[A] and b reads; acc: v[D] too. -/
def vreads (acc : Bool) (d a : Reg) (b : VSrc) (w : Nat) : List (Reg × Nat) :=
  ((if acc then [d] else []) ++ a :: b.groups).map fun r => (r, w)

/-- The operands of an instruction on v[A], b and v[D] at width EW; acc: v[D] is read. -/
def State.vuse (s : State) (d a : Reg) (b : VSrc) (ms : List Reg) (acc : Bool := false) : VUse :=
  let w := s.me.ew
  { rd := vreads acc d a b w, wr := [(d, w)], masks := ms, gs := b.scalars }

/-- A kind E instruction on EW-bit elements a and b: f answers the element from EW, i, d, a and b. acc: v[D] is read. -/
def State.vint (s : State) (i : Instr) (la : BitVec 4) (d a : Reg) (b : VSrc) (m : Mask) (acc : Bool)
    (f : Nat → Nat → Nat → Nat → Nat) : Out :=
  s.elementwise i la (s.vuse d a b (maskRegs m) acc) (fun x => immFits false x.ew b) fun x =>
    let w := x.ew
    { d := d, dw := w, mask := m, src := vreads acc d a b w,
      f := fun y n => (f w (y.elem d.toNat w n) (y.elem a.toNat w n) (y.second b w n) % 2 ^ w, 0) }

/-- vadd. -/
def execVadd (d a : Reg) (b : VSrc) (m : Mask) (s : State) : Out :=
  s.vint (.vadd d a b m) 0 d a b m false fun _ _ x y => x + y

/-- vsub. -/
def execVsub (d a : Reg) (b : VSrc) (m : Mask) (s : State) : Out :=
  s.vint (.vsub d a b m) 0 d a b m false fun w _ x y => x + (2 ^ w - y)

/-- vadc and vsbc: C is a carry register, and EM alone gates them. -/
def State.vcarry (s : State) (i : Instr) (d a : Reg) (b : VSrc) (c : Reg) (f : Nat → Nat → Nat → Nat → Nat) : Out :=
  s.elementwise i 0 (s.vuse d a b [c]) (fun x => immFits false x.ew b) fun x =>
    let w := x.ew
    { d := d, dw := w, mask := .none, src := (a :: c :: b.groups).map fun r => (r, w),
      f := fun y n => (f w (y.elem a.toNat w n) (y.second b w n) (y.elem c.toNat w n % 2) % 2 ^ w, 0) }

/-- vadc. -/
def execVadc (d a : Reg) (b : VSrc) (c : Reg) (s : State) : Out :=
  s.vcarry (.vadc d a b c) d a b c fun _ x y k => x + y + k

/-- vsbc. -/
def execVsbc (d a : Reg) (b : VSrc) (c : Reg) (s : State) : Out :=
  s.vcarry (.vsbc d a b c) d a b c fun w x y k => x + (2 ^ (w + 1) - y - k)

/-- A kind M instruction on EW-bit elements; cs are carry registers. -/
def State.vtest (s : State) (i : Instr) (d a : Reg) (b : VSrc) (m : Mask) (cs : List Reg)
    (f : Nat → Hart → Nat → Bool) : Out :=
  s.maskOp i { s.vuse d a b (maskRegs m ++ cs) with strips := false } m (fun x => immFits false x.ew b) d
    (a :: cs ++ b.groups) fun x n => (f x.ew x n, 0)

/-- vmadc: the carry out of a + b + c. -/
def execVmadc (d a : Reg) (b : VSrc) (c : Reg) (s : State) : Out :=
  s.vtest (.vmadc d a b c) d a b .none [c] fun w x n =>
    2 ^ w ≤ x.elem a.toNat w n + x.second b w n + x.elem c.toNat w n % 2

/-- vmsbc: the borrow of a − b − c. -/
def execVmsbc (d a : Reg) (b : VSrc) (c : Reg) (s : State) : Out :=
  s.vtest (.vmsbc d a b c) d a b .none [c] fun w x n =>
    x.elem a.toNat w n < x.second b w n + x.elem c.toNat w n % 2

/-- vmul. -/
def execVmul (d a : Reg) (b : VSrc) (m : Mask) (s : State) : Out :=
  s.vint (.vmul d a b m) 0 d a b m false fun _ _ x y => x * y

/-- vmulh: bits [2EW−1:EW] of the signed product. -/
def execVmulh (d a : Reg) (b : VSrc) (m : Mask) (s : State) : Out :=
  s.vint (.vmulh d a b m) 0 d a b m false fun w _ x y => ofSigned (2 * w) (toSigned w x * toSigned w y) >>> w

/-- vmulhz. -/
def execVmulhz (d a : Reg) (b : VSrc) (m : Mask) (s : State) : Out :=
  s.vint (.vmulhz d a b m) 0 d a b m false fun w _ x y => (x * y) >>> w

/-- vmacc: v[D].e[i] + a × b. -/
def execVmacc (d a : Reg) (b : VSrc) (m : Mask) (s : State) : Out :=
  s.vint (.vmacc d a b m) 0 d a b m true fun _ z x y => z + x * y

/-- vdiv (R143). -/
def execVdiv (d a : Reg) (b : VSrc) (m : Mask) (la : BitVec 4) (s : State) : Out :=
  s.vint (.vdiv d a b m la) la d a b m false fun w _ x y => divSigned w x y

/-- vdivz. -/
def execVdivz (d a : Reg) (b : VSrc) (m : Mask) (la : BitVec 4) (s : State) : Out :=
  s.vint (.vdivz d a b m la) la d a b m false fun w _ x y => divUnsigned w x y

/-- vrem. -/
def execVrem (sg : Sign) (d a : Reg) (b : VSrc) (m : Mask) (la : BitVec 4) (s : State) : Out :=
  s.vint (.vrem sg d a b m la) la d a b m false fun w _ x y =>
    match sg with
    | .s => remSigned w x y
    | .z => remUnsigned w x y

/-- vand. -/
def execVand (d a : Reg) (b : VSrc) (m : Mask) (s : State) : Out :=
  s.vint (.vand d a b m) 0 d a b m false fun _ _ x y => x &&& y

/-- vor. -/
def execVor (d a : Reg) (b : VSrc) (m : Mask) (s : State) : Out :=
  s.vint (.vor d a b m) 0 d a b m false fun _ _ x y => x ||| y

/-- vxor. -/
def execVxor (d a : Reg) (b : VSrc) (m : Mask) (s : State) : Out :=
  s.vint (.vxor d a b m) 0 d a b m false fun _ _ x y => x ^^^ y

/-- vshl: the amount is bits [log2(EW)−1:0] of b. -/
def execVshl (d a : Reg) (b : VSrc) (m : Mask) (s : State) : Out :=
  s.vint (.vshl d a b m) 0 d a b m false fun w _ x y => x <<< (y % w)

/-- vshr. -/
def execVshr (d a : Reg) (b : VSrc) (m : Mask) (s : State) : Out :=
  s.vint (.vshr d a b m) 0 d a b m false fun w _ x y => x >>> (y % w)

/-- vsra. -/
def execVsra (d a : Reg) (b : VSrc) (m : Mask) (s : State) : Out :=
  s.vint (.vsra d a b m) 0 d a b m false fun w _ x y => ofSigned w (toSigned w x >>> (y % w))

/-- vmin. -/
def execVmin (d a : Reg) (b : VSrc) (m : Mask) (s : State) : Out :=
  s.vint (.vmin d a b m) 0 d a b m false fun w _ x y => if toSigned w y < toSigned w x then y else x

/-- vmax. -/
def execVmax (d a : Reg) (b : VSrc) (m : Mask) (s : State) : Out :=
  s.vint (.vmax d a b m) 0 d a b m false fun w _ x y => if toSigned w x < toSigned w y then y else x

/-- vumin. -/
def execVumin (d a : Reg) (b : VSrc) (m : Mask) (s : State) : Out :=
  s.vint (.vumin d a b m) 0 d a b m false fun _ _ x y => min x y

/-- vumax. -/
def execVumax (d a : Reg) (b : VSrc) (m : Mask) (s : State) : Out :=
  s.vint (.vumax d a b m) 0 d a b m false fun _ _ x y => max x y

/-- A condition of vcmp on w-bit elements. -/
def vcondHolds (k : Cond) (w x y : Nat) : Bool :=
  match k with
  | .eq => x == y
  | .ne => x != y
  | .lt => toSigned w x < toSigned w y
  | .ge => toSigned w y ≤ toSigned w x
  | .lo => x < y
  | .hs => y ≤ x

/-- vcmp. -/
def execVcmp (k : Cond) (d a : Reg) (b : VSrc) (m : Mask) (s : State) : Out :=
  s.vtest (.vcmp k d a b m) d a b m [] fun w x n => vcondHolds k w (x.elem a.toNat w n) (x.second b w n)

/-- vsel (R144): EM alone gates it, and the mask bit selects. -/
def execVsel (d a : Reg) (b : VSrc) (c : Reg) (inv : Bool) (s : State) : Out :=
  s.elementwise (.vsel d a b c inv) 0 (s.vuse d a b [c]) (fun x => immFits false x.ew b) fun x =>
    let w := x.ew
    { d := d, dw := w, mask := .none, src := (a :: c :: b.groups).map fun r => (r, w),
      f := fun y n => (if y.maskBit c n != inv then y.elem a.toNat w n else y.second b w n, 0) }

/-- vmov: b. -/
def execVmov (d : Reg) (b : VSrc) (m : Mask) (s : State) : Out :=
  let w := s.me.ew
  s.elementwise (.vmov d b m) 0
    { rd := b.groups.map fun r => (r, w), wr := [(d, w)], masks := maskRegs m, gs := b.scalars }
    (fun x => immFits false x.ew b) fun x =>
    { d := d, dw := x.ew, mask := m, src := b.groups.map fun r => (r, x.ew), f := fun y n => (y.second b x.ew n, 0) }

/-- vid: the element number. -/
def execVid (d : Reg) (m : Mask) (s : State) : Out :=
  s.elementwise (.vid d m) 0 { wr := [(d, s.me.ew)], masks := maskRegs m } (fun _ => true) fun x =>
    { d := d, dw := x.ew, mask := m, src := [], f := fun _ n => (n % 2 ^ x.ew, 0) }

/-- R145: an element of sw bits converted to w bits. -/
def cvtInt (sg : Sign) (sat : Bool) (sw w v : Nat) : Nat :=
  let z : Int := match sg with
    | .s => toSigned sw v
    | .z => (v : Nat)
  if sat && w < sw then
    let (lo, hi) := intRange (sg == .s) w
    ofSigned w (max lo (min hi z))
  else ofSigned w z

/-- vcvti: the source group is at width sw (R128). -/
def execVcvti (sg : Sign) (sat : Bool) (sw : Ew) (d a : Reg) (m : Mask) (s : State) : Out :=
  s.elementwise (.vcvti sg sat sw d a m) 0
    { rd := [(a, sw.width)], wr := [(d, s.me.ew)], masks := maskRegs m } (fun _ => true) fun x =>
    { d := d, dw := x.ew, mask := m, src := [(a, sw.width)],
      f := fun y n => (cvtInt sg sat sw.width x.ew (y.elem a.toNat sw.width n), 0) }

/-- vpopc, vfirst and vlast: of the active elements of v[A] whose bit 0 is 1. -/
def State.vcount (s : State) (i : Instr) (d a : Reg) (m : Mask) (f : List Nat → Nat) : Out :=
  s.scalarOp i { rd := [(a, s.me.ew)], masks := maskRegs m, strips := false } m (fun _ => true) d a fun x es =>
    (f (es.filter fun n => x.maskBit a n), 0)

/-- vpopc. -/
def execVpopc (d a : Reg) (m : Mask) (s : State) : Out := s.vcount (.vpopc d a m) d a m List.length

/-- vfirst. -/
def execVfirst (d a : Reg) (m : Mask) (s : State) : Out :=
  s.vcount (.vfirst d a m) d a m fun es => es.head?.getD (2 ^ 64 - 1)

/-- vlast. -/
def execVlast (d a : Reg) (m : Mask) (s : State) : Out :=
  s.vcount (.vlast d a m) d a m fun es => es.getLast?.getD (2 ^ 64 - 1)

/-- A saturated sum or difference of w bits. -/
def satInt (sg : Sign) (w : Nat) (sub : Bool) (x y : Nat) : Nat :=
  let v : Nat → Int := fun n => match sg with
    | .s => toSigned w n
    | .z => (n : Int)
  let (lo, hi) := intRange (sg == .s) w
  ofSigned w (max lo (min hi (if sub then v x - v y else v x + v y)))

/-- vsadd. -/
def execVsadd (sg : Sign) (d a : Reg) (b : VSrc) (m : Mask) (s : State) : Out :=
  s.vint (.vsadd sg d a b m) 0 d a b m false fun w _ x y => satInt sg w false x y

/-- vssub. -/
def execVssub (sg : Sign) (d a : Reg) (b : VSrc) (m : Mask) (s : State) : Out :=
  s.vint (.vssub sg d a b m) 0 d a b m false fun w _ x y => satInt sg w true x y

end Sys2Proof.Machine
end

