-- ==== Sys2Proof/Machine/VecFloat.lean ====
section
/-! DEFINITION. Class 0x6, vector float instructions (spec/06_vector_isa.md R146-R148). -/

namespace Sys2Proof.Machine

open Sys2Proof

/-- The format fills the element (R146). -/
def Hart.fills (x : Hart) (f : Fmt) : Bool := f.k.width == x.ew

/-- A kind E instruction on float elements a and b of a format that fills the element; acc: v[D] is read. -/
def State.vfloat (s : State) (i : Instr) (la : BitVec 4) (f : Fmt) (d a : Reg) (b : VSrc) (m : Mask) (acc : Bool)
    (g : Hart → Nat → Nat → Nat → Nat × Flags) : Out :=
  s.elementwise i la (s.vuse d a b (maskRegs m) acc) (fun x => x.fills f && immFits true x.ew b) fun x =>
    let w := x.ew
    { d := d, dw := w, mask := m, src := vreads acc d a b w,
      f := fun y n => g y (y.elem d.toNat w n) (y.elem a.toNat w n) (y.second b w n) }

/-- A kind E instruction on one source group of width sw and a destination of width dw. -/
def State.vunary (s : State) (i : Instr) (la : BitVec 4) (d a : Reg) (m : Mask) (ok : Hart → Bool) (sw dw : Nat)
    (g : Hart → Nat → Nat × Flags) : Out :=
  s.elementwise i la { rd := [(a, sw)], wr := [(d, dw)], masks := maskRegs m } ok fun _ =>
    { d := d, dw := dw, mask := m, src := [(a, sw)], f := fun y n => g y (y.elem a.toNat sw n) }

/-- A kind E instruction on one source of a format that fills the element. -/
def State.vfunary (s : State) (i : Instr) (la : BitVec 4) (f : Fmt) (d a : Reg) (m : Mask)
    (g : Hart → Nat → Nat × Flags) : Out :=
  s.vunary i la d a m (fun x => x.fills f) f.k.width f.k.width g

/-- vfadd. -/
def execVfadd (f : Fmt) (rm : RmF) (d a : Reg) (b : VSrc) (m : Mask) (s : State) : Out :=
  s.vfloat (.vfadd f rm d a b m) 0 f d a b m false fun x _ p q => fAdd f.k (x.rm rm) p q

/-- vfsub. -/
def execVfsub (f : Fmt) (rm : RmF) (d a : Reg) (b : VSrc) (m : Mask) (s : State) : Out :=
  s.vfloat (.vfsub f rm d a b m) 0 f d a b m false fun x _ p q => fSub f.k (x.rm rm) p q

/-- vfmul. -/
def execVfmul (f : Fmt) (rm : RmF) (d a : Reg) (b : VSrc) (m : Mask) (s : State) : Out :=
  s.vfloat (.vfmul f rm d a b m) 0 f d a b m false fun x _ p q => fMul f.k (x.rm rm) p q

/-- vfma: a × b + d. -/
def execVfma (f : Fmt) (rm : RmF) (d a : Reg) (b : VSrc) (m : Mask) (s : State) : Out :=
  s.vfloat (.vfma f rm d a b m) 0 f d a b m true fun x c p q => fFma f.k (x.rm rm) false false p q c

/-- vfms: a × b − d. -/
def execVfms (f : Fmt) (rm : RmF) (d a : Reg) (b : VSrc) (m : Mask) (s : State) : Out :=
  s.vfloat (.vfms f rm d a b m) 0 f d a b m true fun x c p q => fFma f.k (x.rm rm) false true p q c

/-- vfnma: −(a × b) + d. -/
def execVfnma (f : Fmt) (rm : RmF) (d a : Reg) (b : VSrc) (m : Mask) (s : State) : Out :=
  s.vfloat (.vfnma f rm d a b m) 0 f d a b m true fun x c p q => fFma f.k (x.rm rm) true false p q c

/-- vfdiv. -/
def execVfdiv (f : Fmt) (rm : RmF) (d a : Reg) (b : VSrc) (m : Mask) (la : BitVec 4) (s : State) : Out :=
  s.vfloat (.vfdiv f rm d a b m la) la f d a b m false fun x _ p q => fDiv f.k (x.rm rm) p q

/-- vfsqrt. -/
def execVfsqrt (f : Fmt) (rm : RmF) (d a : Reg) (m : Mask) (la : BitVec 4) (s : State) : Out :=
  s.vfunary (.vfsqrt f rm d a m la) la f d a m fun x p => fSqrt f.k (x.rm rm) p

/-- R147: a magnitude q × 2^e (more when sticky) rounded to 8 significant bits, then to the format, both under RNE. -/
def roundEst (k : FpK) (neg : Bool) (q : Nat) (e : Int) (sticky : Bool) : Nat × Flags :=
  let at_ := (Nat.log2 q : Int) + e - 7
  roundMag k .rne neg (roundTo .rne neg q e sticky at_).1 at_ false

/-- 1/a (R147). -/
def fRecE (k : FpK) (a : Nat) : Nat × Flags :=
  match Fp.unpack k a with
  | .nan sg => (k.nan, if sg then fNV else 0)
  | .inf n => (k.zero n, 0)
  | .fin n m e =>
    if m = 0 then (k.inf n, fDZ) else roundEst k n (2 ^ 80 / m) (-e - 80) (2 ^ 80 % m != 0)

/-- 1/√a (R147): a = m × 2^e with e made even, so that 2^64/√m is an integer root. −∞ is taken as a value below −0, not as an
infinity that gives a zero (notes/assumptions/134.md). -/
def fRsqE (k : FpK) (a : Nat) : Nat × Flags :=
  match Fp.unpack k a with
  | .nan sg => (k.nan, if sg then fNV else 0)
  | .inf n => if n then (k.nan, fNV) else (k.zero false, 0)
  | .fin n m e =>
    if m = 0 then (k.inf false, fDZ) else if n then (k.nan, fNV) else
      let odd := e % 2 != 0
      let m' := if odd then 2 * m else m
      let e' := if odd then e - 1 else e
      let r := isqrt (2 ^ 128 / m')
      roundEst k false r (-(e' / 2) - 64) (r * r * m' != 2 ^ 128)

/-- vfrsqe. -/
def execVfrsqe (f : Fmt) (d a : Reg) (m : Mask) (s : State) : Out :=
  s.vfunary (.vfrsqe f d a m) 0 f d a m fun _ p => fRsqE f.k p

/-- vfrece. -/
def execVfrece (f : Fmt) (d a : Reg) (m : Mask) (s : State) : Out :=
  s.vfunary (.vfrece f d a m) 0 f d a m fun _ p => fRecE f.k p

/-- vfmin (R113). -/
def execVfmin (f : Fmt) (d a : Reg) (b : VSrc) (m : Mask) (s : State) : Out :=
  s.vfloat (.vfmin f d a b m) 0 f d a b m false fun _ _ p q => fMinMax f.k false p q

/-- vfmax (R113). -/
def execVfmax (f : Fmt) (d a : Reg) (b : VSrc) (m : Mask) (s : State) : Out :=
  s.vfloat (.vfmax f d a b m) 0 f d a b m false fun _ _ p q => fMinMax f.k true p q

/-- vfcmp (R148). -/
def execVfcmp (f : Fmt) (k : FCond) (d a : Reg) (b : VSrc) (m : Mask) (s : State) : Out :=
  s.maskOp (.vfcmp f k d a b m) { s.vuse d a b (maskRegs m) with strips := false } m
    (fun x => x.fills f && immFits true x.ew b) d (a :: b.groups) fun x n =>
      fCmp f.k k (x.elem a.toNat x.ew n) (x.second b x.ew n)

/-- vfcvt: the source group is at the width of its format (R128). -/
def execVfcvt (f : Fmt) (rm : RmF) (sf : Fmt) (d a : Reg) (m : Mask) (s : State) : Out :=
  s.vunary (.vfcvt f rm sf d a m) 0 d a m (fun x => x.fills f) sf.k.width f.k.width fun x p => fCvt f.k sf.k (x.rm rm) p

/-- vfcvti: to an EW-bit integer (R91). -/
def execVfcvti (f : Fmt) (rm : RmF) (u : Bool) (d a : Reg) (m : Mask) (s : State) : Out :=
  s.vunary (.vfcvti f rm u d a m) 0 d a m (fun _ => true) f.k.width s.me.ew fun x p =>
    let r := fToInt f.k (x.rm rm) (!u) x.ew p
    (ofSigned x.ew r.1, r.2)

/-- vicvtf: from an EW-bit integer (R86). -/
def execVicvtf (f : Fmt) (rm : RmF) (u : Bool) (d a : Reg) (m : Mask) (s : State) : Out :=
  s.vunary (.vicvtf f rm u d a m) 0 d a m (fun _ => true) s.me.ew f.k.width fun x p =>
    intToF f.k (x.rm rm) (if u then (p : Int) else toSigned x.ew p)

/-- vfclass (R116). -/
def execVfclass (f : Fmt) (d a : Reg) (m : Mask) (s : State) : Out :=
  s.vfunary (.vfclass f d a m) 0 f d a m fun _ p => (fClass f.k p, 0)

/-- vfsgn (R117). -/
def execVfsgn (f : Fmt) (k : SgnOp) (d a : Reg) (b : VSrc) (m : Mask) (s : State) : Out :=
  s.vfloat (.vfsgn f k d a b m) 0 f d a b m false fun _ _ p q => (fSgn f.k k p q, 0)

/-- vfrnd. -/
def execVfrnd (f : Fmt) (rm : RmF) (d a : Reg) (m : Mask) (s : State) : Out :=
  s.vfunary (.vfrnd f rm d a m) 0 f d a m fun x p => fRnd f.k (x.rm rm) p

end Sys2Proof.Machine
end

