-- ==== Sys2Proof/Machine/VecPermute.lean ====
section
/-! DEFINITION. Class 0x7, permutes and reductions (spec/06_vector_isa.md R149-R155). -/

namespace Sys2Proof.Machine

open Sys2Proof

/-- The registers of a group of size n based at r overlap one of size k based at q. -/
def overlaps (r n q k : Nat) : Bool := r < q + k && q < r + n

/-- R152: the scaled operands of the five element moves, under PAIR = 1. -/
def VCfg.pairOk (c : VCfg) (ops : List Reg) : Bool :=
  c.w == 8 && c.vl.toNat % 32 == 0 && ops.all fun r => r.toNat % (2 * c.p) == 0

/-- The unit moves of R150: the active units, then (active unit, destination, source or zero). n and max are VL and VLMAX in
units. -/
abbrev MovePlan := (act : List Nat) → (n max : Nat) → List (Nat × Nat × Option Nat)

def planUp (off : Nat) : MovePlan := fun act _ _ =>
  (act.filter fun i => off ≤ i).map fun i => (i, i, some (i - off))

def planDown (off : Nat) : MovePlan := fun act _ max =>
  act.map fun i => (i, i, if i + off < max then some (i + off) else none)

def planGather (ix : Nat → Nat) : MovePlan := fun act _ max =>
  act.map fun i => (i, i, if ix i < max then some (ix i) else none)

def planCompress : MovePlan := fun act _ _ => act.mapIdx fun k i => (i, k, some i)

def planExpand : MovePlan := fun act _ _ => act.mapIdx fun k i => (i, i, some k)

/-- One of the five element moves. ixs: the index group of vgather.r with its element width. -/
def State.vmove (s : State) (i : Instr) (d a : Reg) (gs ixs : List Reg) (pair : Bool) (m : Mask)
    (plan : Hart → MovePlan) : Out :=
  let x := s.me
  let w := x.ew
  let ok := fun (x : Hart) =>
    let c := x.core.vs.cfg
    let size := if pair then 2 * c.p else c.p
    (!pair || c.pairOk (d :: a :: ixs)) &&
      (a :: ixs).all fun r => !overlaps d.toNat size r.toNat size
  let u : VUse := { rd := (a :: ixs).map fun r => (r, w), wr := [(d, w)], masks := maskRegs m, gs := gs }
  let units := fun (x : Hart) =>
    if x.vl ≤ x.vstart then []
    else if pair then
      let act := (List.range (x.vl / 32)).filter fun n => x.active m (32 * n)
      plan x act (x.vl / 32) (x.vlmax / 32)
    else plan x (x.actives m) x.vl x.vlmax
  -- reads and writes of a unit: its elements, or its 32 codes and its scale word
  let cells := fun (x : Hart) (r : Reg) (n : Nat) =>
    if pair then ((r.toNat + x.core.vs.cfg.p, 32, n) : Nat × Nat × Nat) :: (List.range 32).map fun k => (r.toNat, 8, 32 * n + k)
    else [(r.toNat, x.ew, n)]
  s.whole i u m ok
    (fun x =>
      (if x.vl ≤ x.vstart then [] else ixs.flatMap fun r =>
        if pair then ((List.range (x.vl / 32)).filter fun n => x.active m (32 * n)).map fun n => (32 * n, r.toNat, 32, n)
        else (x.actives m).map fun n => (n, r.toNat, x.ew, n)) ++
      (units x).flatMap fun t => match t.2.2 with
        | some j => (cells x a j).map fun c => ((if pair then 32 * t.1 else t.1), c)
        | none => [])
    (fun x => (units x).flatMap fun t => cells x d t.2.1) fun s x =>
    s.vdone u fun y => (units x).foldl (fun y t =>
      let dst := cells x d t.2.1
      let src := match t.2.2 with
        | some j => (cells x a j).map fun c => x.elem c.1 c.2.1 c.2.2
        | none => dst.map fun _ => 0
      (dst.zip src).foldl (fun y e => y.setElem e.1.1 e.1.2.1 e.1.2.2 e.2 none) y) y

/-- The g register and the value of a slide's offset. -/
def slideRegs : SlideOff → List Reg
  | .gpr b => [b]
  | .imm _ => []

def Hart.slideOff (x : Hart) : SlideOff → Nat
  | .gpr b => (x.readG b).toNat
  | .imm n => n.toNat

/-- vslideup. -/
def execVslideup (d a : Reg) (off : SlideOff) (pair : Bool) (m : Mask) (s : State) : Out :=
  s.vmove (.vslideup d a off pair m) d a (slideRegs off) [] pair m fun x => planUp (x.slideOff off)

/-- vslidedn. -/
def execVslidedn (d a : Reg) (off : SlideOff) (pair : Bool) (m : Mask) (s : State) : Out :=
  s.vmove (.vslidedn d a off pair m) d a (slideRegs off) [] pair m fun x => planDown (x.slideOff off)

/-- vgather.r: the index is v[B], read at e32 for scaled operands. -/
def execVgatherR (d a b : Reg) (pair : Bool) (m : Mask) (s : State) : Out :=
  s.vmove (.vgatherR d a b pair m) d a [] [b] pair m fun x =>
    planGather fun n => x.elem b.toNat (if pair then 32 else x.ew) n

/-- vcompress. -/
def execVcompress (d a : Reg) (pair : Bool) (m : Mask) (s : State) : Out :=
  s.vmove (.vcompress d a pair m) d a [] [] pair m fun _ => planCompress

/-- vexpand. -/
def execVexpand (d a : Reg) (pair : Bool) (m : Mask) (s : State) : Out :=
  s.vmove (.vexpand d a pair m) d a [] [] pair m fun _ => planExpand

/-! ## Reductions (R153, R154) -/

/-- An EW-bit result extended to 64 bits. -/
def extendEw (sg : Sign) (w v : Nat) : Nat :=
  match sg with
  | .s => ofSigned 64 (toSigned w v)
  | .z => v % 2 ^ w

/-- An integer reduction that starts from b = g[B]. -/
def State.vreduce (s : State) (i : Instr) (sg : Sign) (d a b : Reg) (m : Mask) (f : Nat → Nat → Nat → Nat) : Out :=
  s.scalarOp i { rd := [(a, s.me.ew)], masks := maskRegs m, gs := [b], strips := false } m (fun _ => true) d a fun x es =>
    let w := x.ew
    (extendEw sg w (es.foldl (fun r n => f w r (x.elem a.toNat w n)) ((x.readG b).toNat % 2 ^ w)), 0)

/-- The smaller or larger of two w-bit values. -/
def pickInt (sg : Sign) (isMax : Bool) (w x y : Nat) : Nat :=
  let less := match sg with
    | .s => toSigned w x < toSigned w y
    | .z => x < y
  if less == isMax then y else x

/-- vredadd. -/
def execVredadd (sg : Sign) (d a b : Reg) (m : Mask) (s : State) : Out :=
  s.vreduce (.vredadd sg d a b m) sg d a b m fun w x y => (x + y) % 2 ^ w

/-- vredmax. -/
def execVredmax (sg : Sign) (d a b : Reg) (m : Mask) (s : State) : Out :=
  s.vreduce (.vredmax sg d a b m) sg d a b m fun w x y => pickInt sg true w x y

/-- vredmin. -/
def execVredmin (sg : Sign) (d a b : Reg) (m : Mask) (s : State) : Out :=
  s.vreduce (.vredmin sg d a b m) sg d a b m fun w x y => pickInt sg false w x y

/-- A float reduction that starts from b = g[B][w−1:0]. -/
def State.vfreduce (s : State) (i : Instr) (f : Fmt) (d a b : Reg) (m : Mask)
    (g : Hart → List Nat → Nat → Nat × Flags) : Out :=
  s.scalarOp i { rd := [(a, s.me.ew)], masks := maskRegs m, gs := [b], strips := false } m (fun x => x.fills f) d a fun x es =>
    g x es (x.readF f.k b)

/-- A left fold of a float operation, gathering flags. -/
def foldF (op : Nat → Nat → Nat × Flags) (b : Nat) (vs : List Nat) : Nat × Flags :=
  vs.foldl (fun r v =>
    let t := op r.1 v
    (t.1, r.2 ||| t.2)) (b, 0)

/-- One level of the tree: neighbours are added where both are present. -/
def treeLevel (op : Nat → Nat → Nat × Flags) : List (Option Nat) → List (Option Nat) × Flags
  | [] => ([], 0)
  | [x] => ([x], 0)
  | l :: h :: rest =>
    let r := treeLevel op rest
    match l, h with
    | some p, some q =>
      let t := op p q
      (some t.1 :: r.1, t.2 ||| r.2)
    | some p, none => (some p :: r.1, r.2)
    | none, q => (q :: r.1, r.2)

/-- The root of a tree of 2^k leaves. -/
def treeSum (op : Nat → Nat → Nat × Flags) : Nat → List (Option Nat) → Option Nat × Flags
  | 0, l => (l.head?.getD none, 0)
  | k + 1, l =>
    let r := treeLevel op l
    let t := treeSum op k r.1
    (t.1, r.2 ||| t.2)

/-- The least k with n ≤ 2^k. -/
def log2Up (n : Nat) : Nat := if n ≤ 1 then 0 else Nat.log2 (n - 1) + 1

/-- vfredadd (R154): ordered, or as a tree over the elements below VL. -/
def execVfredadd (f : Fmt) (rm : RmF) (tree : Bool) (d a b : Reg) (m : Mask) (s : State) : Out :=
  s.vfreduce (.vfredadd f rm tree d a b m) f d a b m fun x es v =>
    let op := fAdd f.k (x.rm rm)
    if tree then
      let leaves := (List.range x.vl).map fun n => if es.contains n then some (x.elem a.toNat x.ew n) else none
      match treeSum op (log2Up x.vl) leaves with
      | (none, _) => (v, 0)
      | (some t, fl) =>
        let r := op v t
        (r.1, fl ||| r.2)
    else foldF op v (es.map fun n => x.elem a.toNat x.ew n)

/-- vfredmax. -/
def execVfredmax (f : Fmt) (d a b : Reg) (m : Mask) (s : State) : Out :=
  s.vfreduce (.vfredmax f d a b m) f d a b m fun x es v => foldF (fMinMax f.k true) v (es.map fun n => x.elem a.toNat x.ew n)

/-- vfredmin. -/
def execVfredmin (f : Fmt) (d a b : Reg) (m : Mask) (s : State) : Out :=
  s.vfreduce (.vfredmin f d a b m) f d a b m fun x es v => foldF (fMinMax f.k false) v (es.map fun n => x.elem a.toNat x.ew n)

/-! ## Butterfly, extract, insert (R151, R155) -/

/-- vbfly: one stage at distance dist. -/
def execVbfly (f : Fmt) (rm : RmF) (d a : Reg) (dist : BitVec 14) (m : Mask) (s : State) : Out :=
  let k := dist.toNat
  let u : VUse := { rd := [(a, s.me.ew)], wr := [(d, s.me.ew)], masks := maskRegs m }
  let pairs := fun (x : Hart) => (x.actives m).filter fun i => i % (2 * k) < k && i + k < x.vl
  s.whole (.vbfly f rm d a dist m) u m (fun x => x.fills f)
    (fun x => (pairs x).flatMap fun i => [(i, a.toNat, x.ew, i), (i, a.toNat, x.ew, i + k)])
    (fun x => (pairs x).flatMap fun i => [(d.toNat, x.ew, i), (d.toNat, x.ew, i + k)]) fun s x =>
    let r := (pairs x).map fun i =>
      let p := x.elem a.toNat x.ew i
      let q := x.elem a.toNat x.ew (i + k)
      (i, fAdd f.k (x.rm rm) p q, fSub f.k (x.rm rm) p q)
    s.vdone u fun y =>
      let y := r.foldl (fun y t =>
        (y.setElem d.toNat x.ew t.1 t.2.1.1 none).setElem d.toNat x.ew (t.1 + k) t.2.2.1 none) y
      y.raise (r.foldl (fun fl t => fl ||| t.2.1.2 ||| t.2.2.2) 0)

/-- vextr: element g[B] of v[A], or 0. EM is not consulted. -/
def execVextr (sg : Sign) (d a b : Reg) (s : State) : Out :=
  let pos := fun (x : Hart) => if x.vstart < x.vl && (x.readG b).toNat < x.vl then [(x.readG b).toNat] else []
  let u : VUse := { rd := [(a, s.me.ew)], gs := [b], strips := false }
  s.vector (.vextr sg d a b) u (fun _ => true) (fun x => (pos x).map fun n => (a.toNat, x.ew, n)) fun s =>
    let x := s.me
    match (pos x).head? with
    | none => s.vdone u fun y => y.writeG d 0
    | some n =>
      match x.elemPoison a.toNat x.ew n with
      | some p => s.trapAt p.cause.toCause p.addr n
      | none => s.vdone u fun y => y.writeG d (BitVec.ofNat 64 (extendEw sg x.ew (x.elem a.toNat x.ew n)))

/-- vinsr: element g[B] of v[D], when it is below VL. -/
def execVinsr (d a b : Reg) (s : State) : Out :=
  let pos := fun (x : Hart) => if x.vstart < x.vl && (x.readG b).toNat < x.vl then [(x.readG b).toNat] else []
  let u : VUse := { wr := [(d, s.me.ew)], gs := [a, b] }
  s.vector (.vinsr d a b) u (fun _ => true) (fun x => (pos x).map fun n => (d.toNat, x.ew, n)) fun s =>
    let x := s.me
    s.vdone u fun y => (pos x).foldl (fun y n => y.setElem d.toNat x.ew n (x.readG a).toNat none) y

end Sys2Proof.Machine
end

