-- ==== Sys2Proof/Machine/VecMem.lean ====
section
/-! DEFINITION. Class 0x8, vector accesses (spec/10_memory_isa.md R238-R243). -/

namespace Sys2Proof.Machine

open Sys2Proof

/-- The space that a vector access reaches (R227). -/
inductive VSpace where
  | data | own | peer
  deriving DecidableEq, Repr

/-- What an element reaches: the data space, or a place in a core's lane memory. -/
inductive VTarget where
  | data (t : Target)
  | lane (c off : Nat)
  deriving DecidableEq, Repr

/-- The first failing check of one element of n bytes (R239). memo holds what the walks of the instruction have found. -/
def State.probeElemIn (s : State) (me : Who) (sp : VSpace) (k : AKind) (a : Word) (n : Nat) (memo : Walks) :
    Except MemFault VTarget × Walks × State :=
  if a.toNat % n ≠ 0 then (.error (.align, a), memo, s) else
  match sp with
  | .data =>
    let (r, memo, s) := s.probeIn me k a n memo
    match r with
    | .error e => (.error e, memo, s)
    | .ok t => (.ok (.data t), memo, s)
  | .own =>
    (if s.laneProbe me.core me.vi false a.toNat n then .ok (.lane me.core a.toNat) else .error (.access, a), memo, s)
  | .peer =>
    match peerAddr a with
    | none => (.error (.access, a), memo, s)
    | some (c, off) => (if s.laneProbe c me.vi true off n then .ok (.lane c off) else .error (.access, a), memo, s)

/-- An element with its address and what the probe found. -/
abbrev Probed := Nat × Word × Except MemFault VTarget

/-- The probe pass over elements with their addresses (R240); bank: the lane group whose TLB bank translates an element. The
misses of elements without a fault are counted (spec/17_counters_debug.md R393). -/
def State.probeElems (s : State) (sp : VSpace) (k : AKind) (n : Nat) (bank : Nat → Option Nat) (memo : Walks) :
    List (Nat × Word) → List Probed × Walks × State
  | [] => ([], memo, s)
  | (i, a) :: rest =>
    let (r, m, s) := s.probeElemIn { s.who s.cur with bank := bank i } sp k a n memo
    let m := match r with
      | .ok _ => m
      | .error _ => { m with misses := memo.misses }
    let (rs, m, s) := s.probeElems sp k n bank m rest
    ((i, a, r) :: rs, m, s)

/-- The causes that the save area lists pages for. -/
def pageCause : Cause → Bool
  | .loadPage | .storePage => true
  | _ => false

def faultOf (p : Probed) : Option MemFault :=
  match p.2.2 with
  | .error e => some e
  | .ok _ => none

/-- The access of n bytes of an element matches a watch range, whatever check it failed before (R394, R395). -/
def State.watched (s : State) (me : Who) (k : AKind) (n : Nat) (p : Probed) : Bool :=
  (match p.2.2 with
    | .ok (.data (.mem _ (.window _ _))) => false
    | _ => true) && (s.hart me.hart).watches me.mode k p.2.1 n

/-- A mask of elements. -/
def maskOf (es : List Nat) : EMask := BitVec.ofNat 16384 (es.foldl (fun a e => a ||| 2 ^ e) 0)

/-- The mask of every matching element of a probe (R395). -/
def State.watchMask (s : State) (me : Who) (k : AKind) (n : Nat) (ps : List Probed) : EMask :=
  maskOf ((ps.filter (s.watched me k n)).map Prod.fst)

/-- The distinct missing pages of a probe, in the order of their first elements. -/
def missingPages (ps : List Probed) : List Word :=
  (ps.filterMap fun p => match faultOf p with
    | some (c, a) => if pageCause c then some (a &&& ~~~ 4095#64) else none
    | none => none).eraseDups

/-- The trap that the lowest faulting element of a probe takes (R240), with the mask of the matching elements. -/
def probeTrap (mask : EMask) (ps : List Probed) : Option TrapInfo :=
  ps.findSome? fun p => (faultOf p).map fun f =>
    { cause := f.1, tval := f.2, telem := p.1, pages := missingPages ps,
      wmask := if f.1 == .watch then some mask else none }

/-- One element read. -/
def State.readElem (s : State) (t : VTarget) (n : Nat) : (Nat × Option Poison) × State :=
  let me := s.who s.cur
  match t with
  | .data t => s.readTarget me false t n
  | .lane c off => s.readLane me c off n

/-- The walker sets D for every element of a probe that is to be written, before the first is (R339). -/
def State.dirtyElems (s : State) (ps : List Probed) : State :=
  ps.foldl (fun s p => match p.2.2 with
    | .ok (.data t) => s.dirtyTarget (s.who s.cur) t
    | _ => s) s

/-- One element written. send: a peer store leaves for its destination; otherwise its target has accepted it. -/
def State.writeElem (s : State) (send : Bool) (t : VTarget) (n v : Nat) : State :=
  let me := s.who s.cur
  match t with
  | .data t => s.writeTarget me false t n v none
  | .lane c off => if send then s.sendPeer me c off n v else s.writeLane me c off n v none

/-- The elements of a probe loaded, in ascending order: values with their poison. -/
def State.loadElems (s : State) (n : Nat) : List Probed → List (Nat × Nat × Option Poison) × State
  | [] => ([], s)
  | (i, _, .ok t) :: rest =>
    let (r, s) := s.readElem t n
    let (rs, s) := s.loadElems n rest
    ((i, r.1, r.2) :: rs, s)
  | (_, _, .error _) :: rest => s.loadElems n rest

/-- The elements of a probe stored, in ascending order. -/
def State.storeElems (s : State) (send : Bool) (n : Nat) (v : Nat → Nat) : List Probed → State
  | [] => s
  | (i, _, .ok t) :: rest => (s.writeElem send t n (v i)).storeElems send n v rest
  | (_, _, .error _) :: rest => s.storeElems send n v rest

/-- A vector access: its space and kind, the operands it names, the address of element i, the elements it reads besides the
mask, those it writes, the fault group of a mask-returning form, and whether its elements translate through the TLB banks of
their lane groups (R240). -/
structure VAccess where
  sp   : VSpace
  kind : AKind
  mask : Mask
  rd   : List (Reg × Nat)
  d    : Reg
  addr : Hart → Nat → Word
  f    : Option Reg
  idx  : Bool := false

/-- The participating elements P. -/
def Hart.parts (x : Hart) (m : Mask) : List Nat :=
  (List.range x.vl).filter fun i => x.vstart ≤ i && x.active m i

def VAccess.touch (a : VAccess) (x : Hart) : List (Nat × Nat × Nat) :=
  maskTouch (maskRegs a.mask) x.vstart x ++
    (x.parts a.mask).flatMap fun i =>
      (a.d.toNat, x.ew, i) :: (match a.f with
        | some f => [(f.toNat, x.ew, i)]
        | none => []) ++ a.rd.map fun o => (o.1.toNat, o.2, i)

/-- The first poisoned element that the access reads. -/
def VAccess.poison (a : VAccess) (x : Hart) : Option (Nat × Poison) :=
  if x.core.vs.vPoison.isEmpty then none else
    ((List.range x.vl).filter fun i => x.vstart ≤ i && x.core.vs.em.getLsbD i).findSome? fun i =>
      let m := (maskRegs a.mask).findSome? fun c => x.elemPoison c.toNat x.ew i
      let r := if x.active a.mask i then a.rd.findSome? fun o => x.elemPoison o.1.toNat o.2 i else none
      (m <|> r).map fun p => (i, p)

/-- The fault group does not overlap the groups of D and B (R242). -/
def VAccess.faultFits (a : VAccess) (x : Hart) (idx : List (Reg × Nat)) : Bool :=
  match a.f with
  | none => true
  | some f =>
    let c := x.core.vs.cfg
    c.maskFits f.toNat && !overlaps f.toNat c.p a.d.toNat c.p &&
      idx.all fun o => !overlaps f.toNat c.p o.1.toNat (c.groupSize o.2)

/-- Every element of a probe that is performed reaches memory of class I or lane memory (R241). -/
def splittable (ps : List Probed) : Bool :=
  ps.all fun p => match p.2.2 with
    | .ok (.data (.mem xl (.dram _))) => xl.idem
    | .ok (.data (.mem xl (.host _ _))) => xl.idem
    | .ok (.lane _ _) | .error _ => true
    | _ => false

/-- SCLASS of a vector access (spec/17_counters_debug.md Table 17.7). -/
def sampleClass : Instr → Nat
  | .vlds .. | .vsts .. => 1
  | .vldx .. | .vstx .. | .vldxM .. | .vamo .. => 2
  | .vldL .. | .vstL .. => 3
  | .vldxL .. | .vstxL .. => 4
  | .vpgather .. | .vpscatter .. | .vstP .. => 5
  | _ => 0

/-- STRIDE of a vector access (Table 17.6). -/
def sampleStride (x : Hart) : Instr → Word
  | .vlds _ _ b .. | .vsts _ _ b .. => x.readG b
  | .vld .. | .vst .. | .vldL .. | .vstL .. | .vstP .. => BitVec.ofNat 64 x.core.vs.cfg.ew.bytes
  | _ => 0

/-- R393: a vector access that performed the elements of as, which missed a TLB that often, has completed; the VI's period
says whether a SAMPLE record describes it. Cycles and conflicts depend on timing and are free values. -/
def State.sample (s : State) (i : Instr) (x : Hart) (as : List Word) (misses : Nat) : State :=
  let c := coreOf s.cur
  let v := x.who.vi.toNat
  match (s.vi v).trace with
  | none => s
  | some t =>
    if !t.cores.contains c then s else
      let n := tget 0 (s.core c).sampled v + 1
      let s := s.modCore c fun y => { y with sampled := tset y.sampled v (n % max 1 t.period) }
      if n % max 1 t.period ≠ 0 then s else
        let (k, s) := s.draw
        let (f, s) := s.draw
        let cyc := (Config.freeWord k).toNat % 2 ^ 32
        let conf := (Config.freeWord f).toNat / 2 ^ 32
        let distinct := fun (z : Nat) => (as.map fun a => a.toNat / z).eraseDups.length
        let cpe := if as.isEmpty then 2 ^ 32 - 1 else cyc * 256 / as.length % 2 ^ 32
        s.traceRec s.cur 0x10 x.core.pc (BitVec.ofNat 64 cyc) 0 (BitVec.ofNat 64 (sampleClass i + as.length * 2 ^ 32))
          [(sampleStride x i).toNat, distinct 4096 % 2 ^ 16 * 2 ^ 48 + misses % 2 ^ 16 * 2 ^ 32 + distinct 128, cpe * 2 ^ 32 + conf]

/-- What an access has done: the element writes, the lines of its atomics, and its requests on their way to their homes. -/
structure Performed where
  ws    : List VWrite
  lines : List Nat := []
  ids   : List Nat := []

/-- The logical lane group of element i. -/
def Hart.groupOf (x : Hart) (w i : Nat) : Nat := i % x.perReg w / (1024 / w)

/-- The instruction stops at element b with the elements below it performed; an atomic's results may still await the
acknowledgements of their lines. -/
def State.stopPart (s : State) (b : Nat) (p : Performed) : Out :=
  .next (s.modMe fun y =>
    if s.net.invals.any fun i => p.lines.contains i.line then
      let w : Window := { pc := y.core.pc, left := 0, gw := [], vw := p.ws, fl := 0, await := .acks p.lines }
      { y.stopAt b with windows := y.windows ++ [w] }
    else (y.modVs fun v => p.ws.foldl VState.landV v).stopAt b)

/-- The instruction completes: results that have not been answered stay in its window, unless a stream takes them: the
acknowledgements that they need have then come (spec/12_engines_handlers.md R283). -/
def State.vanswered (s : State) (u : VUse) (la : BitVec 4) (p : Performed) (acq sets : Bool) : Out :=
  let f := fun (y : Hart) => if u.strips then y.vend.giveStrips [] else y.vend
  if !p.ids.isEmpty then s.doneAwait la (.atomic p.ids) f acq p.ws
  else if s.me.core.vs.binds.any (fun b => b.2.out && u.writeRegs.contains b.2.reg) then
    (s.ackLines p.lines).vland u la p.ws 0 sets
  else if s.net.invals.any fun i => p.lines.contains i.line then s.doneAcks la p.lines [] p.ws f
  else s.vland u la p.ws 0 sets

/-- What the probe of an element found waits: an access of bytes that an atomic or store of the hart on its way is still to reach
(spec/09_consistency.md R214), a write of an ownership entry whose block copies use (R234), and an atomic that is performed at
once while earlier ones of its core to that home are on their way (spec/12_engines_handlers.md R292). -/
def State.heldElem (s : State) (me : Who) (k : AKind) (travel : Bool) (n : Nat) (p : Probed) : Bool :=
  match p.2.2 with
  | .ok (.data t) => s.targetMet me.uid t n || (k.writes && s.ownerBusy t) ||
      (k == .atomic && s.atmAhead me.core t && !(travel && match t with
        | .mem xl (.dram pa) => s.travels xl pa
        | _ => false))
  | _ => false

/-- R239: the probe pass of an access, then what it performs on the elements without a fault; the mask-returning forms write
their faults to v[F] and VFLAGS. perform answers what it did; its first argument says whether results may stay out. A strip is
taken once the probe has passed (spec/12_engines_handlers.md R283). -/
def State.vaccess (s0 : State) (i : Instr) (la : BitVec 4) (u : VUse) (ok : Hart → Bool) (a : VAccess)
    (perform : Bool → State → Hart → List Probed → Performed × State) (acq : Bool := false) : Out :=
  s0.vector i u ok a.touch fun s =>
    let x := s.me
    if x.vl ≤ x.vstart then (s.sample i x [] 0).vdone u id else
    match a.poison x with
    | some (n, p) => s.trapAt p.cause.toCause p.addr n
    | none =>
      let n := x.core.vs.cfg.ew.bytes
      let me := s.who s.cur
      let (ps, walks, s) := s.probeElems a.sp a.kind n (fun i => if a.idx then some (x.groupOf x.ew i) else none) {}
        ((x.parts a.mask).map fun i => (i, a.addr x i))
      let mask := s.watchMask me a.kind n ps
      let stop := match a.f with
        | none => probeTrap mask ps
        | some _ => probeTrap mask (ps.filter fun p => match faultOf p with
            | some (.watch, _) => true
            | _ => false)
      match stop with
      | some t => (s.modMe fun y => y.modVs fun _ => s0.me.core.vs).trapWith t
      | none =>
        let split := if splittable ps then x.splitAt else none
        let ps : List Probed := match split with
          | some b => ps.filter fun p => p.1 < b
          | none => ps
        let travel := split.isNone && !(x.core.vs.binds.any fun b => b.2.out && u.writeRegs.contains b.2.reg)
        if ps.any (s.heldElem me a.kind travel n) then s0.stall else
        let (done, s) := perform travel s x ps
        let faults := ps.map fun p => (p.1, (faultOf p).isSome)
        let done := match a.f with
          | none => done
          | some f => { done with ws := done.ws ++ faults.map fun e => x.vwrite f.toNat x.ew e.1 (maskValue x.ew e.2) none }
        match split with
        | some b => s.stopPart b done
        | none =>
        let s := s.sample i x (ps.filterMap fun p => if (faultOf p).isSome then none else some p.2.1) walks.misses
        match a.f with
        | none => s.vanswered u la done acq false
        | some _ =>
          (s.modMe fun y => y.modVs fun v => { v with flags := vflagsOf (faults.map Prod.snd) }).vanswered u la done acq true

/-- A load: v[D].e[i] receives the value. -/
def doLoad (d : Reg) (_ : Bool) (s : State) (x : Hart) (ps : List Probed) : Performed × State :=
  let (vs, s) := s.loadElems x.core.vs.cfg.ew.bytes ps
  ({ ws := vs.map fun e => x.vwrite d.toNat x.ew e.1 e.2.1 e.2.2 }, s)

/-- A store of v[D].e[i]. -/
def doStore (send : Bool) (d : Reg) (_ : Bool) (s : State) (x : Hart) (ps : List Probed) : Performed × State :=
  ({ ws := [] }, (s.dirtyElems ps).storeElems send x.core.vs.cfg.ew.bytes (fun i => x.elem d.toNat x.ew i) ps)

/-- The operands of a vector access. -/
def State.maccess (s : State) (load : Bool) (d : Reg) (gs : List Reg) (idx : List (Reg × Nat)) (m : Mask) (f : Option Reg) :
    VUse :=
  let w := s.me.ew
  if load then { rd := idx, wr := [(d, w)], masks := maskRegs m, gs := gs, also := f.toList }
  else { rd := (d, w) :: idx, wr := [], masks := maskRegs m, gs := gs, also := f.toList }

/-- A load form. -/
def State.vload (s : State) (i : Instr) (sp : VSpace) (d : Reg) (gs : List Reg) (idx : List (Reg × Nat)) (m : Mask)
    (la : BitVec 4) (f : Option Reg) (addr : Hart → Nat → Word) : Out :=
  let a : VAccess := { sp := sp, kind := .load, mask := m, rd := idx, d := d, addr := addr, f := f, idx := !idx.isEmpty }
  s.vaccess i la (s.maccess true d gs idx m f) (fun x => a.faultFits x idx) a (doLoad d)

/-- A store form. -/
def State.vstore (s : State) (i : Instr) (sp : VSpace) (send : Bool) (d : Reg) (gs : List Reg) (idx : List (Reg × Nat)) (m : Mask)
    (la : BitVec 4) (f : Option Reg) (addr : Hart → Nat → Word) : Out :=
  let a : VAccess := { sp := sp, kind := .store, mask := m, rd := (d, s.me.ew) :: idx, d := d, addr := addr, f := f,
                       idx := !idx.isEmpty }
  s.vaccess i la (s.maccess false d gs idx m f) (fun x => a.faultFits x idx) a (doStore send d)

/-- base + i × EW/8. -/
def unitAddr (a b : Reg) (imm : Word) (x : Hart) (i : Nat) : Word :=
  x.base a b imm + BitVec.ofNat 64 (i * x.core.vs.cfg.ew.bytes)

/-- g[A] + IMM + i × g[B]. -/
def strideAddr (a b : Reg) (imm : Word) (x : Hart) (i : Nat) : Word :=
  x.readG a + imm + BitVec.ofNat 64 i * x.readG b

/-- g[A] + (v[B].e[i] << SCALE). -/
def indexAddr (a b : Reg) (iw : Ew) (scale : BitVec 2) (x : Hart) (i : Nat) : Word :=
  x.readG a + BitVec.ofNat 64 (x.elem b.toNat iw.width i <<< scale.toNat)

/-- vld. -/
def execVld (d a b : Reg) (imm : Word) (m : Mask) (la : BitVec 4) (s : State) : Out :=
  s.vload (.vld d a b imm m la) .data d [a, b] [] m la none (unitAddr a b imm)

/-- vst. -/
def execVst (d a b : Reg) (imm : Word) (m : Mask) (la : BitVec 4) (s : State) : Out :=
  s.vstore (.vst d a b imm m la) .data false d [a, b] [] m la none (unitAddr a b imm)

/-- vlds. -/
def execVlds (d a b : Reg) (imm : Word) (m : Mask) (la : BitVec 4) (s : State) : Out :=
  s.vload (.vlds d a b imm m la) .data d [a, b] [] m la none (strideAddr a b imm)

/-- vsts. -/
def execVsts (d a b : Reg) (imm : Word) (m : Mask) (la : BitVec 4) (s : State) : Out :=
  s.vstore (.vsts d a b imm m la) .data false d [a, b] [] m la none (strideAddr a b imm)

/-- vldx. -/
def execVldx (d a b : Reg) (iw : Ew) (scale : BitVec 2) (m : Mask) (la : BitVec 4) (s : State) : Out :=
  s.vload (.vldx d a b iw scale m la) .data d [a] [(b, iw.width)] m la none (indexAddr a b iw scale)

/-- vstx. -/
def execVstx (d a b : Reg) (iw : Ew) (scale : BitVec 2) (m : Mask) (la : BitVec 4) (s : State) : Out :=
  s.vstore (.vstx d a b iw scale m la) .data false d [a] [(b, iw.width)] m la none (indexAddr a b iw scale)

/-- vld.l. -/
def execVldL (d a b : Reg) (imm : Word) (m : Mask) (la : BitVec 4) (s : State) : Out :=
  s.vload (.vldL d a b imm m la) .own d [a, b] [] m la none (unitAddr a b imm)

/-- vst.l. -/
def execVstL (d a b : Reg) (imm : Word) (m : Mask) (la : BitVec 4) (s : State) : Out :=
  s.vstore (.vstL d a b imm m la) .own false d [a, b] [] m la none (unitAddr a b imm)

/-- vldx.l. -/
def execVldxL (d a b : Reg) (iw : Ew) (scale : BitVec 2) (m : Mask) (la : BitVec 4) (s : State) : Out :=
  s.vload (.vldxL d a b iw scale m la) .own d [a] [(b, iw.width)] m la none (indexAddr a b iw scale)

/-- vstx.l. -/
def execVstxL (d a b : Reg) (iw : Ew) (scale : BitVec 2) (m : Mask) (la : BitVec 4) (s : State) : Out :=
  s.vstore (.vstxL d a b iw scale m la) .own false d [a] [(b, iw.width)] m la none (indexAddr a b iw scale)

/-- The peer address of element i: v[B].e[i] at 64 bits. -/
def peerIndex (b : Reg) (x : Hart) (i : Nat) : Word := BitVec.ofNat 64 (x.elem b.toNat 64 i)

/-- vpgather (R242). -/
def execVpgather (d b : Reg) (f : BitVec 6) (m : Mask) (la : BitVec 4) (s : State) : Out :=
  s.vload (.vpgather d b f m la) .peer d [] [(b, 64)] m la (some f) (peerIndex b)

/-- vpscatter (R242): every target has accepted its element before v[F] is written. -/
def execVpscatter (d b : Reg) (f : BitVec 6) (m : Mask) (la : BitVec 4) (s : State) : Out :=
  s.vstore (.vpscatter d b f m la) .peer false d [] [(b, 64)] m la (some f) (peerIndex b)

/-- vst.p: peer stores on their way. -/
def execVstP (d a b : Reg) (imm : Word) (m : Mask) (la : BitVec 4) (s : State) : Out :=
  s.vstore (.vstP d a b imm m la) .peer true d [a, b] [] m la none (unitAddr a b imm)

/-- vldx.m (R242). -/
def execVldxM (d a b : Reg) (iw : Ew) (scale : BitVec 2) (f : BitVec 6) (m : Mask) (la : BitVec 4) (s : State) : Out :=
  s.vload (.vldxM d a b iw scale f m la) .data d [a] [(b, iw.width)] m la (some f) (indexAddr a b iw scale)

/-- An atomic on the page that the probe of an element found may combine: a DRAM page of class I (spec/08_memories.md R197). -/
def combines (p : Probed) : Bool := match p.2.2 with
  | .ok (.data (.mem xl (.dram _))) => xl.idem
  | _ => false

/-- The elements that combine in the core's address unit (R243), in the order of their first: with CMB those that share an
address, the lowest first. -/
def amoGroups (cmb : Bool) : List Probed → List (List Probed)
  | [] => []
  | p :: ps =>
    let with_ := fun (q : Probed) => cmb && combines p && q.2.1 == p.2.1
    if (cmb && combines p) then
      (p :: ps.filter with_) :: (amoGroups cmb ps).filterMap fun g =>
        let g := g.filter fun q => !with_ q
        if g.isEmpty then none else some g
    else [p] :: amoGroups cmb ps

/-- The operand of elements combined, and each with the operand that had been combined before it (R224). -/
def amoTree (op : AmoOp) (n : Nat) (v : Nat → Nat) (ps : List Probed) : Nat × List (Nat × Option Word) :=
  match ps with
  | [] => (0, [])
  | p :: rest => rest.foldl (fun (t : Nat × List (Nat × Option Word)) q =>
      (amoNew op n t.1 (v q.1), t.2 ++ [(q.1, some (BitVec.ofNat 64 t.1))])) (v p.1, [(p.1, none)])

/-- What an element of a combined request reads when its home answers the old value. -/
def amoSplit (op : AmoOp) (n old : Nat) : Option Word → Nat
  | none => old
  | some y => amoNew op n old y.toNat

/-- One request of a vamo: performed at its home, or with travel on its way there. -/
def State.amoGroup (s : State) (q : AtmReq) (d : Reg) (x : Hart) (travel : Bool) (p : Performed) (ps : List Probed) :
    Performed × State :=
  match ps with
  | (_, _, .ok (.data t)) :: _ =>
    let me := s.who s.cur
    let n := q.bytes
    let (y, es) := amoTree q.op n (fun i => x.elem d.toNat x.ew i) ps
    let here := fun (s : State) =>
      let ((old, bad), s) := s.amoTarget me t n fun o => some (amoNew q.op n o y)
      ({ p with lines := p.lines ++ t.line,
                ws := p.ws ++ es.map fun e => x.vwrite d.toNat x.ew e.1 (amoSplit q.op n old e.2) bad }, s)
    match t with
    | .mem xl (.dram pa) =>
      if travel && s.travels xl pa then
        let (id, s) := s.netId
        let q := { q with id := id, addr := pa, x := BitVec.ofNat 64 y, xl := xl,
                          elems := es.map fun e => (x.vwrite d.toNat x.ew e.1 0 none, e.2) }
        ({ p with ids := p.ids ++ [id] }, { s with net := { s.net with atms := s.net.atms ++ [q] } })
      else here s
    | _ => here s
  | _ => (p, s)

/-- vamo (R243). -/
def execVamo (op : AmoOp) (cmb : Bool) (d a b : Reg) (iw : Ew) (scale : BitVec 2) (acq rel : Bool) (m : Mask) (la : BitVec 4)
    (s : State) : Out :=
  let idx := [(b, iw.width)]
  let w := s.me.ew
  let sc := s.me.core.vs.cfg.sc
  let u : VUse := { rd := (d, w) :: idx, wr := [(d, w)], masks := maskRegs m, gs := [a] }
  let v : VAccess := { sp := .data, kind := .atomic, mask := m, rd := (d, w) :: idx, d := d, addr := indexAddr a b iw scale,
                       f := none, idx := true }
  let go := fun (s : State) =>
    s.vaccess (.vamo op cmb d a b iw scale acq rel m la) la u
      (fun x => x.ew == 32 || (x.ew == 64 && op != .fadd)) v (acq := acq) fun travel s x ps =>
        let q : AtmReq := { id := 0, hart := s.cur, uid := x.who.uid, addr := 0, op := op, wide := x.ew == 64, x := 0, scope := sc,
                            cmb := cmb, dest := 0, elems := [], src := coreOf s.cur, acq := acq, xl := noXlat,
                            absorbed := none, reply := none, pc := x.core.pc }
        let (p, s) := (amoGroups cmb ps).foldl (fun (r : Performed × State) g => r.2.amoGroup q d x travel r.1 g)
          ({ ws := [] }, s.dirtyElems ps)
        (p, if acq && p.ids.isEmpty then s.acquire (coreOf s.cur) sc else s)
  if rel then s.released sc go else go s

end Sys2Proof.Machine
end

