-- ==== Sys2Proof/Machine/Block.lean ====
section
/-! DEFINITION. Accesses of whole blocks, all-or-nothing (spec/07_matrix_isa.md R182): the probe of every piece before any is
performed, in the data space or in lane memory. -/

namespace Sys2Proof.Machine

open Sys2Proof

/-- A piece of a block: its address, its bytes, which lie in one line, and the element it is. -/
structure Piece where
  addr : Word
  n    : Nat
  elem : Nat
  deriving DecidableEq, Repr

/-- A piece in the data space: pages of class D and register windows raise ACCESS (R182). Each page is translated once. -/
def State.probeData (s : State) (w : Who) (k : AKind) (memo : Walks) (p : Piece) :
    Except MemFault VTarget × Walks × State :=
  if isSheet p.addr then
    let (r, s) := s.probe w k p.addr p.n
    (match r with
      | .ok t => .ok (.data t)
      | .error e => .error e, memo, s)
  else
    let known := (memo.get k p.addr.toNat).isSome
    let (r, memo, s) := s.xlateIn w false k p.addr memo
    match r with
    | .error c => (.error (c, p.addr), memo, s)
    | .ok x =>
      let pl := place (x.page * 4096 + p.addr.toNat % 4096)
      let fine := match pl with
        | .dram _ | .host _ _ => x.idem
        | _ => false
      let (refused, s) : Bool × State := match pl, known with
        | .host _ _, false =>
          let (f, s) := s.draw
          (Config.freeBit f, s)
        | _, _ => (false, s)
      (if !fine || refused then .error (.access, p.addr)
       else if (s.hart w.hart).watches w.mode k p.addr p.n then .error (.watch, p.addr)
       else .ok (.data (.mem x pl)), memo, s)

/-- A piece of a block; sp: in the lane memory of the core. -/
def State.probePiece (s : State) (w : Who) (sp : Bool) (k : AKind) (memo : Walks) (p : Piece) :
    Except MemFault VTarget × Walks × State :=
  if sp then
    (if s.laneProbe w.core w.vi false p.addr.toNat p.n then .ok (.lane w.core p.addr.toNat) else .error (.access, p.addr), memo, s)
  else s.probeData w k memo p

/-- The probe of every piece. -/
def State.probePieces (s : State) (w : Who) (sp : Bool) (k : AKind) (memo : Walks) :
    List Piece → List (Piece × Except MemFault VTarget) × State
  | [] => ([], s)
  | p :: ps =>
    let (r, memo, s) := s.probePiece w sp k memo p
    let (rs, s) := s.probePieces w sp k memo ps
    ((p, r) :: rs, s)

/-- The fault with the lowest address. -/
def lowestFault (rs : List (Piece × Except MemFault VTarget)) : Option (Piece × MemFault) :=
  rs.foldl (fun best r => match r.2, best with
    | .error e, none => some (r.1, e)
    | .error e, some b => if r.1.addr.toNat < b.1.addr.toNat then some (r.1, e) else best
    | .ok _, _ => best) none

/-- The trap of a failed probe (R182), with the missing pages and the watch mask. -/
def State.blockTrap (s : State) (w : Who) (k : AKind) (rs : List (Piece × Except MemFault VTarget)) : Option TrapInfo :=
  (lowestFault rs).map fun b =>
    let hit := rs.filter fun r => s.watched w k r.1.n (r.1.elem, r.1.addr, r.2)
    { cause := b.2.1, tval := b.2.2, telem := b.1.elem, pages := missingPages (rs.map fun r => (r.1.elem, r.1.addr, r.2)),
      wmask := if b.2.1 == .watch then some (maskOf (hit.map fun r => r.1.elem)) else none }

/-- The targets of a probe without a fault. -/
def targetsOf (rs : List (Piece × Except MemFault VTarget)) : List (Piece × VTarget) :=
  rs.filterMap fun r => match r.2 with
    | .ok t => some (r.1, t)
    | .error _ => none

/-- The values of pieces, in order. -/
def State.readPieces (s : State) (w : Who) : List (Piece × VTarget) → List (Nat × Option Poison) × State
  | [] => ([], s)
  | (p, t) :: rest =>
    let (v, s) := match t with
      | .data t => s.readTarget w false t p.n
      | .lane c off => s.readLane w c off p.n
    let (vs, s) := s.readPieces w rest
    (v :: vs, s)

/-- Values put into pieces, in order. -/
def State.putPieces (s : State) (w : Who) : List (Piece × VTarget) → List (Nat × Option Poison) → State
  | (p, t) :: rest, v :: vs =>
    let s := match t with
      | .data t => s.writeTarget w false t p.n v.1 v.2
      | .lane c off => s.writeLane w c off p.n v.1 v.2
    s.putPieces w rest vs
  | _, _ => s

/-- The lane memory that pieces with clean values cover. -/
def lanePieces (ps : List (Piece × VTarget)) (vs : List (Nat × Option Poison)) : List (Nat × Nat) :=
  (ps.zip vs).filterMap fun e => match e.1.2, e.2.2 with
    | .lane _ off, none => some (off, e.1.1.n)
    | _, _ => none

/-- Values written to pieces, in order, after the walker has set D for all of them (R339). A word of lane memory that they write
whole is clean (spec/08_memories.md R187). -/
def State.writePieces (s : State) (w : Who) (ps : List (Piece × VTarget)) (vs : List (Nat × Option Poison)) : State :=
  let s := ps.foldl (fun s p => match p.2 with
    | .data t => s.dirtyTarget w t
    | .lane _ _ => s) s
  (s.putPieces w ps vs).modCore w.core fun c => c.cleanWords (lanePieces ps vs)

/-- The bytes of pieces with the first poison among them. -/
def piecesBytes (ps : List (Piece × VTarget)) (vs : List (Nat × Option Poison)) : List Byte :=
  ((ps.zip vs).map fun e => leBytes e.1.1.n e.2.1).flatten

end Sys2Proof.Machine
end

