-- ==== Sys2Proof/Machine/Matrix.lean ====
section
/-! DEFINITION. The matrix unit (spec/07_matrix_isa.md R157-R184): the claim, tiles, panels, mma, mvt, decode tables, remote
commands as the sender sees them, and class 0xE. The narrow-format instructions are in Narrow.lean. -/

namespace Sys2Proof

/-- The float format of a tile transfer; none: bits move unchanged. -/
def TFmt.k : TFmt → Option Machine.FpK
  | .h => some .h
  | .bf => some .bf
  | .s => none

/-- Bytes of an element in memory. -/
def TFmt.size : TFmt → Nat
  | .h | .bf => 2
  | .s => 4

/-- Depth K of a format (spec/07_matrix_isa.md R160). -/
def MFmt.depth : MFmt → Nat
  | .h | .bf => 32
  | .q8 => 64
  | .q4 => 128

end Sys2Proof

namespace Sys2Proof.Machine

open Sys2Proof

/-! ## Tiles, panels and their poison -/

def Matrix.tile (m : Matrix) (t : Nat) : Tile := tget 0 m.tiles t
def Matrix.panel (m : Matrix) (slot p : Nat) : Panel := tget 0 m.panels (16 * slot + p)

/-- Element (m, n) of a tile as number 32 m + n. -/
def tileElem (t : Tile) (e : Nat) : Nat := (t.toNat >>> (32 * e)) % 2 ^ 32

/-- A tile with some elements written. -/
def tilePut (t : Tile) (es : List (Nat × Nat)) : Tile :=
  BitVec.ofNat 32768 (es.foldl (fun a e =>
    (a &&& (2 ^ 32768 - 1 - (2 ^ 32 - 1) <<< (32 * e.1))) ||| ((e.2 % 2 ^ 32) <<< (32 * e.1))) t.toNat)

/-- A panel from its 4,096 bytes. -/
def panelOf (bs : List Byte) : Panel := BitVec.ofNat 32768 (leNat bs)

/-- n bytes of a panel as a number. -/
def panelNat (p : Panel) (off n : Nat) : Nat := (p.toNat >>> (8 * off)) % 2 ^ (8 * n)

/-- Elements of a tile written, with their poison. -/
def Matrix.putTile (m : Matrix) (t : Nat) (es : List (Nat × Nat × Option Poison)) : Matrix :=
  { m with tiles := tset m.tiles t (tilePut (m.tile t) (es.map fun e => (e.1, e.2.1))),
           tPoison := if m.tPoison.isEmpty && es.all (fun e => e.2.2.isNone) then [] else
             es.foldl (fun p e => tput p (1024 * t + e.1) e.2.2) m.tPoison }

/-- A panel written whole, with the poison of its 8-byte words; the first poison listed for a word is the one it keeps. -/
def Matrix.putPanel (m : Matrix) (slot p : Nat) (v : Panel) (poison : List (Nat × Poison)) : Matrix :=
  let k := 16 * slot + p
  let keep := m.wPoison.filter fun e => e.1 / 512 != k
  { m with panels := tset m.panels k v,
           wPoison := poison.foldr (fun e t => tset t (512 * k + e.1) e.2) keep }

/-- The first poison among elements of a tile. -/
def Matrix.tilePoison (m : Matrix) (t : Nat) (es : List Nat) : Option (Nat × Poison) :=
  if m.tPoison.isEmpty then none else es.findSome? fun e => (tfind m.tPoison (1024 * t + e)).map fun p => (e, p)

/-- The poison of bytes [lo, hi) of a panel. -/
def Matrix.panelPoison (m : Matrix) (slot p lo hi : Nat) : Option Poison :=
  if m.wPoison.isEmpty then none else
    (List.range' (lo / 8) ((hi - lo) / 8)).findSome? fun w => tfind m.wPoison (512 * (16 * slot + p) + w)

def State.matrix (s : State) (c : Nat) : Matrix := (s.core c).mat
def State.modMatrix (s : State) (c : Nat) (f : Matrix → Matrix) : State :=
  s.modCore c fun x => { x with mat := f x.mat }

/-! ## The claim (R158) -/

/-- The task instance of a hart as a claim. -/
def Identity.claim (w : Identity) : Claim := { queue := w.queue, lseq := w.lseq, index := w.index, vi := w.vi }

/-- First byte of a unit of a VI's context pool (spec/18_traps.md R418). -/
def TrapConf.unitAddr (t : TrapConf) (unit : Nat) : Nat := t.pool.toNat + 0x80000 * unit

/-- The tiles and slots that a matrix save area holds, with the poison of its lines (spec/18_traps.md R417). -/
def State.savedMatrix (s : State) (base : Nat) (c : SavedClaim) : Matrix :=
  let word := fun off n => leNat (s.physRead (base + off) n)
  { tiles := (List.range 8).map fun t => (t, BitVec.ofNat 32768 (word (0x1000 * t) 4096)),
    panels := (List.range 64).map fun k => (k, BitVec.ofNat 32768 (word (0x8000 + 0x1000 * k) 4096)),
    tPoison := savedPoison 1024 32 0, wPoison := savedPoison 512 16 0x8000, claim := some c.claim }
where
  /-- Poison of items that fill pages of per items at an offset, n to a line: those of the lines that hold poison. -/
  savedPoison (per n off : Nat) : Tab Poison :=
    if s.phys.poison.isEmpty then [] else
      let pages := if off = 0 then 8 else 64
      (List.range (per / n * pages)).flatMap fun l => match place (base + off + 128 * l) with
        | .dram a => (match tfind s.phys.poison (a / 128) with
          | some p => (List.range n).map fun k => (n * l + k, p)
          | none => [])
        | _ => []

/-- The claim of a core given to an instance: its saved state restored, or everything zeroed. -/
def State.giveClaim (s : State) (core : Nat) (c : Claim) : State :=
  let v := s.vi c.vi.toNat
  match v.claims.find? fun e => e.claim == c with
  | some e =>
    let m := s.savedMatrix (v.trap.unitAddr e.unit) e
    let s := s.modMatrix core fun _ => m
    s.modVi c.vi.toNat fun y =>
      { y with claims := y.claims.filter fun o => o.unit != e.unit, trap := { y.trap with units := y.trap.units.filter (· != e.unit) } }
  | none => s.modMatrix core fun _ => { tiles := [], panels := [], tPoison := [], wPoison := [], claim := some c }

/-- An instruction that has passed its checks takes the claim, or waits for it. -/
def State.withClaim (s : State) (k : State → Out) : Out :=
  let core := coreOf s.cur
  let me := s.me.who.claim
  match (s.matrix core).claim with
  | none => k (s.giveClaim core me)
  | some c => if c == me then k s else .next (s.modMe fun x => x.setSt (.waiting .claim))

/-! ## Tile transfers (R166, R167) -/

/-- The pieces of a tile in memory. -/
def tilePieces (base st : Word) (z : Nat) : List Piece :=
  (List.range 1024).map fun e =>
    { addr := base + BitVec.ofNat 64 (e / 32) * st + BitVec.ofNat 64 (e % 32 * z), n := z, elem := e }

/-- The row stride: 32 × z for 0. -/
def tileStride (st : Word) (z : Nat) : Word := if st == 0 then BitVec.ofNat 64 (32 * z) else st

/-- An element from memory, widened exactly. -/
def tileIn (f : TFmt) (v : Nat) : Nat × Flags :=
  match f.k with
  | none => (v, 0)
  | some k => fCvt .s k .rne v

/-- An element to memory, narrowed. -/
def tileOut (f : TFmt) (rm : RMode) (sat : Bool) (v : Nat) : Nat × Flags :=
  match f.k with
  | none => (v, 0)
  | some k =>
    let r := fCvt k .s rm v
    let finite := match Fp.unpack .s v with
      | .fin _ _ _ => true
      | _ => false
    if sat && finite && r.2 &&& fOF != 0 then (k.maxFinite (v.testBit 31), r.2) else r

/-- A tile loaded through probed pieces: the flags, and the state. -/
def State.loadTile (s : State) (w : Who) (c t : Nat) (f : TFmt) (ps : List (Piece × VTarget)) : Flags × State :=
  let (vs, s) := s.readPieces w ps
  let rs := vs.map fun v => (tileIn f v.1, v.2)
  (rs.foldl (fun a r => a ||| r.1.2) 0,
   s.modMatrix c fun m => m.putTile t (rs.mapIdx fun e r => (e, r.1.1, r.2)))

/-- A tile stored through probed pieces. -/
def State.storeTile (s : State) (w : Who) (c t : Nat) (f : TFmt) (rm : RMode) (sat : Bool) (ps : List (Piece × VTarget)) :
    Flags × State :=
  let tile := (s.matrix c).tile t
  let rs := (List.range 1024).map fun e => tileOut f rm sat (tileElem tile e)
  (rs.foldl (fun a r => a ||| r.2) 0, s.writePieces w ps (rs.map fun r => (r.1, none)))

/-- A matrix instruction before its memory and claim: frozen vector unit, poisoned registers. -/
def State.matrixOp (s : State) (i : Instr) (gs : List Reg) (k : Hart → Out) : Out := s.claimedOnly i (s.withG gs k)

/-- mclr (R166). -/
def execMclr (t : BitVec 3) (s : State) : Out :=
  s.matrixOp (.mclr t) [] fun x => s.withClaim fun s =>
    ((s.charge x.G).modMatrix (coreOf s.cur) fun m =>
      m.putTile t.toNat ((List.range 1024).map fun e => (e, 0, none))).done Hart.vend

/-- mld.t and vmld. -/
def State.tileLoad (s : State) (i : Instr) (f : TFmt) (t : BitVec 3) (a b : Reg) (sp : Bool) (imm : Word) (la : BitVec 4) : Out :=
  s.matrixOp i [a, b] fun x =>
    let z := f.size
    let base := x.readG a + imm
    let st := tileStride (x.readG b) z
    if base.toNat % z ≠ 0 || st.toNat % z ≠ 0 then s.trap .align base else
    let w := s.who s.cur
    let (rs, s) := s.probePieces w sp .load {} (tilePieces base st z)
    match s.blockTrap w .load rs with
    | some tr => s.trapWith tr
    | none => s.withClaim fun s =>
      let (fl, s) := (s.charge x.G).loadTile w (coreOf s.cur) t.toNat f (targetsOf rs)
      s.doneLa la [] [] fl Hart.vend

/-- mst.t and vmst: a poisoned element traps before any is stored (R157). -/
def State.tileStore (s : State) (i : Instr) (f : TFmt) (rm : RMode) (sat : Bool) (t : BitVec 3) (a b : Reg) (sp : Bool) (imm : Word)
    (la : BitVec 4) : Out :=
  s.matrixOp i [a, b] fun x =>
    let z := f.size
    let base := x.readG a + imm
    let st := tileStride (x.readG b) z
    if base.toNat % z ≠ 0 || st.toNat % z ≠ 0 then s.trap .align base else
    let w := s.who s.cur
    let (rs, s) := s.probePieces w sp .store {} (tilePieces base st z)
    match s.blockTrap w .store rs with
    | some tr => s.trapWith tr
    | none => s.withClaim fun s =>
      match (s.matrix (coreOf s.cur)).tilePoison t.toNat (List.range 1024) with
      | some (e, p) => s.trapAt p.cause.toCause p.addr e
      | none =>
        let (fl, s) := (s.charge x.G).storeTile w (coreOf s.cur) t.toNat f rm sat (targetsOf rs)
        s.doneLa la [] [] fl Hart.vend

/-- mld.t. -/
def execMldT (f : TFmt) (t : BitVec 3) (a b : Reg) (sp : Bool) (imm : Word) (la : BitVec 4) (s : State) : Out :=
  s.tileLoad (.mldT f t a b sp imm la) f t a b sp imm la

/-- mst.t. -/
def execMstT (f : TFmt) (rm : RmF) (sat : Bool) (t : BitVec 3) (a b : Reg) (sp : Bool) (imm : Word) (la : BitVec 4) (s : State) : Out :=
  s.tileStore (.mstT f rm sat t a b sp imm la) f (s.me.rm rm) sat t a b sp imm la

/-- vmld: mld.t.s with SP = 0 (R183). -/
def execVmld (t : BitVec 3) (a b : Reg) (imm : Word) (la : BitVec 4) (s : State) : Out :=
  s.tileLoad (.vmld t a b imm la) .s t a b false imm la

/-- vmst: mst.t.s with SP = 0 (R183). -/
def execVmst (t : BitVec 3) (a b : Reg) (imm : Word) (la : BitVec 4) (s : State) : Out :=
  s.tileStore (.vmst t a b imm la) .s .rne false t a b false imm la

/-- bmsk (R183): bit i mod 64 of g[A]. -/
def execBmsk (d a : Reg) (m : Mask) (s : State) : Out :=
  s.elementwise (.bmsk d a m) 0 { wr := [(d, s.me.ew)], masks := maskRegs m, gs := [a] } (fun _ => true) fun x =>
    { d := d, dw := x.ew, mask := m, src := [], f := fun y n => ((y.readG a).toNat >>> (n % 64) % 2, 0) }

/-! ## Panels (R161-R163, R168) -/

/-- Pieces of 16 bytes of a contiguous range. -/
def chunkPieces (a : Word) (n : Nat) : List Piece :=
  (List.range (n / 16)).map fun k => { addr := a + BitVec.ofNat 64 (16 * k), n := 16, elem := 0 }

/-- The pieces of an image: scales and 32 columns in form 0, contiguous otherwise (Table 07.3). -/
def imagePieces (f : WForm) (scl : Bool) (a st : Word) : List Piece :=
  match f with
  | .dense =>
    let st : Word := if st == 0 then 64 else st
    (if scl then chunkPieces a 512 else []) ++
      (List.range 32).flatMap fun n => chunkPieces (a + (if scl then 512 else 0) + BitVec.ofNat 64 n * st) 64
  | .c24 => chunkPieces a 2048
  | .s48 => chunkPieces a 3584

/-- n bytes of a list from an offset. -/
def sliceOf (bs : List Byte) (off n : Nat) : List Byte := (bs.drop off).take n

/-- Nibble g of a column's 16 index bytes (R163). -/
def indexNibble (bs : List Byte) (g : Nat) : Nat := ((bs.getD (g / 2) 0).toNat >>> (4 * (g % 2))) % 16

/-- A nibble that names two positions p0 < p1. -/
def nibbleOk (n : Nat) : Bool := n % 4 < n / 4

/-- The groups that the index of a column describes: 8, 16 or 32, the formats' counts; otherwise the first nibble that no
format allows (notes/assumptions/11.md). -/
def indexGroups (bs : List Byte) : Except Nat Nat :=
  let fits := fun (f g : Nat) => if g < f then nibbleOk (indexNibble bs g) else indexNibble bs g == 0
  let upTo := fun (f : Nat) => (findBelow (fun g => !fits f g) 32).getD 32
  match [8, 16, 32].find? fun f => upTo f == 32 with
  | some f => .ok f
  | none => .error (max (upTo 8) (max (upTo 16) (upTo 32)))

/-- A DATA column from its kept values: groups of four values of z half-bytes, written as half-bytes. -/
def expandColumn (index kept : List Byte) (groups : Nat) : List Byte :=
  let z := 32 / groups
  let half := fun (bs : List Byte) (k : Nat) => ((bs.getD (k / 2) 0).toNat >>> (4 * (k % 2))) % 16
  let at_ := fun (h : Nat) =>
    let v := h / z
    let nb := indexNibble index (v / 4)
    let sel : Option Nat := if v % 4 = nb % 4 then some 0 else if v % 4 = nb / 4 then some 1 else none
    match sel with
    | some j => half kept ((2 * (v / 4) + j) * z + h % z)
    | none => 0
  (List.range 64).map fun k => BitVec.ofNat 8 (at_ (2 * k) + 16 * at_ (2 * k + 1))

/-- A META halfword that obeys R163. -/
def metaOk (h : Nat) : Bool :=
  h / 4096 == 0 && h % 8 < h / 8 % 8 && h / 8 % 8 < h / 64 % 8 && h / 64 % 8 < h / 512 % 8

/-- The panel of an image, or the offset of the first byte that breaks R163. bad: the pieces of 16 bytes of a contiguous
image that are poisoned; what they hold is not judged. -/
def panelImage (f : WForm) (scl : Bool) (bad : Nat → Bool) (bs : List Byte) : Except Nat Panel :=
  let zeros := fun n => List.replicate n (0 : Byte)
  match f with
  | .dense =>
    let sc := if scl then bs.take 512 else zeros 512
    .ok (panelOf (sc ++ zeros 1024 ++ (if scl then bs.drop 512 else bs) ++ zeros 512))
  | .c24 =>
    let cols := (List.range 32).map fun n =>
      let ix := sliceOf bs (512 + 16 * n) 16
      (n, ix, if bad (32 + n) then .ok 8 else indexGroups ix)
    match cols.findSome? fun c => match c.2.2 with
      | .error g => some (512 + 16 * c.1 + g / 2)
      | .ok _ => none with
    | some off => .error off
    | none =>
      let data := cols.flatMap fun c => match c.2.2 with
        | .ok g => expandColumn c.2.1 (sliceOf bs (1024 + 32 * c.1) 32) g
        | .error _ => []
      .ok (panelOf (bs.take 512 ++ zeros 1024 ++ data ++ zeros 512))
  | .s48 =>
    match (List.range 512).find? fun k => !bad (32 + k / 8) && !metaOk (leNat (sliceOf bs (512 + 2 * k) 2)) with
    | some k => .error (512 + 2 * k)
    | none => .ok (panelOf (bs.take 3584 ++ zeros 512))

/-- The 8-byte words of a panel that piece k of an image feeds (Table 07.3): a column's INDEX feeds all of its DATA, and each
half of its KEPT values half of it. -/
def imageFeeds (f : WForm) (scl : Bool) (k : Nat) : List Nat :=
  let pair := fun w => [w, w + 1]
  match f with
  | .dense => if scl then (if k < 32 then pair (2 * k) else pair (192 + 2 * (k - 32))) else pair (192 + 2 * k)
  | .c24 =>
    if k < 32 then pair (2 * k) else if k < 64 then List.range' (192 + 8 * (k - 32)) 8 else List.range' (192 + 4 * (k - 64)) 4
  | .s48 => pair (2 * k)

/-- The panel that an image in probed pieces gives, with the poison of its words; or the offset of the first byte that breaks
R163. A poisoned piece poisons the panel words it feeds (R157). -/
def State.readPanel (s : State) (w : Who) (f : WForm) (scl : Bool) (ps : List (Piece × VTarget)) :
    Except Nat (Panel × List (Nat × Poison)) × State :=
  let (vs, s) := s.readPieces w ps
  let bad := (vs.mapIdx fun k v => v.2.map fun p => (k, p)).filterMap id
  (match panelImage f scl (fun k => bad.any fun e => e.1 == k) (piecesBytes ps vs) with
    | .ok v => .ok (v, bad.flatMap fun e => (imageFeeds f scl e.1).map fun w => (w, e.2))
    | .error off => .error off, s)

/-- The alignment of an image (R168). -/
def imageAligned (f : WForm) (a st : Word) : Bool :=
  a.toNat % 16 == 0 && (f != .dense || st == 0 || (st.toNat % 16 == 0 && 64 ≤ st.toNat))

/-- mld.w. -/
def execMldW (slot : BitVec 2) (panel : BitVec 4) (form : WForm) (scl : Bool) (a b : Reg) (sp : Bool) (imm : Word) (la : BitVec 4)
    (s : State) : Out :=
  s.matrixOp (.mldW slot panel form scl a b sp imm la) (if form == .dense then [a, b] else [a]) fun x =>
    let addr := x.readG a + imm
    let st : Word := if form == .dense then x.readG b else 0
    if !imageAligned form addr st then s.trap .align addr else
    let w := s.who s.cur
    let (rs, s) := s.probePieces w sp .load {} (imagePieces form scl addr st)
    match s.blockTrap w .load rs with
    | some tr => s.trapWith tr
    | none => 
      let (r, s1) := s.readPanel w form scl (targetsOf rs)
      match r with
      | .error off => s1.trap .rsvdField (addr + BitVec.ofNat 64 off)
      | .ok (v, p) => s1.withClaim fun s =>
        ((s.charge x.G).modMatrix (coreOf s.cur) fun m => m.putPanel slot.toNat panel.toNat v p).doneLa la [] [] 0 Hart.vend

/-! ## Decode tables as a VI sees them (R93, spec/15_tables.md R356) -/

/-- Table n for a VI: never loaded when another VI loaded it. -/
def Core.dt (c : Core) (vi : BitVec 7) (n : Nat) : DecTab :=
  match c.dts.toList[n]? with
  | some t => if t.owner == some vi.toNat then t else DecTab.reset
  | none => DecTab.reset

/-- The first poison among entries (table, code). -/
def Core.dtPoison (c : Core) (vi : BitVec 7) (es : List (Nat × Nat)) : Option Poison :=
  if (List.range 4).all fun n => (c.dt vi n).poison.isEmpty then none else
    es.findSome? fun e => tfind (c.dt vi e.1).poison e.2

/-- dtab.ld (R172): an image word with a bit above 18 changes nothing (R93). -/
def execDtabLd (n : BitVec 2) (a : Reg) (sp : Bool) (imm : Word) (la : BitVec 4) (s : State) : Out :=
  s.matrixOp (.dtabLd n a sp imm la) [a] fun x =>
    let addr := x.readG a + imm
    if addr.toNat % 4 ≠ 0 then s.trap .align addr else
    let w := s.who s.cur
    let ps := (List.range 256).map fun k => ({ addr := addr + BitVec.ofNat 64 (4 * k), n := 4, elem := 0 } : Piece)
    let (rs, s) := s.probePieces w sp .load {} ps
    match s.blockTrap w .load rs with
    | some tr => s.trapWith tr
    | none => 
      let (vs, s) := s.readPieces w (targetsOf rs)
      match findBelow (fun k => match vs[k]? with
          | some v => v.2.isNone && 2 ^ 19 ≤ v.1
          | none => false) 256 with
      | some k => s.trap .rsvdField (addr + BitVec.ofNat 64 (4 * k))
      | none =>
        let t := BitVec.ofNat 8192 (leNat (vs.flatMap fun v => leBytes 4 (v.1 % 2 ^ 19)))
        let ps := (vs.mapIdx fun k v => v.2.map fun p => (k, p)).filterMap id
        let tab : DecTab := { entries := t, loaded := true, enc := dtEnc t, owner := some x.who.vi.toNat, poison := ps }
        ((s.charge x.G).modCore (coreOf s.cur) fun c => { c with dts := c.dts.set n.toNat tab }).doneLa la [] [] 0 Hart.vend

/-! ## mma (R164, R169, R170) -/

/-- A group of operand values with its scale word, for coded formats. -/
structure MGroup where
  scale : Option Nat
  vals  : List Fp

/-- The 4-bit or 8-bit code j of codes stored by bytes: byte answers byte k. -/
def codeAt (q : Code) (byte : Nat → Nat) (j : Nat) : Nat :=
  match q with
  | .q8 => byte j
  | .q4 => (byte (j / 2) >>> (4 * (j % 2))) % 16

/-- Values of codes through the table of a scale word. -/
def Core.decodeGroup (c : Core) (vi : BitVec 7) (q : Code) (sw : Nat) (byte : Nat → Nat) (j0 : Nat) : MGroup :=
  let t := (c.dt vi (scaleTab sw)).entries
  { scale := some sw, vals := (List.range 32).map fun j => dtValue t (codeAt q byte (j0 + j)) }

/-- The table entries that a group decodes. -/
def groupCodes (q : Code) (sw : Nat) (byte : Nat → Nat) (j0 : Nat) : List (Nat × Nat) :=
  (List.range 32).map fun j => (scaleTab sw, codeAt q byte (j0 + j))

/-- The code width of a coded format. -/
def MFmt.code : MFmt → Code
  | .q4 => .q4
  | _ => .q8

/-- The groups of row m of A in vector registers (R164). -/
def Hart.aGroups (x : Hart) (c : Core) (f : MFmt) (a : Reg) (m : Nat) : List MGroup :=
  let n := a.toNat
  match f with
  | .h | .bf =>
    let k := if f = .h then FpK.h else FpK.bf
    (List.range 2).map fun b =>
      { scale := none, vals := (List.range 16).map fun j => Fp.unpack k (x.elem n 16 (m * 32 + 16 * b + j)) }
  | .q8 | .q4 =>
    let nb := f.depth / 32
    (List.range nb).map fun b =>
      c.decodeGroup x.who.vi (MFmt.code f) (x.elem (n + 1) 32 (m * nb + b)) (x.elem n 8) (m * f.depth + 32 * b)

/-- The groups of column n of a panel (R169). -/
def panelGroups (c : Core) (vi : BitVec 7) (f : MFmt) (p : Panel) (n : Nat) : List MGroup :=
  let base := 0x600 + 64 * n
  match f with
  | .h | .bf =>
    let k := if f = .h then FpK.h else FpK.bf
    (List.range 2).map fun b =>
      { scale := none, vals := (List.range 16).map fun j => Fp.unpack k (panelNat p (base + 2 * (16 * b + j)) 2) }
  | .q8 | .q4 =>
    (List.range (f.depth / 32)).map fun b =>
      c.decodeGroup vi (MFmt.code f) (panelNat p (4 * (32 * b + n)) 4) (fun k => panelNat p (base + k) 1) (32 * b)

/-- The accumulator of one output element after its groups (R101). -/
def mmaElem (sat : Bool) (acc : Nat) (as bs : List MGroup) : Nat × Flags :=
  (as.zip bs).foldl (fun r g =>
    let sc := match g.1.scale, g.2.scale with
      | some x, some y => some (x, y)
      | _, _ => none
    mmaStep sat r sc g.1.vals g.2.vals) (acc, 0)

/-- Rows row0 onwards of a tile after the product of rows of A and the columns of B: elements and flags. -/
def mmaTile (sat : Bool) (t : Tile) (row0 : Nat) (rows cols : List (List MGroup)) : List (Nat × Nat × Flags) :=
  (rows.mapIdx fun m as => cols.mapIdx fun n bs =>
    let e := 32 * (row0 + m) + n
    let r := mmaElem sat (tileElem t e) as bs
    (e, r.1, r.2)).flatten

/-- The tile elements and flags written. -/
def State.putRows (s : State) (c t : Nat) (es : List (Nat × Nat × Flags)) : Flags × State :=
  (es.foldl (fun a e => a ||| e.2.2) 0, s.modMatrix c fun m => m.putTile t (es.map fun e => (e.1, e.2.1, none)))

/-- Elements of whole registers, for landed bits. -/
def wholeRegs (ns : List Nat) (x : Hart) : List (Nat × Nat × Nat) :=
  ns.flatMap fun n => (List.range x.G).map fun k => (n, 64, 16 * k)

/-- The first poisoned element of width w among those of a register group. -/
def Hart.regPoison (x : Hart) (n w count : Nat) : Option (Nat × Poison) :=
  if x.core.vs.vPoison.isEmpty then none else
    (List.range count).findSome? fun i => (x.elemPoison n w i).map fun p => (i, p)

/-- A poisoned operand of a matrix instruction: a register element, a tile element or a panel byte. -/
def firstPoison : List (Option (Nat × Poison)) → Option (Nat × Poison)
  | [] => none
  | some r :: _ => some r
  | none :: rest => firstPoison rest

/-- mma. -/
def execMma (f : MFmt) (sat : Bool) (t : BitVec 3) (a : Reg) (slot : BitVec 2) (panel : BitVec 4) (row0 : BitVec 5) (la : BitVec 4)
    (s : State) : Out :=
  let rs := if f.coded then [a, a + 1] else [a]
  let u : VUse := { raw := rs, flat := true }
  s.vector (.mma f sat t a slot panel row0 la) u (fun x => row0.toNat + 2 * x.G ≤ 32) (wholeRegs (rs.map fun r => r.toNat)) fun s =>
    let x := s.me
    let rows := 2 * x.G
    let k := f.depth
    match firstPoison [x.regPoison a.toNat (if f.coded then 8 else 16) (x.G * 1024 / (if f.coded then 8 else 16)),
        if f.coded then x.regPoison (a + 1).toNat 32 (rows * (k / 32)) else none] with
    | some (e, p) => s.trapAt p.cause.toCause p.addr e
    | none => s.withClaim fun s =>
      let c := s.core (coreOf s.cur)
      let v := c.mat.panel slot.toNat panel.toNat
      let byte := fun (n j : Nat) => panelNat v (0x600 + 64 * n + j) 1
      let codes := if !f.coded then [] else
        ((List.range rows).flatMap fun m => (List.range (k / 32)).flatMap fun b =>
          groupCodes (MFmt.code f) (x.elem (a + 1).toNat 32 (m * (k / 32) + b)) (x.elem a.toNat 8) (m * k + 32 * b)) ++
        ((List.range 32).flatMap fun n => (List.range (k / 32)).flatMap fun b =>
          groupCodes (MFmt.code f) (panelNat v (4 * (32 * b + n)) 4) (byte n) (32 * b))
      match firstPoison [c.mat.tilePoison t.toNat (List.range' (32 * row0.toNat) (32 * rows)),
          (if f.coded then c.mat.panelPoison slot.toNat panel.toNat 0 (4 * k) else none).map fun p => (0, p),
          (c.mat.panelPoison slot.toNat panel.toNat 0x600 0xE00).map fun p => (0, p),
          (c.dtPoison x.who.vi codes).map fun p => (0, p)] with
      | some (e, p) => s.trapAt p.cause.toCause p.addr e
      | none =>
        let es := mmaTile sat (c.mat.tile t.toNat) row0.toNat ((List.range rows).map (x.aGroups c f a))
          ((List.range 32).map (panelGroups c x.who.vi f v))
        let (fl, s) := (s.charge x.G).putRows (coreOf s.cur) t.toNat es
        s.doneLa la [] [] fl (acc := false) fun y => (y.modVs fun v => { v with vstart := 0 }).giveStrips []

/-- The dense column that META and DATA describe (R170): values of 128 positions. -/
def sparseByte (p : Panel) (n k : Nat) : Option Nat :=
  let h := panelNat p (0x200 + 32 * n + 2 * (k / 8)) 2
  match (List.range 4).find? fun j => (h >>> (3 * j)) % 8 = k % 8 with
  | some j => some (panelNat p (0x600 + 64 * n + 4 * (k / 8) + j) 1)
  | none => none

def sparseGroups (c : Core) (vi : BitVec 7) (p : Panel) (n : Nat) : List MGroup :=
  (List.range 4).map fun b =>
    let sw := panelNat p (4 * (32 * b + n)) 4
    let t := (c.dt vi (scaleTab sw)).entries
    { scale := some sw, vals := (List.range 32).map fun j => match sparseByte p n (32 * b + j) with
        | some code => dtValue t code
        | none => .fin false 0 0 }

/-- mma.s48: an experimental opcode, bound to stepping B0 (spec/02_encoding.md R62). -/
def execMmaS48 (sat : Bool) (t : BitVec 3) (a : Reg) (slot : BitVec 2) (panel : BitVec 4) (row0 : BitVec 5) (la : BitVec 4)
    (s : State) : Out :=
  let i : Instr := .mmaS48 sat t a slot panel row0 la
  if s.stepping = .a0 then s.trap .lifetime (lowWord i) else
  let u : VUse := { raw := [a, a + 1, a + 2], flat := true }
  s.vector i u (fun x => row0.toNat + 2 * x.G ≤ 32) (wholeRegs [a.toNat, a.toNat + 1, a.toNat + 2]) fun s0 =>
    let x := s0.me
    let rows := 2 * x.G
    match firstPoison [x.regPoison a.toNat 8 (rows * 128), x.regPoison (a + 2).toNat 32 (rows * 4)] with
    | some (e, p) => s0.trapAt p.cause.toCause p.addr e
    | none => s0.withClaim fun s =>
      let c := s.core (coreOf s.cur)
      let v := c.mat.panel slot.toNat panel.toNat
      match c.mat.panelPoison slot.toNat panel.toNat 0x200 0x600 with
      | some p => s0.trapAt p.cause.toCause p.addr 0
      | none =>
      if !((List.range 512).all fun k => metaOk (panelNat v (0x200 + 2 * k) 2)) then s0.trap .rsvdField (lowWord i) else
      let codes :=
        ((List.range rows).flatMap fun m => (List.range 4).flatMap fun b =>
          groupCodes .q8 (x.elem (a + 2).toNat 32 (m * 4 + b)) (x.elem a.toNat 8) (m * 128 + 32 * b)) ++
        ((List.range 32).flatMap fun n => (List.range 128).filterMap fun k =>
          (sparseByte v n k).map fun code => (scaleTab (panelNat v (4 * (32 * (k / 32) + n)) 4), code))
      match firstPoison [c.mat.tilePoison t.toNat (List.range' (32 * row0.toNat) (32 * rows)),
          (c.mat.panelPoison slot.toNat panel.toNat 0 0xE00).map fun p => (0, p),
          (c.dtPoison x.who.vi codes).map fun p => (0, p)] with
      | some (e, p) => s.trapAt p.cause.toCause p.addr e
      | none =>
        let arow := fun (m : Nat) => (List.range 4).map fun b =>
          c.decodeGroup x.who.vi .q8 (x.elem (a + 2).toNat 32 (m * 4 + b)) (x.elem a.toNat 8) (m * 128 + 32 * b)
        let es := mmaTile sat (c.mat.tile t.toNat) row0.toNat ((List.range rows).map arow)
          ((List.range 32).map (sparseGroups c x.who.vi v))
        let (fl, s) := (s.charge x.G).putRows (coreOf s.cur) t.toNat es
        s.doneLa la [] [] fl (acc := false) fun y => (y.modVs fun v => { v with vstart := 0 }).giveStrips []

/-! ## mvt (R171) -/

/-- mvt: rows row0 to row0 + G − 1 of a tile and one register at width 32. -/
def execMvt (toTile : Bool) (d a : Reg) (row0 : BitVec 5) (s : State) : Out :=
  let u : VUse := if toTile then { raw := [a], flat := true } else { also := [d], flat := true }
  let r := if toTile then a else d
  s.vector (.mvt toTile d a row0) u (fun x => row0.toNat + x.G ≤ 32) (wholeRegs [r.toNat]) fun s =>
    let x := s.me
    let n := 32 * x.G
    let base := 32 * row0.toNat
    match (if toTile then x.regPoison a.toNat 32 n else none) with
    | some (e, p) => s.trapAt p.cause.toCause p.addr e
    | none => s.withClaim fun s =>
      let c := coreOf s.cur
      let s := s.charge x.G
      if toTile then
        (s.modMatrix c fun m => m.putTile d.toNat ((List.range n).map fun i => (base + i, x.elem a.toNat 32 i, none))).vdone u id
      else
        match (s.matrix c).tilePoison a.toNat (List.range' base n) with
        | some (e, p) => s.trapAt p.cause.toCause p.addr e
        | none =>
          let t := (s.matrix c).tile a.toNat
          s.vdone u fun y => (List.range n).foldl (fun y i => y.setElem d.toNat 32 i (tileElem t (base + i)) none) y

/-! ## Remote matrix commands: the sender (R178-R181) -/

/-- mcmd: the descriptor is read and sent to the core that g[A] names, and the status comes by events. -/
def execMcmd (trap : Bool) (d a b c : Reg) (la : BitVec 4) (s : State) : Out :=
  s.matrixOp (.mcmd trap d a b c la) [a, b, c] fun x =>
    let addr := x.readG c
    if addr.toNat % 64 ≠ 0 then s.trap .align addr else
    let w := s.who s.cur
    let ps := (List.range 8).map fun k => ({ addr := addr + BitVec.ofNat 64 (8 * k), n := 8, elem := 0 } : Piece)
    let (rs, s) := s.probePieces w false .load {} ps
    match s.blockTrap w .load rs with
    | some tr => s.trapWith tr
    | none => 
      let (vs, s) := s.readPieces w (targetsOf rs)
      match vs.findSome? Prod.snd with
      | some p => (s.charge x.G).doneLa la [(d, 0, some p)] [] 0 Hart.vend
      | none =>
        if bitsOf (x.readG a) 63 10 ≠ 0 then (s.charge x.G).doneLa la [(d, 0x42, none)] [] 0 Hart.vend else
        s.released x.core.vs.cfg.sc fun s =>
          let (id, s) := (s.charge x.G).netId
          let m : Mcmd := { id := id, hart := s.cur, uid := x.who.uid, vi := x.who.vi, space := x.sys.space, mode := x.core.mode,
                            sc := x.core.vs.cfg.sc, core := bitsOf (x.readG a) 9 0, cap := x.readG b,
                            desc := vs.map fun v => BitVec.ofNat 64 v.1, trap := trap, dest := d, pc := x.core.pc, status := none }
          ({ s with net := { s.net with mcmds := s.net.mcmds ++ [m] } }).doneAwait la (.mcmd id) Hart.vend

/-- mwait (R181): a status that failed its capability traps here at the latest (R180). -/
def execMwait (s : State) : Out :=
  s.matrixOp .mwait [] fun x =>
    if x.windows.any fun w => match w.await with
      | .mcmd _ => true
      | _ => false then s.waitPoll
    else match x.caps with
      | c :: _ => s.trapWith { cause := .matrixCap, tval := c.2, cap := some c }
      | [] => (s.charge x.G).done id

end Sys2Proof.Machine
end

