-- ==== Sys2Proof/Machine/Narrow.lean ====
section
/-! DEFINITION. The narrow-format vector instructions (spec/07_matrix_isa.md R173-R177). -/

namespace Sys2Proof

/-- e8 elements of a block. -/
def Code.span : Code → Nat
  | .q8 => 32
  | .q4 => 16

/-- Entries of a table that the code names (R94). -/
def Code.entries : Code → Nat
  | .q8 => 256
  | .q4 => 16

/-- Registers of the binary32 side. -/
def Code.wideRegs : Code → Nat
  | .q8 => 4
  | .q4 => 8

end Sys2Proof

namespace Sys2Proof.Machine

open Sys2Proof

/-- What R173 asks at issue, of the pair registers and the binary32 groups. -/
def Hart.narrowOk (x : Hart) (q : Code) (pairs wides : List Reg) : Bool :=
  let c := x.core.vs.cfg
  c.w == 8 && c.p == 1 && c.vl.toNat % q.span == 0 && pairs.all (fun r => r.toNat % 2 == 0) &&
    wides.all fun r => r.toNat % q.wideRegs == 0

/-- The active blocks: none with VSTART ≥ VL. -/
def Hart.blocks (x : Hart) (q : Code) (m : Mask) : List Nat :=
  if x.vl ≤ x.vstart then [] else (List.range (x.vl / q.span)).filter fun b => x.active m (q.span * b)

/-- The codes of block b of a pair: the elements of its first register. -/
def blockCells (q : Code) (n b : Nat) : List (Nat × Nat × Nat) :=
  (List.range q.span).map fun k => (n, 8, q.span * b + k)

/-- The scale word of block b. -/
def scaleCell (n b : Nat) : Nat × Nat × Nat := (n + 1, 32, b)

/-- The binary32 elements of block b of a group. -/
def wideCells (n b : Nat) : List (Nat × Nat × Nat) := (List.range 32).map fun k => (n, 32, 32 * b + k)

/-- A narrow-format instruction: rd and wr list, for an active block, the elements it reads and writes. -/
def State.narrow (s : State) (i : Instr) (q : Code) (m : Mask) (pairs wides : List Reg) (gs src dst : List Reg)
    (rd wr : Nat → List (Nat × Nat × Nat)) (k : State → Hart → VUse → Out) : Out :=
  let u : VUse := { raw := src, also := dst, masks := maskRegs m, gs := gs }
  s.vector i u (fun x => x.narrowOk q pairs wides)
    (fun x => (if x.vl ≤ x.vstart then [] else
        ((List.range (x.vl / q.span)).filter fun b => x.core.vs.em.getLsbD (q.span * b)).flatMap fun b =>
          (maskRegs m).map fun c => (c.toNat, 8, q.span * b)) ++
      (x.blocks q m).flatMap fun b => rd b ++ wr b) fun s =>
    let x := s.me
    let bad := if x.core.vs.vPoison.isEmpty then none else
      (x.blocks q m).findSome? fun b => (rd b ++ (maskRegs m).map fun (c : Reg) => (c.toNat, 8, q.span * b)).findSome? fun (e : Nat × Nat × Nat) =>
        (x.elemPoison e.1 e.2.1 e.2.2).map fun p => (q.span * b, p)
    match bad with
    | some (n, p) => s.trapAt p.cause.toCause p.addr n
    | none => k s x u

/-- The core's tables for the hart. -/
def State.myDt (s : State) (n : Nat) : DecTab := (s.core (coreOf s.cur)).dt s.me.who.vi n

/-- The first table that active blocks' scale words name and that cannot encode (R173): NaN blocks consult none. -/
def State.badTable (s : State) (q : Code) (words : List Nat) : Option Nat :=
  words.findSome? fun w =>
    if scaleNan w || dtEncodable (s.myDt (scaleTab w)).entries q then none else some (scaleTab w)

/-- Elements written by their cells. -/
def Hart.putCells (x : Hart) (es : List ((Nat × Nat × Nat) × Nat)) : Hart :=
  es.foldl (fun y e => y.setElem e.1.1 e.1.2.1 e.1.2.2 e.2 none) x

/-- 32 codes as the values of their cells. -/
def packCodes (q : Code) (codes : List Nat) : List Nat :=
  match q with
  | .q8 => codes
  | .q4 => (List.range 16).map fun k => codes.getD (2 * k) 0 + 16 * codes.getD (2 * k + 1) 0

/-- Blocks encoded: word b, and 32 values for it. The scale word goes to v[D+1], the codes to v[D]. -/
def State.encodeBlocks (s : State) (q : Code) (d : Reg) (bs : List (Nat × Nat × List (Nat × Flags))) (u : VUse) : Out :=
  match s.badTable q (bs.map fun b => b.2.1) with
  | some n => s.trap .encodeTable (BitVec.ofNat 64 n)
  | none =>
    match (s.core (coreOf s.cur)).dtPoison s.me.who.vi
        (bs.flatMap fun b => if scaleNan b.2.1 then [] else (List.range q.entries).map fun c => (scaleTab b.2.1, c)) with
    | some p => s.trapAt p.cause.toCause p.addr 0
    | none =>
      let rs := bs.map fun b =>
        let t := (s.myDt (scaleTab b.2.1)).entries
        let cs := b.2.2.map fun v =>
          let r := encodeCode t q b.2.1 v.1
          (r.1, v.2 ||| r.2)
        (b.1, b.2.1, cs)
      let fl := rs.foldl (fun a r => r.2.2.foldl (fun a c => a ||| c.2) a) (0 : Flags)
      s.vdone u fun y => (y.putCells (rs.flatMap fun r =>
        (scaleCell d.toNat r.1, r.2.1) :: (blockCells q d.toNat r.1).zip (packCodes q (r.2.2.map Prod.fst)))).raise fl

/-- vcvt.q (R174). A signalling NaN input raises NV. -/
def execVcvtQ (q : Code) (d a b : Reg) (m : Mask) (s : State) : Out :=
  s.narrow (.vcvtQ q d a b m) q m [d] [a] [] [a, b] [d, d + 1]
    (fun n => (b.toNat, 32, n) :: wideCells a.toNat n) (fun n => scaleCell d.toNat n :: blockCells q d.toNat n) fun s x u =>
    s.encodeBlocks q d ((x.blocks q m).map fun n =>
      (n, x.elem b.toNat 32 n, (wideCells a.toNat n).map fun e => (x.elem e.1 e.2.1 e.2.2, (0 : Flags)))) u

/-- vcvt.dq (R175). A decode through a poisoned table entry gives poison (spec/08_memories.md Table 08.8). -/
def execVcvtDq (q : Code) (sat : Bool) (d a : Reg) (m : Mask) (s : State) : Out :=
  s.narrow (.vcvtDq q sat d a m) q m [a] [d] [] [a, a + 1] [d]
    (fun n => scaleCell a.toNat n :: blockCells q a.toNat n) (wideCells d.toNat) fun s x u =>
    let c := s.core (coreOf s.cur)
    let code := fun (n j : Nat) => codeAt q (fun k => x.elem a.toNat 8 (q.span * n + k)) j
    let rs := (x.blocks q m).flatMap fun n =>
      let sw := x.elem (a + 1).toNat 32 n
      let t := (s.myDt (scaleTab sw)).entries
      (wideCells d.toNat n).mapIdx fun j cell =>
        if scaleNan sw then (cell, (FpK.s.nan, fNV), none) else
          match c.dtPoison x.who.vi [(scaleTab sw, code n j)] with
          | some p => (cell, (0, 0), some { p with addr := x.core.pc })
          | none => (cell, satScaled sat (dtValue t (code n j)) [scaleFp sw], none)
    s.vdone u fun y => (rs.foldl (fun y r => y.setElem r.1.1 r.1.2.1 r.1.2.2 r.2.1.1 r.2.2) y).raise
      (rs.foldl (fun a r => a ||| r.2.1.2) 0)

/-- vscl (R176): tab[2] selects a new table. -/
def execVscl (q : Code) (sat : Bool) (d a b : Reg) (tab : BitVec 3) (m : Mask) (s : State) : Out :=
  s.narrow (.vscl q sat d a b tab m) q m [d, a] [] [b] [a + 1] [d + 1]
    (fun n => [scaleCell a.toNat n]) (fun n => [scaleCell d.toNat n]) fun s x u =>
    let t := if tab.getLsbD 2 then some (tab.toNat % 4) else none
    let rs := (x.blocks q m).map fun n => (n, scaleBy sat t (x.elem (a + 1).toNat 32 n) (x.readF .s b))
    s.vdone u fun y => (y.putCells (rs.map fun r => (scaleCell d.toNat r.1, r.2.1))).raise (rs.foldl (fun a r => a ||| r.2.2) 0)

/-- vhadq (R104, R177): runs of n elements of each block transformed, rounded and encoded. -/
def execVhadq (q : Code) (d a b : Reg) (n : BitVec 6) (m : Mask) (s : State) : Out :=
  s.narrow (.vhadq q d a b n m) q m [d] [a] [] [a, b] [d, d + 1]
    (fun k => (b.toNat, 32, k) :: wideCells a.toNat k) (fun k => scaleCell d.toNat k :: blockCells q d.toNat k) fun s x u =>
    let len := n.toNat
    s.encodeBlocks q d ((x.blocks q m).map fun k =>
      let vs := (wideCells a.toNat k).map fun e => Fp.unpack .s (x.elem e.1 e.2.1 e.2.2)
      (k, x.elem b.toNat 32 k, (List.range 32).map fun j => hadamard (sliceOf' vs (j / len * len) len) (j % len))) u
where
  /-- A run of a list. -/
  sliceOf' (vs : List Fp) (off n : Nat) : List Fp := (vs.drop off).take n

end Sys2Proof.Machine
end

