-- ==== Sys2Proof/Machine/CtrlRegs.lean ====
section
/-! DEFINITION. Control registers and class 0xD's crr, crw, crset and crclr (spec/03_registers.md R74-R82). -/

namespace Sys2Proof.Machine

open Sys2Proof

/-! ## Modes (R75, Table 03.2) -/

/-- The lowest mode that reads a register; true: mode S. -/
def crReadS (n : Nat) : Bool :=
  (0x040 ≤ n && n ≤ 0x048) || (0x050 ≤ n && n ≤ 0x052) || (0x070 ≤ n && n ≤ 0x07B)

/-- The lowest mode that writes a register; none: no mode does. -/
def crWriteMode (n : Nat) : Option Mode :=
  if n == 0x008 || n == 0x00A || n == 0x00C || n == 0x00E || n == 0x014 then some .u
  else if n == 0x047 || (0x050 ≤ n && n ≤ 0x052) then some .m
  else if n == 0x013 || (0x018 ≤ n && n ≤ 0x01A) || (0x028 ≤ n && n ≤ 0x02B) || (0x040 ≤ n && n ≤ 0x048) || n == 0x062 ||
      (0x070 ≤ n && n ≤ 0x07B) || (0x090 ≤ n && n ≤ 0x09F) then some .s
  else none

/-- A mode is sufficient for another. -/
def Mode.covers (have_ need : Mode) : Bool := need.code ≤ have_.code

/-- R75. -/
def crReadable (mo : Mode) (n : Nat) : Bool := !crReadS n || mo.covers .s

def crWritable (mo : Mode) (n : Nat) : Bool :=
  match crWriteMode n with
  | some need => mo.covers need
  | none => false

/-! ## Reading -/

def TrapSet.status (r : TrapSet) : Nat := (if r.migen then 8 else 0) + (if r.ie then 4 else 0) + r.pmode.code

/-- Register 0x040 + k of a trap set, k = 0-6 and 8. -/
def TrapSet.reg (r : TrapSet) : Nat → Word
  | 0 => r.tvec
  | 1 => r.tcause.setWidth 64
  | 2 => r.tpc
  | 3 => r.tval
  | 4 => r.telem.setWidth 64
  | 5 => r.tsave
  | 6 => BitVec.ofNat 64 r.status
  | _ => r.sscratch

/-- The trap set that a mode reaches (R77). -/
def Hart.trapSet (x : Hart) : TrapSet := if x.core.mode == .m then x.sys.mtrap else x.sys.strap

def QEntry.word (q : QEntry) : Word :=
  BitVec.ofNat 64 (q.kind.toNat * 2 ^ 60 + q.die.toNat * 2 ^ 16 + q.index.toNat)

def GSlot.word (g : GSlot) : Word := BitVec.ofNat 64 ((if g.v then 2 ^ 15 else 0) + g.group.toNat)

def Identity.taskq (w : Identity) : Word :=
  BitVec.ofNat 64 (w.prio.toNat * 2 ^ 24 + w.vi.toNat * 2 ^ 16 + w.queue.toNat)

def Identity.instid (w : Identity) : Word := BitVec.ofNat 64 (w.lseq.toNat * 2 ^ 32 + w.index.toNat)

/-- TILE (spec/07_matrix_isa.md R160). -/
def tileWord (G : Nat) : Word := BitVec.ofNat 64 (0x202000 + 2 * G)

/-- DTSTAT as a VI sees it (spec/15_tables.md R356). -/
def Core.dtstat (c : Core) (vi : BitVec 7) : Word :=
  BitVec.ofNat 64 ((List.range 4).foldl (fun a n =>
    a + (if (c.dt vi n).loaded then 2 ^ n else 0) + (if (c.dt vi n).enc then 2 ^ (4 + n) else 0)) 0)

/-- Item k of a vector of registers; 0 beyond its end. -/
def regAt {α : Type} {n : Nat} (v : Vector α n) (k : Nat) (f : α → Word) : Word :=
  if h : k < n then f v[k] else 0

/-- A control register of a hart as it reads. -/
def State.crValue (s : State) (h n : Nat) : Word :=
  let x := s.hart h
  let v := x.core.vs
  if n = 0x008 then v.cfg.toWord
  else if n = 0x00A then v.vstart.setWidth 64
  else if n = 0x00C then BitVec.ofNat 64 v.flags.toNat
  else if n = 0x00D then BitVec.ofNat 64 v.mstack.length
  else if n = 0x00E then x.core.fflags.setWidth 64
  else if n = 0x010 then BitVec.ofNat 64 (16 * x.G)
  else if n = 0x011 then tileWord x.G
  else if n = 0x012 then BitVec.ofNat 64 (s.reef (coreOf h))
  else if n = 0x013 then x.lanes.ceil.setWidth 64
  else if n = 0x014 then x.lanes.lreq.setWidth 64
  else if n = 0x018 then x.core.loop.lpc
  else if n = 0x019 then x.core.loop.lcnt
  else if n = 0x01A then x.core.loop.lend
  else if n = 0x020 then BitVec.ofNat 64 h
  else if n = 0x021 then BitVec.ofNat 64 (coreOf h)
  else if n = 0x022 then BitVec.ofNat 64 (dieOf h)
  else if n = 0x023 then x.who.instid
  else if n = 0x024 then x.who.taskq
  else if n < 0x02C then regAt x.sys.gslot (n - 0x028) GSlot.word
  else if n = 0x030 then (s.core (coreOf h)).dtstat x.who.vi
  else if n = 0x038 then BitVec.ofNat 64 (x.eng.oldest.toNat * 2 ^ 16 + x.eng.next.toNat)
  else if n = 0x047 then x.sys.tdeleg
  else if n = 0x049 then BitVec.ofNat 64 x.core.mode.code
  else if n < 0x049 then x.trapSet.reg (n - 0x040)
  else if n = 0x050 then BitVec.ofNat 64 (x.sys.space.iroot.toNat * 4096)
  else if n = 0x051 then BitVec.ofNat 64 (x.sys.space.droot.toNat * 4096)
  else if n = 0x052 then x.sys.space.asid.setWidth 64
  else if n = 0x060 then x.sys.time.cycle
  else if n = 0x061 then x.sys.time.instret
  else if n = 0x062 then x.sys.time.cyccmp
  else if n < 0x074 then regAt x.sys.watch (n - 0x070) fun w => w.base
  else if n < 0x078 then regAt x.sys.watch (n - 0x074) fun w => w.lim
  else if n < 0x07C then regAt x.sys.watch (n - 0x078) fun w =>
    BitVec.ofNat 64 ((if w.st then 4 else 0) + (if w.ld then 2 else 0) + (if w.en then 1 else 0))
  else if n < 0x088 then regAt x.eng.chans (n - 0x080) fun c => c.chwp
  else regAt x.sys.qmap (n - 0x090) QEntry.word

/-! ## Writing (R76, R79) -/

/-- Bits that a writable register does not have. -/
def crReserved (n : Nat) : Word :=
  if n = 0x008 then ~~~ 0x0000FFFF00007337#64
  else if n = 0x00A || n = 0x044 || n = 0x052 then ~~~ 0xFFFF#64
  else if n = 0x00C then ~~~ 7#64
  else if n = 0x00E || n = 0x013 || n = 0x014 then ~~~ 0x1F#64
  else if n = 0x018 || n = 0x01A || n = 0x040 then 0xF#64
  else if 0x028 ≤ n && n ≤ 0x02B then ~~~ 0x80FF#64
  else if n = 0x041 then ~~~ 0xFF#64
  else if n = 0x045 then 0xFFF#64
  else if n = 0x046 then ~~~ 0xF#64
  else if n = 0x050 || n = 0x051 then ~~~ 0x0000FFFFFFFFF000#64
  else if 0x078 ≤ n && n ≤ 0x07B then ~~~ 7#64
  else if 0x090 ≤ n && n ≤ 0x09F then 0x0FFFFFFFFF000000#64
  else 0

/-- Table 03.3: the VCFG that a word names, without the clamp of VL. -/
def VCfg.ofWord (w : Word) : Option VCfg :=
  match RMode.ofNat? (bitsOf w 14 12) with
  | some rm =>
    if w.getLsbD 2 then none
    else some { vl := w.extractLsb' 32 16, rm := rm, sc := w.extractLsb' 8 2, grp := w.extractLsb' 4 2, ew := Ew.ofBits (w.extractLsb' 0 2) }
  | none => none

/-- VL clamped to VLMAX′ at a grant (R79). -/
def VCfg.clamp (c : VCfg) (G : Nat) : VCfg := { c with vl := BitVec.ofNat 16 (min c.vl.toNat (vlmaxAt G c.w c.p)) }

def QEntry.ofWord (w : Word) : QEntry :=
  { kind := w.extractLsb' 60 4, die := w.extractLsb' 16 8, index := w.extractLsb' 0 16 }

/-- Limits of a handle entry (Table 03.3). -/
def QEntry.fits (q : QEntry) : Bool := q.kind.toNat ≤ 3 && q.die.toNat ≤ 7

def Mode.ofCode (n : Nat) : Option Mode :=
  if n = 0 then some .u else if n = 1 then some .s else if n = 3 then some .m else none

/-- A save area lies wholly in DRAM of the VI (spec/18_traps.md R409). -/
def saveAreaSize : Nat := 0x6C000

/-- The fields of a value lie within the limits of Table 03.3. -/
def State.crFits (s : State) (n : Nat) (v : Word) : Bool :=
  v &&& crReserved n == 0 &&
  (if n = 0x008 then (VCfg.ofWord v).isSome
   else if n = 0x013 || n = 0x014 then 1 ≤ v.toNat && v.toNat ≤ 16
   else if n = 0x045 then s.ownsRange s.me.who.vi.toNat v.toNat saveAreaSize
   else if n = 0x046 then v.toNat % 4 ≠ 2
   else if 0x090 ≤ n && n ≤ 0x09F then (QEntry.ofWord v).fits
   else true)

/-- A trap set with register 0x040 + k written. -/
def TrapSet.put (r : TrapSet) (k : Nat) (v : Word) : TrapSet :=
  match k with
  | 0 => { r with tvec := v }
  | 1 => { r with tcause := v.setWidth 8 }
  | 2 => { r with tpc := v }
  | 3 => { r with tval := v }
  | 4 => { r with telem := v.setWidth 16 }
  | 5 => { r with tsave := v }
  | 6 => { r with migen := v.getLsbD 3, ie := v.getLsbD 2, pmode := (Mode.ofCode (v.toNat % 4)).getD .u }
  | _ => { r with sscratch := v }

/-- Item k of a vector changed. -/
def vmod {α : Type} {n : Nat} (v : Vector α n) (k : Nat) (f : α → α) : Vector α n :=
  if h : k < n then v.set k (f v[k]) else v

/-- CEIL changed (spec/18_traps.md R414, spec/03_registers.md R79): a lowering below HELD asks for a reclaim, or joins the one
that is pending; a raise begins none, and to HELD or above it cancels it. -/
def Lanes.setCeil (l : Lanes) (v : Nat) (r : Recipient) : Lanes :=
  let rec_ := if v < l.grant.length then
      (match l.reclaim with
        | some p => some p
        | none => if v < l.ceil.toNat then some { recipient := r, expired := false, late := 0 } else none)
    else none
  { l with ceil := BitVec.ofNat 5 v, reclaim := rec_ }

/-- A register of the hart written with a value that fits. -/
def Hart.putCr (x : Hart) (n : Nat) (v : Word) : Hart :=
  if n = 0x008 then x.modVs fun y => { y with cfg := ((VCfg.ofWord v).getD y.cfg).clamp x.G }
  else if n = 0x00A then x.modVs fun y => { y with vstart := v.setWidth 16 }
  else if n = 0x00C then x.modVs fun y => { y with flags := VFlags.ofNat (v.toNat % 8) }
  else if n = 0x00E then { x with core := { x.core with fflags := v.setWidth 5 } }
  else if n = 0x013 then { x with lanes := x.lanes.setCeil v.toNat .nobody }
  else if n = 0x014 then { x with lanes := { x.lanes with lreq := v.setWidth 5 } }
  else if n = 0x018 then { x with core := { x.core with loop := { x.core.loop with lpc := v } } }
  else if n = 0x019 then { x with core := { x.core with loop := { x.core.loop with lcnt := v } } }
  else if n = 0x01A then { x with core := { x.core with loop := { x.core.loop with lend := v } } }
  else if n < 0x02C then
    { x with sys := { x.sys with gslot := vmod x.sys.gslot (n - 0x028) fun _ => { v := v.getLsbD 15, group := v.setWidth 8 } } }
  else if n = 0x047 then { x with sys := { x.sys with tdeleg := v } }
  else if n < 0x049 then
    if x.core.mode == .m then { x with sys := { x.sys with mtrap := x.sys.mtrap.put (n - 0x040) v } }
    else { x with sys := { x.sys with strap := x.sys.strap.put (n - 0x040) v } }
  else if n = 0x050 then { x with sys := { x.sys with space := { x.sys.space with iroot := v.extractLsb' 12 36 } } }
  else if n = 0x051 then { x with sys := { x.sys with space := { x.sys.space with droot := v.extractLsb' 12 36 } } }
  else if n = 0x052 then { x with sys := { x.sys with space := { x.sys.space with asid := v.setWidth 16 } } }
  else if n = 0x062 then { x with sys := { x.sys with time := { x.sys.time with cyccmp := v } } }
  else if n < 0x074 then { x with sys := { x.sys with watch := vmod x.sys.watch (n - 0x070) fun w => { w with base := v } } }
  else if n < 0x078 then { x with sys := { x.sys with watch := vmod x.sys.watch (n - 0x074) fun w => { w with lim := v } } }
  else if n < 0x07C then
    { x with sys := { x.sys with watch := vmod x.sys.watch (n - 0x078) fun w =>
        { w with en := v.getLsbD 0, ld := v.getLsbD 1, st := v.getLsbD 2 } } }
  else { x with sys := { x.sys with qmap := vmod x.sys.qmap (n - 0x090) fun _ => QEntry.ofWord v } }

/-! ## The instructions (R80, R81) -/

/-- crr, crw, crset and crclr: new is the value written, when one is. -/
def State.crAccess (s : State) (i : Instr) (d : Reg) (src : List Reg) (cr : BitVec 12) (new : Option (Hart → Word → Word)) : Out :=
  let n := cr.toNat
  let mo := s.me.core.mode
  if !crReadable mo n || (new.isSome && !crWritable mo n) then s.trap .priv (lowWord i) else
  s.withG src fun x =>
    let old := s.crValue s.cur n
    match new with
    | none => s.done fun y => y.writeG d old
    | some f =>
      let v := f x old
      if !s.crFits n v then s.trap .rsvdField (lowWord i)
      else s.done fun y => (y.putCr n v).writeG d old

/-- crr. -/
def execCrr (d : Reg) (cr : BitVec 12) (s : State) : Out := s.crAccess (.crr d cr) d [] cr none

/-- crw. -/
def execCrw (d a : Reg) (cr : BitVec 12) (s : State) : Out :=
  s.crAccess (.crw d a cr) d [a] cr (some fun x _ => x.readG a)

/-- crset. -/
def execCrset (d a : Reg) (cr : BitVec 12) (s : State) : Out :=
  s.crAccess (.crset d a cr) d [a] cr (some fun x old => old ||| x.readG a)

/-- crclr. -/
def execCrclr (d a : Reg) (cr : BitVec 12) (s : State) : Out :=
  s.crAccess (.crclr d a cr) d [a] cr (some fun x old => old &&& ~~~ x.readG a)

end Sys2Proof.Machine
end

