-- ==== Sys2Proof/Machine/Pins.lean ====
section
/-! DEFINITION. Pins of generations (spec/16_rays.md R362-R365): taking and dropping them, and the reclaim of an OLD
generation whose last pin is gone. -/

namespace Sys2Proof.Machine

open Sys2Proof

/-- A live slot that holds generation g. -/
def AsEntry.slotOf (e : AsEntry) (g : BitVec 16) : Option (Nat × Generation) :=
  e.slots.find? fun s => s.1 < 4 && s.2.gen == g

/-- Generation g is CURRENT. -/
def AsEntry.isCurrent (e : AsEntry) (g : BitVec 16) : Bool := e.hascur && e.cur == g

/-- The entry with the OLD generations that no pin holds reclaimed. -/
def AsEntry.reclaim (e : AsEntry) : AsEntry :=
  { e with slots := e.slots.filter fun s => !(s.1 < 4 && s.2.pins == 0 && !e.isCurrent s.2.gen) }

/-- A generation's pin count changed by one. -/
def AsEntry.addPin (e : AsEntry) (g : BitVec 16) (up : Bool) : AsEntry :=
  { e with slots := e.slots.map fun s =>
      if s.1 < 4 && s.2.gen == g then (s.1, { s.2 with pins := if up then s.2.pins + 1 else s.2.pins - 1 }) else s }

def Vi.setAs (v : Vi) (k : Nat) (e : AsEntry) : Vi := { v with tables := { v.tables with ases := tset v.tables.ases k e } }

/-- The distinct child generations that a generation pins (R364). -/
def Generation.children (g : Generation) : List (BitVec 12 × BitVec 16) := (g.insts.map fun i => (i.child, i.cgen)).eraseDups

/-- Pins of child generations taken. -/
def Vi.pinChildren (v : Vi) (cs : List (BitVec 12 × BitVec 16)) : Vi :=
  cs.foldl (fun v c => v.setAs c.1.toNat ((v.as c.1.toNat).addPin c.2 true)) v

/-- Pins of child generations dropped, and OLD ones without a pin reclaimed. -/
def Vi.unpinChildren (v : Vi) (cs : List (BitVec 12 × BitVec 16)) : Vi :=
  cs.foldl (fun v c => v.setAs c.1.toNat ((v.as c.1.toNat).addPin c.2 false).reclaim) v

/-- An entry's OLD generations without a pin reclaimed, with the pins they held on children. -/
def Vi.settle (v : Vi) (k : Nat) : Vi :=
  let e := v.as k
  let gone := e.slots.filter fun s => s.1 < 4 && s.2.pins == 0 && !e.isCurrent s.2.gen
  let v := v.setAs k e.reclaim
  gone.foldl (fun v s => v.unpinChildren s.2.children) v

/-- The pin of a query set dropped (R383). -/
def Vi.unpin (v : Vi) (k : Nat) (g : BitVec 16) : Vi := (v.setAs k ((v.as k).addPin g false)).settle k

/-- The open query sets of a vector state end (spec/01_machine.md R18, spec/16_rays.md R383). -/
def State.unpinSets (s : State) (vi : Nat) (vs : VState) : State :=
  vs.sets.toList.foldl (fun s q => if q.isOpen then s.modVi vi fun v => v.unpin q.entry.toNat q.gen else s) s

end Sys2Proof.Machine
end

