-- ==== Sys2Proof/Machine/Traps.lean ====
section
/-! DEFINITION. Trap handlers (spec/18_traps.md): interrupts, ecall, brk, wfi, vclaim with the save area it writes, and
sret. Taking a trap is State.takeTrap of Ops.lean. -/

namespace Sys2Proof.Machine

open Sys2Proof

/-! ## Interrupts (R402) -/

/-- Some interrupt is pending. -/
def Irqs.any (q : Irqs) : Bool := q.cycleMatch.isSome || q.stop || q.preempt || q.reclaim.isSome

/-- An interrupt that may be taken: the trap, whether it is a stop, and what taking it clears. -/
structure Intr where
  info  : TrapInfo
  stop  : Bool
  clear : Irqs → Irqs

/-- The hart's state lets an interrupt of a cause be taken at an allowed point. -/
def Hart.takes (x : Hart) (c : Cause) (stop : Bool) : Bool :=
  match x.core.mode with
  | .u => true
  | .s => if stop then !x.inHandler else if x.delegates c stop then x.sys.strap.ie else true
  | .m => !stop && x.sys.mtrap.ie

/-- The pending interrupt that is taken next: ascending cause code. -/
def Hart.nextIntr (x : Hart) : Option Intr :=
  let q := x.irq
  if q.stop && x.takes .brk true then
    some { info := { cause := .brk, tval := BitVec.allOnes 64 }, stop := true, clear := fun q => { q with stop := false, stopReg := false, held := true } }
  else if q.preempt && x.takes .preempt false then
    some { info := { cause := .preempt, tval := 0 }, stop := false, clear := fun q => { q with preempt := false } }
  else match if x.takes .reclaimTimeout false then q.reclaim else none with
    | some late =>
      some { info := { cause := .reclaimTimeout, tval := late }, stop := false, clear := fun q => { q with reclaim := none } }
    | none => (if x.takes .cycleMatch false then q.cycleMatch else none).map fun v =>
        { info := { cause := .cycleMatch, tval := v }, stop := false, clear := fun q => { q with cycleMatch := none } }

/-- An entry that is a pop of a port by a context. -/
def Entry.isPop (e : Entry) : Bool := match e.post with
  | .pop .. => true
  | _ => false

/-- `wfi` ends for a hart, in a gang for every member (R413). -/
def State.endWfi (s : State) (h : Nat) : State :=
  let one := fun (s : State) k => (s.modHart k fun x => x.advance.retire).countDone k (s.hart k)
  match (s.hart h).gang with
  | none => one s h
  | some g => ((g.members.filter fun k => !g.finished.contains k).foldl one s).gangNext h

/-- An interrupt finds a hart that waits in `q.pop`: nothing is removed, and the hart is at the `q.pop` again with the loop as
it was there (spec/11_queues_scheduling.md R269; notes/assumptions/142.md). -/
def State.cancelPop (s : State) (h : Nat) : State :=
  let pops := s.net.entries.filter fun e => e.isPop && (s.hart h).windows.any fun w => w.await == Await.entry e.id
  match pops with
  | [] => s
  | e :: _ =>
    let s := { s with net := { s.net with entries := s.net.entries.filter fun y => !pops.contains y } }
    let s := if (s.hart h).inHandler then s
      else s.undone h ((s.hart h).sys.time.instret - BitVec.ofNat 64 pops.length)
    s.modHart h fun y =>
      let y := (y.goto e.pc).resume
      { y with core := { y.core with loop := e.loop }, fetched := [], counted := false,
               windows := y.windows.filter fun w => !pops.any fun e => w.await == Await.entry e.id }

/-- A hart takes its next interrupt; a hart in wfi completes it first (R413). The members of its gang that wait in `q.pop` go
back to it too. -/
def State.takeIntr (s : State) (h : Nat) (i : Intr) : State :=
  let take := fun (s : State) => s.takeTrap h i.info true i.stop i.clear
  match (s.hart h).core.st, (s.hart h).gang with
  | .waiting .wfi, _ => take (s.endWfi h)
  | _, none => take (s.cancelPop h)
  | _, some g =>
    let t := g.members.foldl State.cancelPop s
    if (t.quitGang h).isSome then take t else s

/-! ## ecall, brk and wfi (R412, R413) -/

/-- ecall. -/
def execEcall (n : BitVec 16) (s : State) : Out :=
  match s.me.core.mode with
  | .u => s.trap .ecallU (n.setWidth 64)
  | .s => s.trap .ecallS (n.setWidth 64)
  | .m => s.trap .priv (lowWord (.ecall n))

/-- brk. -/
def execBrk (n : BitVec 16) (s : State) : Out := s.trap .brk (n.setWidth 64)

/-- An interrupt is pending for the hart, or for a member of its gang. -/
def State.irqPending (s : State) (h : Nat) : Bool :=
  (s.hart h).irq.any || (match (s.hart h).gang with
    | some g => g.members.any fun k => (s.hart k).irq.any
    | none => false)

/-- wfi. -/
def execWfi (s : State) : Out :=
  if s.irqPending s.cur then s.done id else .next (s.modMe fun x => x.setSt (.waiting .wfi))

/-! ## The save area (R409, R410) -/

def wordBytes (v : Nat) : List Byte := leBytes 8 v

/-- Bytes of a ray's state in the save area: not architected (R410), 16 for each ray. -/
def rayBytes (tag q e : Nat) : List Byte := (List.range 16).map fun k => Config.freeByte tag (q * 0x10000 + 16 * e + k)

/-- SBIND of a channel. -/
def bindBytes (b : Option Bind) : List Byte :=
  match b with
  | none => List.replicate 64 0
  | some b =>
    wordBytes (2 ^ 63 + b.reg.toNat * 2 ^ 16 + (if b.out then 256 else 0)) ++ wordBytes b.pos.toNat ++ wordBytes b.buf.length ++
      wordBytes (match b.taker with
        | some t => t.toNat + (if b.open_ then 1 else 0)
        | none => 0) ++ List.replicate 32 0

/-- Register n, logical group k, as 128 bytes. -/
def VState.sliceBytes (v : VState) (n k : Nat) : List Byte := leBytes 128 ((v.reg n).toNat >>> (1024 * k))

/-- The poison of a register in a logical group. -/
def VState.slicePoison (v : VState) (n k : Nat) : Option Poison :=
  v.vPoison.findSome? fun e => if e.1 / 128 = 16 * n + k then some e.2 else none

/-- What vclaim writes besides slices and stream buffers, as (offset, bytes) in ascending offset; raster slots and rays with free
bytes. -/
def VState.spillFields (v : VState) (l : LoopState) (tag : Nat) : List (Nat × List Byte) :=
  let depth := v.mstack.length
  [(0x8, wordBytes v.cfg.toWord.toNat ++ wordBytes v.vstart.toNat ++ wordBytes v.flags.toNat ++ wordBytes depth ++
      wordBytes l.lpc.toNat ++ wordBytes l.lcnt.toNat ++ wordBytes l.lend.toNat),
   (0x100, List.replicate 0xF00 0), (0x1000, leBytes 2048 v.em.toNat)] ++
  (v.mstack.reverse.zipIdx.map fun m => (0x2000 + 0x800 * m.2, leBytes 2048 m.1.toNat)) ++
  (v.slots.toList.zipIdx.map fun r => (0xA000 + 256 * r.2,
    BitVec.ofNat 8 ((Config.freeByte tag (0x20000 + 256 * r.2)).toNat / 2 * 2 + (if r.1.v then 1 else 0)) ::
      (List.range 255).map fun k => Config.freeByte tag (0x20001 + 256 * r.2 + k))) ++
  (v.sets.toList.zipIdx.map fun q => (0xA400 + 256 * q.2,
    wordBytes ((if q.1.isOpen then 2 ^ 63 else 0) + q.1.entry.toNat * 2 ^ 32 + q.1.gen.toNat) ++ wordBytes q.1.vlq)) ++
  [(0xA600, List.replicate 128 255)] ++
  ((List.range 8).map fun c => (0xA800 + 64 * c, bindBytes (tfind v.binds c))) ++
  (v.sets.toList.zipIdx.flatMap fun q =>
    if q.1.isOpen then q.1.rays.map fun r => (0xC000 + 0x10000 * q.2 + 16 * r.1, rayBytes tag q.2 r.1) else [])

/-- What vclaim writes, as (offset, bytes, poison) in ascending offset: stream buffers of bound channels and the slices of G groups
line by line, each poisoned where it holds poison (R409). -/
def VState.spillParts (v : VState) (l : LoopState) (G tag : Nat) : List (Nat × List Byte × Option Poison) :=
  ((v.spillFields l tag).map fun p => (p.1, p.2, none)) ++
  (v.binds.flatMap fun b => (List.range ((b.2.buf.length + 127) / 128)).map fun k =>
    let part := (b.2.buf.drop (128 * k)).take 128
    (0x2C000 + 0x4000 * b.1 + 128 * k, part.map fun y => y.byte, part.findSome? fun y => y.poison)) ++
  (List.range G).flatMap fun k => (List.range 64).map fun n => (0x4C000 + 0x2000 * k + 128 * n, v.sliceBytes n k, v.slicePoison n k)

/-- The trapped context's vector state stored to the save area for a hart of a core, and SPILLED set. -/
def State.spill (s : State) (core : Nat) (x : Hart) (base tag : Nat) : State :=
  let s := (x.core.vs.spillParts x.core.loop x.G tag).foldl (fun s p => s.areaWrite core x.who.uid (base + p.1) p.2.1 p.2.2) s
  s.areaWrite core x.who.uid base [BitVec.ofNat 8 (s.physWord base % 256 / 2 * 2 + 1)]

/-- vclaim (spec/06_vector_isa.md R141); a firmware hart holds no grant. -/
def execVclaim (s : State) : Out :=
  if s.me.core.mode == .u || isFirmwareHart s.cur then s.trap .priv (lowWord .vclaim) else
  s.drained fun s =>
    let x := s.me
    match x.frames with
    | [] => (s.charge x.G).done id
    | f :: fs =>
      if f.claimed then (s.charge x.G).done id
      else if x.anyUnlanded then s.waitPoll
      else
        let (tag, s) := (s.charge x.G).draw
        (s.spill (coreOf s.cur) x x.trapSet.tsave.toNat tag).done fun y =>
          { (y.setVs VState.reset) with
            frames := { f with claimed := true, kept := some y.core.vs, rayTag := tag } :: fs,
            core := { y.core with vs := VState.reset, loop := { lpc := 0, lcnt := 0, lend := 0 } } }

/-! ## sret (R411) -/

/-- Word k of the save area at base. -/
def State.saveWord (s : State) (base off : Nat) : Word := BitVec.ofNat 64 (s.physWord (base + off))

/-- The first word in a range of the save area that holds poison. -/
def State.savePoison (s : State) (base off n : Nat) : Option (Cause × Word) :=
  if s.phys.poison.isEmpty then none else
    ((List.range (n / 8)).find? fun k => s.physPoisoned (base + off + 8 * k) 8).map fun k =>
      (.dataEcc, BitVec.ofNat 64 (base + off + 8 * k))

/-- The RW words meet their limits: R76, R79, the mask-stack depth and the loop. -/
def State.saveWordOk (s : State) (base G off : Nat) : Bool :=
  let v := s.saveWord base off
  let lpc := s.saveWord base 0x28
  let lcnt := s.saveWord base 0x30
  if off = 0x8 then
    v &&& crReserved 0x008 == 0 && (match VCfg.ofWord v with
      | some c => c.vl.toNat ≤ vlmaxAt G c.w c.p
      | none => false)
  else if off = 0x10 then v &&& crReserved 0x00A == 0
  else if off = 0x18 then v &&& crReserved 0x00C == 0
  else if off = 0x20 then v.toNat ≤ 16
  else if off = 0x28 then v.toNat % 16 = 0
  else if off = 0x38 then
    let d := (v - lpc).toNat
    v.toNat % 16 = 0 && (lcnt == 0 || (16 ≤ d && d ≤ 128 && d % 16 = 0))
  else true

/-- The checks of sret in ascending offset. kept is the trapped state the hart keeps. -/
def State.saveFault (s : State) (base G : Nat) (kept : VState) : Option (Cause × Word) :=
  let word := fun off =>
    match s.savePoison base off 8 with
    | some f => some f
    | none => if s.saveWordOk base G off then none else some (.rsvdField, BitVec.ofNat 64 (base + off))
  let depth := (s.saveWord base 0x20).toNat
  match [0x8, 0x10, 0x18, 0x20, 0x28, 0x30, 0x38].findSome? word with
  | some f => some f
  | none =>
    if s.phys.poison.isEmpty then none else
      ([(0x1000, 2048), (0x2000, 2048 * depth), (0xA000, 0x400), (0xA800, 0x200)] ++
        (kept.sets.toList.zipIdx.flatMap fun (q : QuerySet × Nat) =>
          if q.1.isOpen then q.1.rays.map fun (r : Nat × Ray) => (0xC000 + 0x10000 * q.2 + 16 * r.1, 16) else []) ++
        (kept.binds.map fun (b : Nat × Bind) => (0x2C000 + 0x4000 * b.1, (b.2.buf.length + 7) / 8 * 8)) ++
        [(0x4C000, 0x2000 * G)]).findSome? fun (p : Nat × Nat) => s.savePoison base p.1 p.2

/-- A ray whose bytes software changed resumes done-miss with BADRAY. -/
def Ray.spoil (r : Ray) : Ray := { r with st := 3, bad := true, committed := none, candidate := none }

/-- The trapped vector state as sret restores it: none of what it read was poisoned. -/
def State.restored (s : State) (base G : Nat) (f : Frame) (kept : VState) : VState :=
  let bytes := fun off n => s.physRead (base + off) n
  let depth := (s.saveWord base 0x20).toNat
  let reg := fun (n : Nat) => (List.range G).foldl (fun a k => a + leNat (bytes (0x4C000 + 0x2000 * k + 128 * n) 128) <<< (1024 * k)) 0
  let sets := kept.sets.toList.zipIdx.map fun q =>
    if !q.1.isOpen then q.1 else
      { q.1 with rays := q.1.rays.map fun r =>
          if bytes (0xC000 + 0x10000 * q.2 + 16 * r.1) 16 == rayBytes f.rayTag q.2 r.1 then r else (r.1, r.2.spoil) }
  { kept with
    cfg := (VCfg.ofWord (s.saveWord base 0x8)).getD kept.cfg,
    vstart := (s.saveWord base 0x10).setWidth 16,
    flags := VFlags.ofNat ((s.saveWord base 0x18).toNat % 8),
    em := BitVec.ofNat 16384 (leNat (bytes 0x1000 2048)),
    mstack := ((List.range depth).map fun e => (BitVec.ofNat 16384 (leNat (bytes (0x2000 + 0x800 * e) 2048)))).reverse,
    v := Vector.ofFn fun n => BitVec.ofNat 16384 (reg n.val),
    vPoison := [],
    binds := kept.binds.map fun b => (b.1, { b.2 with buf := (bytes (0x2C000 + 0x4000 * b.1) b.2.buf.length).map fun y =>
      { byte := y, poison := none } }),
    landed := BitVec.allOnes 1024,
    sets := Vector.ofFn fun i => sets.getD i.val QuerySet.reset }

/-- A copy that the current handler started has not landed. -/
def Hart.handlerCopies (x : Hart) : Bool :=
  x.inHandler && x.eng.chans.toList.any fun c => c.copies.any fun y => x.frames.length ≤ y.depth

/-- A hart goes back to where its trap set names (R411, R459). -/
def State.sretAt (s : State) (h : Nat) : State :=
  let r : TrapSet := (s.hart h).trapSet
  let s := s.trace h 2 r.tpc 0 0
  s.modHart h fun x =>
    let x := { x with frames := if r.pmode == Mode.u then [] else x.frames.tail,
                      irq := { x.irq with stepArmed := x.irq.stepReg }, fetched := [], counted := false }
    let x := { x with core := { x.core with mode := r.pmode, pc := r.tpc } }
    x.resume

/-- The current hart goes back. -/
def State.backTo (s : State) : Out := .next (s.sretAt s.cur)

/-- sret. -/
def execSret (s : State) : Out :=
  if s.me.core.mode == .u then s.trap .priv (lowWord .sret) else
  s.drained fun s =>
    let x := s.me
    if x.handlerCopies then s.stall else
    match x.frames with
    | [] => s.backTo
    | f :: _ =>
      match f.kept with
      | none => s.backTo
      | some kept =>
        let base := x.trapSet.tsave.toNat
        match s.saveFault base x.G kept with
        | some (c, a) => s.trap c a
        | none =>
          let vs := s.restored base x.G f kept
          let l : LoopState := { lpc := s.saveWord base 0x28, lcnt := s.saveWord base 0x30, lend := s.saveWord base 0x38 }
          let s := s.unpinSets x.who.vi.toNat x.core.vs
          (s.modMe fun y => { y with core := { y.core with vs := vs, loop := l } }).backTo

end Sys2Proof.Machine
end

