-- ==== Sys2Proof/Machine/Split.lean ====
section
/-! DEFINITION. exit, fork.lanes and join.lanes (spec/05_scalar_isa.md R126, spec/06_vector_isa.md R139, R140), and what a
hart gives back when it becomes FREE (spec/01_machine.md R18, R29-R31). -/

namespace Sys2Proof.Machine

open Sys2Proof

/-- A pending error traps here; otherwise the instruction goes on (R126). -/
def State.noError (s : State) (k : State → Out) : Out :=
  match s.me.pendErr with
  | some p => s.trap p.cause.toCause p.addr
  | none => k s

/-- Contexts that a context forked and that have not joined: on harts and saved. -/
def State.hasChild (s : State) (vi uid : Nat) : Bool :=
  s.tasks.any (fun e => e.2.core.st != .free && e.2.who.parent == some uid) ||
    (s.vi vi).ctxs.any fun c => c.hart.who.parent == some uid

/-- No copy of the hart is under way. -/
def Hart.copiesDone (x : Hart) : Bool := x.eng.chans.toList.all fun c => c.copies.isEmpty

/-- The lowest free save area of a VI (spec/18_traps.md R419). -/
def TrapConf.freeArea (t : TrapConf) : Option Nat := findBelow (fun k => !t.used.contains k) t.nsave

def TrapConf.areaAddr (t : TrapConf) (k : Nat) : Nat := t.saves.toNat + saveAreaSize * k

/-- The save area that a context was given is free again. -/
def State.freeArea (s : State) (vi : Nat) (area : Option Nat) : State :=
  match area with
  | none => s
  | some k => s.modVi vi fun v => { v with trap := { v.trap with used := v.trap.used.filter (· != k) } }

/-- Query sets of a context that ends, in its frames as well, are unpinned. -/
def State.unpinAll (s : State) (vi : Nat) (x : Hart) : State :=
  x.frames.foldl (fun s f => match f.kept with
    | some v => s.unpinSets vi v
    | none => s) (s.unpinSets vi x.core.vs)

/-- The lowest FREE task hart of a core. -/
def State.freeHart (s : State) (c : Nat) : Option Nat :=
  (hartsOf c).find? fun h => !isFirmwareHart h && (s.hart h).core.st == .free

/-- What a context stored and is still on its way is performed. -/
def State.landSent (s : State) (uid : Nat) : State := (s.landStores uid).landPeers fun p => p.uid == uid

/-- A context that ends leaves its hart: query sets, save area and stores on their way are settled; the grant is the caller's to
give on. -/
def State.leave (s : State) (h : Nat) : State :=
  let x := s.hart h
  let vi := x.who.vi.toNat
  let s := s.landSent x.who.uid
  ((s.unpinAll vi x).freeArea vi x.who.area).setHart h Hart.reset

/-- A child ends: its groups, and those reserved for it, become reserved for its parent (R30, R140). -/
def State.endChild (s : State) (h parent : Nat) : State :=
  let x := s.hart h
  let s := s.traceGrant h x.G 0
  let c := coreOf h
  let pass := fun (r : Reservation) => if r.holder == .ctx x.who.uid then { r with holder := .ctx parent } else r
  let s := s.modCore c fun y => { y with resv := y.resv.map pass }
  (s.reserve c (some (.ctx parent)) x.lanes.grant).leave h

/-- join.lanes after its checks, or as an exit, which its queue is not charged for (spec/02_encoding.md R49) and which is
traced. A child ends once its copies have landed and what it stored is visible (spec/09_consistency.md R226). -/
def State.joinLanes (s : State) (exit : Bool) : Out :=
  s.noError fun s => s.alone fun s =>
    let x := s.me
    if s.hasChild x.who.vi.toNat x.who.uid then s.waitPoll else
    match x.who.parent with
    | none => (s.charge x.G).done fun y => y.modVs fun v => { v with vstart := 0 }
    | some p =>
      if x.copiesDone && s.acked && !s.atmsOpen x.who.uid then
        let s := if exit then s.trace s.cur 5 x.core.pc 0 x.who.instid else s.charge x.G
        .next ((s.countDone s.cur x).endChild s.cur p)
      else s.stall

/-- join.lanes. -/
def execJoinLanes (s : State) : Out :=
  if s.me.inHandler then s.trap .priv (lowWord .joinLanes) else s.drained fun s => s.joinLanes false

/-- exit (R126): it executes in the front-end and is charged nothing, in a fork child too (spec/02_encoding.md R49). A root
waits for INSTANCE_RETIRE in state WAITING (notes/assumptions/129.md). -/
def execExit (s : State) : Out :=
  s.noLoop .exit (s.drained fun s =>
    match s.me.who.parent with
    | some _ => s.joinLanes true
    | none => s.noError fun s => s.alone fun s =>
      .next (s.modMe fun x => { (x.setSt (.waiting .retire)) with who := { x.who with exited := true } }))

/-- The registers of logical groups k upwards as groups 0 upwards, all others zero. -/
def VState.upper (v : VState) (k : Nat) : VState :=
  { VState.reset with
    v := v.v.map fun r => BitVec.ofNat 16384 (r.toNat >>> (1024 * k)),
    vPoison := (v.vPoison.filter fun e => 128 * k ≤ e.1 % 2048).map fun e => (e.1 - 128 * k, e.2) }

/-- The trap registers that a context starts with (spec/18_traps.md R419). -/
def TrapConf.startSet (t : TrapConf) (area : Nat) : TrapSet :=
  { TrapSet.reset with tvec := t.vector, tsave := BitVec.ofNat 64 (t.areaAddr area) }

/-- A fork child of a hart: n groups from logical group k upwards, at an entry, in save area area. -/
def State.childOf (s : State) (x : Hart) (k area uid : Nat) (entry : Word) : Hart :=
  let vi := s.vi x.who.vi.toNat
  let grant := x.lanes.grant.drop k
  let r := Hart.reset
  { r with
    core := { r.core with st := .running, g := x.core.g, gPoison := x.core.gPoison, pc := entry,
                          vs := { x.core.vs.upper k with cfg := x.core.vs.cfg.clamp grant.length } },
    lanes := { grant := grant, ceil := x.lanes.ceil, lreq := BitVec.ofNat 5 grant.length, kept := false, reclaim := none },
    sys := { r.sys with strap := vi.trap.startSet area, tdeleg := vi.trap.tdeleg, space := x.sys.space, qmap := vi.tables.handles },
    who := { x.who with uid := uid, parent := some x.who.uid, area := some area, exited := false } }

/-- A set of a hart is open, or a stream is bound. -/
def Hart.holdsVector (x : Hart) : Bool := !x.core.vs.binds.isEmpty || x.core.vs.sets.toList.any fun q => q.isOpen

/-- fork.lanes. -/
def execForkLanes (d : Reg) (imm : Word) (s : State) : Out :=
  if s.me.inHandler then s.trap .priv (lowWord (.forkLanes d imm)) else
  let target := s.me.core.pc + imm
  if target.toNat % 16 ≠ 0 then s.trap .ifetchAlign target else
  s.drained fun s =>
    if s.me.anyUnlanded then s.waitPoll else
    let x := s.me
    let s := s.charge x.G
    let c := coreOf s.cur
    let fail := fun (n : Int) => s.done fun y => y.writeG d (BitVec.ofInt 64 n)
    if x.G < 2 then fail (-2)
    else if x.gang.isSome || x.holdsVector then fail (-3)
    else match s.freeHart c, (s.vi x.who.vi.toNat).trap.freeArea with
      | some h, some area =>
        let k := (x.G + 1) / 2
        let uid := s.fw.nextUid
        let s := { s with fw := { s.fw with nextUid := uid + 1 } }
        let s := s.modVi x.who.vi.toNat fun v => { v with trap := { v.trap with used := area :: v.trap.used } }
        let s := s.traceGrant s.cur x.G k
        let x := x.writeG d (BitVec.ofNat 64 h)
        let s := s.setHart h (s.childOf x k area uid target)
        s.done fun y =>
          let y := y.writeG d (BitVec.ofNat 64 h)
          let y := y.modVs fun v => { v.shrink k with cfg := v.cfg.clamp k, vstart := 0 }
          { y with lanes := { y.lanes with grant := y.lanes.grant.take k } }
      | _, _ => fail (-1)

end Sys2Proof.Machine
end

