-- ==== Sys2Proof/Machine/Sync.lean ====
section
/-! DEFINITION. Class 0xC, fence, wait, bar, grp.red and grp.bcast (spec/10_memory_isa.md R244-R248), and icinv and tlbinv
(R249, R250). -/

namespace Sys2Proof.Machine

open Sys2Proof

/-! ## fence (R245) -/

/-- A copy of a hart from lane memory to peer lane memory is under way, or waits for its channel. -/
def State.peerCopies (s : State) (h : Nat) : Bool :=
  ((s.hart h).eng.chans.toList.any fun c => c.copies.any fun y => y.desc.kind == 3) ||
    s.net.entries.any fun e => e.hart == h && s.entryLive e && match e.post with
      | .copy _ c => c.desc.kind == 3
      | _ => false

/-- fence: kinds FULL, REL, ACQ and PEER, each after the accesses in whose windows it stands. -/
def execFence (kind sc : BitVec 2) (s : State) : Out :=
  match s.me.landAccess with
  | none => s.stall
  | some x =>
  let u := x.who.uid
  let s := s.setMe x
  let s := if kind == 2 then s else s.landPeers fun p => p.uid == u
  if kind == 3 then (if s.peerCopies s.cur then s.stall else s.done id)
  else if kind == 2 then (s.acquire (coreOf s.cur) sc).done id
  else s.released sc fun s => (if kind == 0 then s.acquire (coreOf s.cur) sc else s).done id

/-! ## wait (R246) -/

/-- The condition of a wait on a value of n bytes, zero-extended: ne and eq compare it with all of g[B]. -/
def waitHolds (k : WCond) (n v want : Nat) : Bool :=
  match k with
  | .ne => v != want
  | .eq => v == want
  | .reached => 0 ≤ toSigned (8 * n) ((v + (2 ^ (8 * n) - want % 2 ^ (8 * n))) % 2 ^ (8 * n))

/-- What wait reads; an address fault, or the value with its poison. -/
def State.waitRead (s : State) (sp : Bool) (addr : Word) (n : Nat) : Except MemFault (Nat × Option Poison) × State :=
  let w := s.who s.cur
  if addr.toNat % n ≠ 0 then (.error (.align, addr), s)
  else if sp then
    if !s.laneProbe w.core w.vi false addr.toNat n then (.error (.access, addr), s)
    else
      let (v, s) := s.readLane w w.core addr.toNat n
      (.ok v, s)
  else
    let (r, s) := s.probe w .load addr n
    match r with
    | .error e => (.error e, s)
    | .ok t =>
      let (v, s) := s.readTarget w true t n
      (.ok v, s)

/-- g[B] of a wait. -/
def WaitRec.wantNat (r : WaitRec) : Nat := r.want.toNat

/-- wait. -/
def execWait (k : WCond) (w : BitVec 2) (d a b c : Reg) (sp : Bool) (imm : Word) (s : State) : Out :=
  s.withG [a, b, c] fun x =>
    let addr := x.readG a + imm
    let (r, s) := s.waitRead sp addr (wBytes w)
    match r with
    | .error (f, e) => s.trap f e
    | .ok (v, p) =>
      match p with
      | some q => s.trap q.cause.toCause addr
      | none =>
        let rec_ : WaitRec := { k := k, w := w, d := d, addr := addr, sp := sp, want := x.readG b, limit := x.readG c,
                                since := x.sys.time.cycle, last := BitVec.ofNat 64 v }
        if waitHolds k (wBytes w) v rec_.wantNat then s.done fun y => y.writeG d (BitVec.ofNat 64 v)
        else .next (s.modMe fun y => y.setSt (.waiting (.cond rec_)))

/-! ## Groups (spec/15_tables.md R352-R354) -/

/-- The group and rank that a template slot gives instance i. -/
def TmplSlot.place (t : TmplSlot) (i : Nat) : Option (Nat × Nat) :=
  let g := t.gbase.toNat
  let p := t.param.toNat
  if t.mode == 1 then some (g + i / p, i % p)
  else if t.mode == 2 then some (g + i % p, i / p)
  else if t.mode == 3 then some (g, i)
  else none

/-- A group index as a VI's group table holds it. -/
def Vi.group (v : Vi) (g : Nat) : Option Group := tfind v.tables.groups g

def Vi.setGroup (v : Vi) (g : Nat) (x : Group) : Vi := { v with tables := { v.tables with groups := tset v.tables.groups g x } }

/-- R354: the group that a slot of the hart names, with the hart's rank in it; none: the arrival raises RSVD_FIELD. -/
def State.member (s : State) (x : Hart) (slot : BitVec 2) : Option (Nat × Group × Nat) :=
  let sl := x.sys.gslot[slot.toNat]'(by have := slot.isLt; omega)
  if !sl.v then none else
  let v := s.vi x.who.vi.toNat
  match v.group sl.group.toNat with
  | none => none
  | some g =>
    if !(g.v && g.lseq == x.who.lseq && g.queue == x.who.queue) then none else
    match (tget [] v.tables.tmpls g.tmpl.toNat)[g.tslot.toNat]? with
    | none => none
    | some t =>
      match t.place x.who.index.toNat with
      | some (k, r) => if k = sl.group.toNat then some (k, g, r) else none
      | none => none

/-- Members that count toward a phase: arrivals, and members gone that did not arrive in it. -/
def Group.count (g : Group) : Nat := g.arrived.length + (g.gone.filter fun r => g.arrived.all fun a => a.rank != r).length

/-- The operation of grp.red on two values (R248). -/
def redOp (op : BitVec 4) (a b : Word) : Word × Flags :=
  if op == 0 then (a + b, 0) else if op == 1 then (a &&& b, 0) else if op == 2 then (a ||| b, 0)
  else if op == 3 then (a ^^^ b, 0)
  else if op == 4 then (if b.slt a then b else a, 0)
  else if op == 5 then (if a.slt b then b else a, 0)
  else if op == 6 then (if b.ult a then b else a, 0)
  else if op == 7 then (if a.ult b then b else a, 0)
  else
    let r := fAdd .d .rne a.toNat b.toNat
    (BitVec.ofNat 64 r.1, r.2)

/-- The identity of an operation of grp.red. -/
def redId (op : BitVec 4) : Word :=
  if op == 1 || op == 6 then BitVec.allOnes 64
  else if op == 4 then 0x7FFFFFFFFFFFFFFF else if op == 5 || op == 8 then 0x8000000000000000
  else 0

/-- What the members of a complete phase receive (R248). -/
def Group.result (g : Group) : Word × Flags :=
  match g.arrived with
  | [] => (0, 0)
  | a :: as =>
    if !(as.all fun b => b.opc == a.opc && b.op == a.op && b.root == a.root) then (BitVec.allOnes 64, 0)
    else if a.opc == 0x303 then
      let ranks := (List.range g.n).filterMap fun r => g.arrived.find? fun b => b.rank == r
      ranks.foldl (fun v b =>
        let r := redOp a.op v.1 b.val
        (r.1, v.2 ||| r.2)) (redId a.op, 0)
    else if a.opc == 0x304 then
      (match g.arrived.find? fun b => b.rank == a.root.toNat with
        | some b => b.val
        | none => 0, 0)
    else (0, 0)

/-- A context's standing arrivals in a phase of a group receive what it gives. -/
def Hart.receive (x : Hart) (k : Nat) (ph : BitVec 16) (r : Word × Flags) : Hart :=
  { x with phases := x.phases.map fun p => if p.group == k && p.phase == ph then { p with result := some r } else p }

/-- A phase completes when every member has arrived or is gone, as a release of each at the SCOPE that the group then has
(R247, R354). -/
def State.settleGroup (s : State) (vi k : Nat) : State :=
  match (s.vi vi).group k with
  | none => s
  | some g =>
    if !(g.v && g.count = g.n && !g.arrived.isEmpty) || (2 ≤ g.scope.toNat && !s.acked) then s else
      let r := g.result
      let uids := g.arrived.map fun a => a.uid
      let give := fun (x : Hart) => if x.who.vi.toNat == vi && uids.contains x.who.uid then x.receive k g.phase r else x
      let s := { s with harts := s.harts.map fun (e : Nat × Hart) => (e.1, give e.2) }
      s.modVi vi fun v =>
        let v := v.setGroup k { g with phase := g.phase + 1, arrived := [] }
        { v with ctxs := v.ctxs.map fun (c : SavedCtx) => { c with hart := give c.hart } }

/-- Scope codes that a group's SCOPE gives an acquire. -/
def State.groupScope (s : State) (vi k : Nat) : BitVec 2 :=
  match (s.vi vi).group k with
  | some g => g.scope
  | none => 0

/-- The arrival of a hart through a slot that stands, made in this handler or outside any. -/
def Hart.standing (x : Hart) (slot : BitVec 2) : Option PhaseWait :=
  x.phases.find? fun p => p.slot == slot && p.depth == x.frames.length

/-- bar, grp.red and grp.bcast after their operands are read: drop, whether the L1 data cache is emptied whatever the scope
(spec/08_memories.md R198); a, what the hart arrives with; write, what it receives. A trap leaves the arrival standing, and
the instruction then waits for the phase it joined. -/
def State.arrive (s : State) (i : Instr) (slot : BitVec 2) (drop : Bool) (a : Hart → Nat → Arrival) (write : Hart → Word × Flags → Hart) : Out :=
  let vi := s.me.who.vi.toNat
  let stand := fun (s : State) =>
    match s.me.standing slot with
    | some p =>
      let s := s.settleGroup vi p.group
      (match (s.me.standing slot).bind fun p => p.result with
        | some r =>
          (s.acquire (coreOf s.cur) (if drop then 1 else s.groupScope vi p.group)).done fun y =>
            let y := { y with phases := y.phases.filter fun q => !(q.slot == slot && q.depth == y.frames.length) }
            write y r
        | none => s.waitPoll)
    | none => s.waitPoll
  let x := s.me
  if (x.standing slot).isSome then stand s else
  match s.member x slot with
  | none => s.trap .rsvdField (lowWord i)
  | some (k, g, rank) =>
    let mine := fun (s : State) => s.modMe fun y =>
      { y with phases := { slot := slot, group := k, phase := g.phase, depth := y.frames.length, result := none } :: y.phases }
    if g.arrived.any fun b => b.uid == x.who.uid then stand (mine s) else
    s.released g.scope fun s =>
      stand ((mine s).modVi vi fun v => v.setGroup k { g with arrived := g.arrived ++ [a x rank] })

/-- bar. -/
def execBar (slot : BitVec 2) (s : State) : Out :=
  s.arrive (.bar slot) slot true
    (fun x r => { uid := x.who.uid, rank := r, opc := 0x302, op := 0, root := 0, val := 0, dest := 0, pc := x.core.pc })
    (fun y _ => y)

def RedOp.code : RedOp → BitVec 4
  | .add => 0
  | .and => 1
  | .or => 2
  | .xor => 3
  | .min => 4
  | .max => 5
  | .umin => 6
  | .umax => 7
  | .fadd => 8

/-- grp.red. -/
def execGrpRed (op : RedOp) (d a : Reg) (slot : BitVec 2) (s : State) : Out :=
  s.withG [a] fun _ =>
    s.arrive (.grpRed op d a slot) slot false
      (fun x r => { uid := x.who.uid, rank := r, opc := 0x303, op := RedOp.code op, root := 0, val := x.readG a, dest := d, pc := x.core.pc })
      (fun y r => (y.writeG d r.1).raise r.2)

/-- grp.bcast. -/
def execGrpBcast (d a : Reg) (slot : BitVec 2) (root : BitVec 16) (s : State) : Out :=
  s.withG [a] fun _ =>
    s.arrive (.grpBcast d a slot root) slot false
      (fun x r => { uid := x.who.uid, rank := r, opc := 0x304, op := 0, root := root, val := x.readG a, dest := d, pc := x.core.pc })
      (fun y r => y.writeG d r.1)

/-! ## icinv and tlbinv (R249, R250, spec/14_translation.md R344) -/

/-- The line that an instruction address names, in the tables as they stand. -/
def State.fetchLine (s : State) (addr : Word) : Option Nat :=
  if !canonical addr then none else
  match (s.walk (s.who s.cur) true addr.toNat false).1 with
  | .leaf lvl _ e => some ((place (leafPage addr.toNat lvl e * 4096 + addr.toNat % 4096)).lineKey none / 2048)
  | _ => none

/-- icinv: no register's poison or status traps. -/
def execIcinv (all : Bool) (a : Reg) (imm : Word) (s : State) : Out :=
  let u := s.me.who.uid
  let s := s.landPeers fun p => p.uid == u
  if s.atmsOpen u then s.stall else
  s.drained fun s =>
    let line := s.fetchLine (s.me.readG a + imm)
    (s.modCore (coreOf s.cur) fun c =>
      { c with icache := if all then [] else c.icache.filter fun e => some (e.1 / 2048) != line }).done fun y =>
        { y with fetched := [] }

/-- The address spaces that tlbinv names. -/
def spaceNames (p : TlbSpace) (inst : Bool) : Bool := match p with
  | .data => !inst
  | .inst => inst
  | .both => true

/-- The TLB entries that tlbinv removes: those of the VI in the spaces named, by kind (R250). -/
def TlbEntry.invalidated (t : TlbEntry) (vi : BitVec 7) (space : TlbSpace) (kind : TlbKind) (va : Word) (asid : BitVec 16) : Bool :=
  let pg := (va.toNat % 2 ^ 57) / 4096
  t.vi == vi && spaceNames space t.inst && (match kind with
    | .page => (t.glob || t.asid == asid) && t.base ≤ pg && pg < t.base + t.pages
    | .asid => !t.glob && t.asid == asid
    | .vi => true)

/-- The walker-cache entries that it removes: those on the path of an address, and those of an ASID or the VI (R344). -/
def WalkEntry.invalidated (w : WalkEntry) (vi : BitVec 7) (space : TlbSpace) (kind : TlbKind) (va : Word) (asid : BitVec 16) : Bool :=
  let pg := (va.toNat % 2 ^ 57) / 4096
  w.vi == vi && spaceNames space w.inst && (match kind with
    | .page => w.index == pg >>> (9 * w.level)
    | .asid => w.asids.contains asid
    | .vi => true)

/-- tlbinv: once the hart's earlier stores are performed it removes what matches, and it completes when nothing that was in flight
then holds a translation that it removed (spec/14_translation.md R344). -/
def execTlbinv (kind : TlbKind) (space : TlbSpace) (a b : Reg) (s : State) : Out :=
  if s.me.core.mode == .u then s.trap .priv (lowWord (.tlbinv kind space a b)) else
  s.withG [a, b] fun x =>
    let u := x.who.uid
    let va := x.readG a
    let asid := (x.readG b).setWidth 16
    let hit := fun (t : TlbEntry) => t.invalidated x.who.vi space kind va asid
    match x.inval with
    | some r => if s.xlatHeld r hit then s.stall else s.done fun y => { y with inval := none }
    | none =>
      let s := s.landPeers fun p => p.uid == u
      if s.atmsOpen u then s.stall else
      let s := s.dropTlb hit fun w => w.invalidated x.who.vi space kind va asid
      if s.xlatHeld s.numbered hit then .next (s.modMe fun y => { y with inval := some s.numbered }) else s.done id

end Sys2Proof.Machine
end

