-- ==== Sys2Proof/Machine/Copy.lean ====
section
/-! DEFINITION. The copy engine and streams (spec/12_engines_handlers.md R276-R290): cp.start, cp.seal, cp.wait, sbind and
sunbind, and the events COPY_BEGIN and COPY_ELEMENT_LAND. -/

namespace Sys2Proof.Machine

open Sys2Proof

/-! ## Descriptors (R276-R278) -/

/-- The descriptor that sixteen 8-byte words hold. -/
def CopyDesc.parse (w : Nat → Word) : CopyDesc :=
  let z := w 0
  { kind := bitsOf z 7 0, esize := bitsOf z 9 8, ndim := bitsOf z 12 10, mcast := z.getLsbD 13, wpupd := z.getLsbD 14,
    wprst := z.getLsbD 15, vreg := z.extractLsb' 16 6, src := w 1, dst := w 2,
    counts := (List.range 6).map fun n => bitsOf (w (4 + 2 * n)) 31 0,
    sstrides := (List.range 6).map fun n => w (3 + 2 * n),
    dstrides := (List.range 6).map fun n => ((w (4 + 2 * n)).extractLsb' 32 32).signExtend 64 }

/-- The destination is dense and ascending (R277). -/
def denseFrom : Nat → List Nat → List Word → Bool
  | step, c :: cs, s :: ss => s.toInt == (step : Int) && denseFrom (step * c) cs ss
  | _, _, _ => true

/-- Table 12.1 and R277, the gang apart. -/
def CopyDesc.fits (d : CopyDesc) (w : Nat → Word) : Bool :=
  let z0 := w 0
  let reg := d.kind == 4 || d.kind == 5
  z0.toNat >>> 22 == 0 && w 15 == 0 && d.kind ≤ 5 && 1 ≤ d.ndim && d.ndim ≤ 6 && (reg || d.vreg == 0) &&
  ((List.range 6).all fun n =>
    if n < d.ndim then d.counts.getD n 0 != 0
    else d.counts.getD n 0 == 0 && d.sstrides.getD n 0 == 0 && d.dstrides.getD n 0 == 0) &&
  (d.src :: d.dst :: (d.sstrides ++ d.dstrides)).all (fun a => a.toNat % d.z == 0) &&
  (d.kind != 4 || (d.dst :: d.dstrides).all fun a => a == 0) &&
  (d.kind != 5 || (d.src :: d.sstrides).all fun a => a == 0) &&
  (!d.wpupd || ((d.kind == 0 || d.kind == 3) && denseFrom d.z (d.counts.take d.ndim) d.dstrides)) &&
  (!d.mcast || d.kind == 0 || d.kind == 4)

/-- R278: an unbound KIND 4 copy fills whole groups within v0-v63. -/
def CopyDesc.fillsWhole (d : CopyDesc) (G : Nat) : Bool :=
  let n := d.total * d.z
  n % 128 == 0 && n ≤ (64 - d.vreg.toNat) * G * 128

/-- The binding that makes a copy a stream: the channel's, when it names VREG. -/
def Hart.streamOf (x : Hart) (ch : Nat) (d : CopyDesc) : Option Bind :=
  if d.kind == 4 || d.kind == 5 then (tfind x.core.vs.binds ch).bind fun b => if b.reg == d.vreg then some b else none else none

/-- VREG is not bound to another channel, nor in a direction that KIND does not match (R289). -/
def Hart.bindFits (x : Hart) (ch : Nat) (d : CopyDesc) : Bool :=
  !(d.kind == 4 || d.kind == 5) ||
    x.core.vs.binds.all fun b => b.2.reg != d.vreg || (b.1 == ch && b.2.out == (d.kind == 5))

/-! ## The probe (R289) -/

/-- The page that a data-space address lies in. -/
def pageOf (a : Word) : Nat := a.toNat / 4096

/-- One side of one element: its fault, or the translation it was made with. cores: those whose own lane memory it is. -/
def State.probeSide (s : State) (w : Who) (cores : List Nat) (side : Side) (k : AKind) (a : Word) (n : Nat) (memo : Walks) :
    Except MemFault (Option Xlat) × Walks × State :=
  match side with
  | .reg => (.ok none, memo, s)
  | .own => (if cores.all fun c => s.laneProbe c w.vi false a.toNat n then .ok none else .error (.access, a), memo, s)
  | .peer =>
    (match peerAddr a with
      | some (c, off) => if s.laneProbe c w.vi true off n then .ok none else .error (.access, a)
      | none => .error (.access, a), memo, s)
  | .va =>
    let (r, memo, s) := s.probeIn w k a n memo
    (match r with
      | .ok (.mem x _) => .ok (some x)
      | .ok (.sheet _) => .ok none
      | .error e => .error e, memo, s)

/-- Pages with their translations, each page once. -/
def addPage (ps : List (Nat × Xlat)) (a : Word) : Option Xlat → List (Nat × Xlat)
  | some x => if ps.any fun p => p.1 == pageOf a then ps else (pageOf a, x) :: ps
  | none => ps

/-- What the probe of a copy gathers: the faults in element order, the translations, and what its walks found. -/
structure CopyProbe where
  faults : List Probed := []
  pages  : List (Nat × Xlat) := []
  memo   : Walks := {}

/-- The probe of every element, source before destination; cores: those whose lane memory a destination names (R282). -/
def State.probeCopy (s : State) (w : Who) (cores : List Nat) (d : CopyDesc) : Nat → CopyProbe × State
  | 0 => ({}, s)
  | e + 1 =>
    let (p, s) := s.probeCopy w cores d e
    let side := fun (s : State) (cs : List Nat) (sd : Side) (k : AKind) (a : Word) (p : CopyProbe) =>
      let (r, memo, s) := s.probeSide w cs sd k a d.z p.memo
      match r with
      | .ok x => ({ p with pages := addPage p.pages a x, memo := memo }, s)
      | .error f => ({ p with faults := p.faults ++ [((e, a, .error f) : Probed)], memo := memo }, s)
    let (p, s) := side s [w.core] d.srcSide .load (d.srcAt e) p
    side s cores d.dstSide .store (d.dstAt e) p

/-- The elements of a copy that match a watch range on one side or the other (spec/17_counters_debug.md R395). -/
def State.copyMask (s : State) (w : Who) (d : CopyDesc) (p : CopyProbe) : EMask :=
  let hit := fun (sd : Side) (k : AKind) (a : Word) => sd == .va && (s.hart w.hart).watches w.mode k a d.z &&
    (match (tfind p.pages (pageOf a)).map fun x => place (x.page * 4096) with
      | some (.window _ _) => false
      | _ => true)
  maskOf ((List.range (min d.total 16384)).filter fun e =>
    hit d.srcSide .load (d.srcAt e) || hit d.dstSide .store (d.dstAt e))

/-! ## cp.start -/

/-- The groups of the register file that an unbound KIND 4 copy fills at a grant (R278, R281): bits of LANDED. -/
def CopyDesc.landBits (d : CopyDesc) (G : Nat) : List Nat :=
  if d.kind == 4 && G != 0 then (List.range (d.total * d.z / 128)).map fun k => 16 * (d.vreg.toNat + k / G) + k % G else []

/-- Landed bits cleared or set. -/
def VState.landBits (v : VState) (bits : List Nat) (on : Bool) : VState :=
  let m := BitVec.ofNat 1024 (bits.foldl (fun a b => a ||| 2 ^ b) 0)
  { v with landed := if on then v.landed ||| m else v.landed &&& ~~~m }

/-- A copy appended to a channel. -/
def Engine.enqueue (e : Engine) (ch : Nat) (c : Copy) : Engine :=
  { e with chans := vmod e.chans ch fun y => { y with copies := y.copies ++ [c] } }

def Engine.chan (e : Engine) (ch : Nat) : Channel := (e.chans.toList[ch]?).getD { chwp := 0, copies := [] }

/-- The harts that a copy started now would land in. -/
def Hart.receivers (x : Hart) (h : Nat) (d : CopyDesc) : List Nat :=
  match x.gang with
  | some g => if d.mcast then g.members else [h]
  | none => [h]

/-- The copy descriptor at an address, as 16 words with their poison, or a fault. -/
def State.readDesc (s : State) (w : Who) (sp : Bool) (a : Word) : Except MemFault (List Word × Option Poison) × State :=
  if a.toNat % 128 ≠ 0 then (.error (.align, a), s)
  else if sp then
    if !s.laneProbe w.core w.vi false a.toNat 128 then (.error (.access, a), s)
    else
      let ((v, p), s) := s.readLane w w.core a.toNat 128
      (.ok ((List.range 16).map fun k => BitVec.ofNat 64 (v >>> (64 * k)), p), s)
  else
    let (r, s) := s.probe w .load a 128
    match r with
    | .error e => (.error e, s)
    | .ok t =>
      let ((v, p), s) := s.readTarget w false t 128
      (.ok ((List.range 16).map fun k => BitVec.ofNat 64 (v >>> (64 * k)), p), s)

/-- In a gang, the leader's descriptor has MCAST = 1 and this hart is not the leader (R282). -/
def State.leaderCopies (s : State) (a : Reg) (sp : Bool) (imm : Word) : Bool :=
  match s.me.gang with
  | some g =>
    (match g.members with
      | l :: _ => l != s.cur && (match (s.readDesc (s.who l) sp ((s.hart l).readG a + imm)).1 with
        | .ok (ws, _) => (CopyDesc.parse fun k => ws.getD k 0).mcast
        | .error _ => false)
      | [] => false)
  | none => false

/-- cp.start: with 16 copies on the channel it waits within its window. -/
def execCpStart (ch : BitVec 3) (a : Reg) (sp : Bool) (imm : Word) (la : BitVec 4) (s : State) : Out :=
  if s.leaderCopies a sp imm then (s.charge s.me.G).doneLa la [] [] 0 id (acc := false) else
  s.withG [a] fun x =>
    let addr := x.readG a + imm
    let w := s.who s.cur
    let (r, s) := s.readDesc w sp addr
    match r with
    | .error (c, e) => s.trap c e
    | .ok (ws, bad) =>
      match bad with
      | some p => s.trap p.cause.toCause addr
      | none =>
      let word := fun k => ws.getD k 0
      let d := CopyDesc.parse word
      let stream := x.streamOf ch.toNat d
      if !(d.fits word && (!d.mcast || x.gang.isSome) && x.bindFits ch.toNat d && (d.kind != 4 || stream.isSome || d.fillsWhole x.G)) then
        s.trap .rsvdField addr
      else
      let targets := x.receivers s.cur d
      let (p, s) := s.probeCopy w (targets.map coreOf) d d.total
      match probeTrap (s.copyMask w d p) p.faults with
      | some t => s.trapWith t
      | none =>
        s.released x.core.vs.cfg.sc fun s =>
          let s := if d.dstSide != .va then s else
            let pages := ((List.range d.total).map fun e => pageOf (d.dstAt e)).eraseDups
            (p.pages.filter fun e => pages.contains e.1).foldl (fun s e => s.markDirty w e.2) s
          let s := if stream.isSome then s else
            targets.foldl (fun s h => s.modHart h fun y => y.modVs fun v => v.landBits (d.landBits y.G) false) s
          let c : Copy := { desc := d, pc := x.core.pc, begun := false, count := d.total, landed := [], targets := targets,
                            pages := p.pages, batch := none, stream := stream.isSome, grant := x.G, depth := x.frames.length,
                            seq := s.net.arrivals }
          let s := s.charge x.G
          let s := { s with net := { s.net with arrivals := s.net.arrivals + 1 } }
          if s.engineWaits s.cur || 16 ≤ (x.eng.chan ch.toNat).copies.length then s.doneEntry la (.copy ch.toNat c) (acc := false)
          else s.doneLa la [] [] 0 (acc := false) fun y => { y with eng := y.eng.enqueue ch.toNat c }

/-! ## Batches (R286, R287) -/

/-- Batches that are not finished. -/
def Engine.unfinished (e : Engine) : Nat := (e.next - e.oldest).toNat

/-- Some copy of a batch is under way. -/
def Engine.inBatch (e : Engine) (b : BitVec 16) : Bool :=
  e.chans.toList.any fun c => c.copies.any fun y => y.batch == some b

/-- BATCH.OLDEST rises past finished batches. -/
def Engine.settleN (e : Engine) : Nat → Engine
  | 0 => e
  | n + 1 => if e.oldest == e.next || e.inBatch e.oldest then e else Engine.settleN { e with oldest := e.oldest + 1 } n

def Engine.settle (e : Engine) : Engine := e.settleN 1024

/-- The copies that no batch holds go into the next one. -/
def Engine.seal (e : Engine) : Engine :=
  let mark := fun (y : Copy) => if y.batch.isNone then { y with batch := some e.next } else y
  let chans := e.chans.map fun c => { c with copies := c.copies.map mark }
  Engine.settle { e with chans := chans, next := e.next + 1 }

/-- cp.seal: with 1,024 batches unfinished it waits within its window. -/
def execCpSeal (d : Reg) (la : BitVec 4) (s : State) : Out :=
  let e := s.me.eng
  let s := s.charge s.me.G
  if s.engineWaits s.cur || 1024 ≤ e.unfinished then s.doneEntry la (.seal d) (acc := false)
  else s.doneLa la [(d, e.next.setWidth 64, none)] [] 0 (acc := false) fun y => { y with eng := y.eng.seal }

/-- Seals of a hart that wait for their batches: these are not finished either. -/
def State.sealsWaiting (s : State) (h : Nat) : Nat :=
  (s.net.entries.filter fun e => e.hart == h && s.entryLive e && match e.post with
    | .seal _ => true
    | _ => false).length

/-- cp.wait: copies that no seal has closed into a batch are outside it. -/
def execCpWait (n : BitVec 16) (s : State) : Out :=
  if n.toNat < s.me.eng.unfinished + s.sealsWaiting s.cur then s.waitPoll
  else ((s.charge s.me.G).dropL1 (coreOf s.cur)).done id

/-! ## Streams (R283, R285, R290) -/

/-- The registers of a group that await a landing. -/
def Hart.groupAwaits (x : Hart) (d : Reg) : Bool :=
  (List.range x.core.vs.cfg.p).any fun n => (List.range x.G).any fun k => !x.core.vs.landed.getLsbD (16 * (d.toNat + n) + k)

/-- sbind. -/
def execSbind (out : Bool) (d : Reg) (ch : BitVec 3) (s : State) : Out :=
  let x := s.me
  let v := x.core.vs
  if !v.cfg.aligned d.toNat v.cfg.w || v.binds.any (fun b => b.1 == ch.toNat || b.2.reg == d) then
    s.trap .rsvdField (lowWord (.sbind out d ch))
  else if x.groupAwaits d then s.waitPoll
  else (s.charge x.G).done fun y => y.modVs fun v =>
    { v with binds := tset v.binds ch.toNat { reg := d, out := out, pos := 0, buf := [], taker := none, open_ := false } }

/-- The channel's stream copies of a register end, their bytes discarded. -/
def Engine.endStream (e : Engine) (ch : Nat) (r : Reg) : Engine :=
  Engine.settle { e with chans := vmod e.chans ch fun c =>
    { c with copies := c.copies.filter fun y => !(y.stream && y.desc.vreg == r) } }

/-- sunbind: chapter 12 states the alignment check of R46 for sbind only, so a misaligned vD is a register that is not bound
(notes/assumptions/136.md). -/
def execSunbind (d : Reg) (s : State) : Out :=
  s.drained fun s =>
    let x := s.me
    match x.core.vs.binds.find? fun b => b.2.reg == d with
    | none => (s.charge x.G).done id
    | some (ch, b) =>
      if b.out && x.streamLive ch b then s.stall
      else (s.charge x.G).done fun y =>
        let y := y.modVs fun v => { v with binds := tdel v.binds ch }
        { y with eng := y.eng.endStream ch d }

/-! ## Landing (R279-R282) -/

/-- Whose access a landing is: the hart as it started the copy. -/
def State.copyWho (s : State) (h : Nat) (c : Copy) : Who := { s.who h with pc := c.pc, mode := .s }

/-- What a probed data-space address reaches. -/
def Copy.target (c : Copy) (a : Word) : Target :=
  if isSheet a then .sheet a else
    match tfind c.pages (pageOf a) with
    | some x => .mem x (place (x.page * 4096 + a.toNat % 4096))
    | none => .mem noXlat .none

/-- The register byte that byte b of a copy fills or reads, at a grant: register and first bit (R278). -/
def regByte (r : Reg) (G b : Nat) : Nat × Nat := (r.toNat + b / 128 / G, 1024 * (b / 128 % G) + 8 * (b % 128))

/-- n bytes that a write of an engine puts at a target: copies in an L1 stay as they are (spec/08_memories.md R198). -/
def State.enginePut (s : State) (w : Who) (t : Target) (n v : Nat) (poison : Option Poison) : State :=
  match t with
  | .mem x (.dram a) => (s.dropRdcLine (dieOfCore w.core) (a / 128)).homeWrite w.uid x.tag a (leBytes n v) poison
  | .mem _ (.host b a) =>
    if b then { s with phys := { s.phys with hostB := s.phys.hostB.writeN a (leBytes n v) } }
    else { s with phys := { s.phys with hostA := s.phys.hostA.writeN a (leBytes n v) } }
  | t => s.writeTarget w false t n v poison

/-- The value of element e of a copy as its source now holds it, with its poison; a stream gives its oldest bytes. -/
def State.copySource (s : State) (h ch : Nat) (c : Copy) (e : Nat) : (Nat × Option Poison) × State :=
  let w := s.copyWho h c
  let x := s.hart h
  let z := c.desc.z
  match c.desc.srcSide with
  | .va => s.readTarget w false (c.target (c.desc.srcAt e)) z
  | .own | .peer => s.readLane w w.core (c.desc.srcAt e).toNat z
  | .reg =>
    if c.stream then
      match tfind x.core.vs.binds ch with
      | none => ((0, none), s)
      | some b =>
        let bs := b.buf.take z
        ((leNat (bs.map fun y => y.byte), bs.findSome? fun y => y.poison),
          s.modHart h fun y => y.modVs fun v => { v with binds := tset v.binds ch { b with buf := b.buf.drop z } })
    else
      let at_ := regByte c.desc.vreg c.grant (e * z)
      ((regBits (x.core.vs.reg at_.1) at_.2 (8 * z),
        (List.range z).findSome? fun k => tfind x.core.vs.vPoison (at_.1 * 2048 + at_.2 / 8 + k)), s)

/-- The landing of an element in a register of a receiver, at its grant. -/
def Hart.landElem (x : Hart) (c : Copy) (e v : Nat) (p : Option Poison) : Hart :=
  if x.G = 0 then x else
    let at_ := regByte c.desc.vreg x.G (e * c.desc.z)
    x.modVs fun y => y.landV { reg := at_.1, bit := at_.2, width := 8 * c.desc.z, value := v, poison := p }

/-- Bits of LANDED that are set once the copy has landed these elements, unless another copy of the hart will fill them. -/
def Hart.landedNow (x : Hart) (c : Copy) (e : Nat) (landed : List Nat) (others : List Copy) : List Nat :=
  if x.G = 0 then [] else
    let per := 128 / c.desc.z
    let k := e / per
    let bit := 16 * (c.desc.vreg.toNat + k / x.G) + k % x.G
    let whole := (List.range per).all fun j => landed.contains (k * per + j)
    let again := others.any fun o => !o.stream && (o.desc.landBits x.G).contains bit
    if whole && !again then [bit] else []

/-- The die of an element's destination. -/
def Copy.destDie (c : Copy) (w : Who) (a : Word) : Nat :=
  let d := dieOfCore w.core
  match c.desc.dstSide with
  | .va => (match c.target a with
    | .mem _ p => p.die d
    | .sheet _ => d)
  | .peer => (match peerAddr a with
    | some (k, _) => dieOfCore k
    | none => d)
  | _ => d

/-- An element's destination: bytes of memory or lane memory, a register of each receiver, or the stream of the binding that
names VREG. A lost link on the way poisons the bytes (R287, R298). Answers the poison they landed with. -/
def State.copyDest (s : State) (h ch : Nat) (c : Copy) (e v : Nat) (p : Option Poison) : Option Poison × State :=
  let w := s.copyWho h c
  let z := c.desc.z
  let a := c.desc.dstAt e
  let (p, s) : Option Poison × State := match s.lost (dieOfCore w.core) (c.destDie w a) with
    | (some k, s) => (p <|> some { cause := .linkLost, addr := c.pc }, s.linkErr w a.toNat k)
    | (none, s) => (p, s)
  (p, match c.desc.dstSide with
  | .va => s.enginePut w (c.target a) z v p
  | .own => c.targets.foldl (fun s t => s.modCore (coreOf t) fun k => k.laneWrite a.toNat (leBytes z v) p) s
  | .peer =>
    (match peerAddr a with
      | some (k, off) => s.modCore k fun k => k.laneWrite off (leBytes z v) p
      | none => s)
  | .reg =>
    if c.stream then
      s.modHart h fun x => x.modVs fun y =>
        match tfind y.binds ch with
        | none => y
        | some b => if b.reg != c.desc.vreg then y else
          { y with binds := tset y.binds ch { b with buf := b.buf ++ (leBytes z v).map fun k => { byte := k, poison := p } } }
    else c.targets.foldl (fun s t => s.modHart t fun x => x.landElem c e v p) s)

/-- An element may land now: its copy has begun, it has not landed, and where order or room is kept it is its turn. -/
def Hart.mayLand (x : Hart) (ch : Nat) (c : Copy) (e : Nat) : Bool :=
  c.begun && e < c.count && !c.landed.contains e &&
  ((!c.desc.wpupd && !c.stream) || e == c.landed.length) &&
  (!c.stream || (match tfind x.core.vs.binds ch with
    | none => false
    | some b => if b.out then c.desc.z ≤ b.buf.length else b.buf.length + c.desc.z ≤ 16384))

/-- The aligned 8-byte part of its destination that an element lies in (spec/09_consistency.md R212). -/
def Copy.part (c : Copy) (e : Nat) : Nat :=
  if c.desc.dstSide == .reg then e * c.desc.z / 8 else (c.desc.dstAt e).toNat / 8

/-- The elements that land with element e, as one part of the destination, in the order in which they are written: e last
where no order is kept. A stream gives or takes element by element what its buffer holds. -/
def Hart.together (x : Hart) (ch : Nat) (c : Copy) (e : Nat) : List Nat :=
  if c.stream && c.desc.dstSide == .reg then [e]
  else if c.stream then
    let n := match tfind x.core.vs.binds ch with
      | some b => b.buf.length / c.desc.z
      | none => 1
    (List.range' e (min n (c.count - e))).takeWhile fun k => c.part k == c.part e
  else
    let others := (List.range c.count).filter fun k => k != e && c.part k == c.part e && !c.landed.contains k
    if c.desc.wpupd then e :: others else others ++ [e]

/-- The cores that a copy of a hart uses. -/
def Copy.cores (c : Copy) (h : Nat) : List Nat :=
  coreOf h :: c.targets.map coreOf ++ (if c.desc.dstSide == .peer then
    (List.range c.count).filterMap fun e => (peerAddr (c.desc.dstAt e)).map Prod.fst else [])

/-- Copies that are first of their channels and have not begun: hart, channel and copy. -/
def State.heads (s : State) : List (Nat × Nat × Copy) :=
  s.harts.flatMap fun x => (List.range 8).filterMap fun ch =>
    match (x.2.eng.chan ch).copies with
    | c :: _ => if c.begun then none else some (x.1, ch, c)
    | [] => none

/-- The stream dispatcher of the die serves another copy that uses a core of this one first: one of a higher priority, or one
of the same that arrived before it (R279). -/
def State.beginsAfter (s : State) (h ch : Nat) (c : Copy) : Bool :=
  s.heads.any fun o =>
    let p := (s.hart o.1).who.prio.toNat
    let q := (s.hart h).who.prio.toNat
    !(o.1 == h && o.2.1 == ch) && dieOf o.1 == dieOf h && (q < p || (q == p && o.2.2.seq < c.seq)) &&
      (o.2.2.cores o.1).any fun k => (c.cores h).contains k

/-- COPY_BEGIN (R279, R280, R282). -/
def execCopyBegin (h ch : Nat) (s : State) : Out :=
  if 8192 ≤ h || 8 ≤ ch then .fault .noSuchUnit else
  let x := s.hart h
  match (x.eng.chan ch).copies with
  | [] => .next s
  | c :: rest =>
    if c.begun || s.beginsAfter h ch c then .next s else
      let targets := x.receivers h c.desc
      let lost := c.targets.filter fun t => !targets.contains t
      let s := if c.stream then s else
        lost.foldl (fun s t => s.modHart t fun y => y.modVs fun v => v.landBits (c.desc.landBits y.G) true) s
      .next (s.modHart h fun x =>
        { x with eng := { x.eng with chans := vmod x.eng.chans ch fun y =>
            { chwp := if c.desc.wprst then 0 else y.chwp, copies := { c with begun := true, targets := targets, grant := x.G } :: rest } } })

/-- The elements that one read of an aligned 8-byte part of the source serves: element e, and those not read yet that lie in the
same part at addresses of their own (spec/09_consistency.md R212). -/
def Copy.mates (c : Copy) (e : Nat) : List Nat :=
  if c.desc.srcSide == .reg then [e] else
    (List.range c.count).foldl (fun es k =>
      if (c.desc.srcAt k).toNat / 8 == (c.desc.srcAt e).toNat / 8 && !c.landed.contains k && (tfind c.got k).isNone &&
          es.all fun j => c.desc.srcAt j != c.desc.srcAt k then es ++ [k] else es) [e]

/-- The part of the source that element e lies in is read, unless it has been. -/
def State.readSource (s : State) (h ch : Nat) (c : Copy) (e : Nat) : Copy × State :=
  if (tfind c.got e).isSome then (c, s) else
    (c.mates e).foldl (fun (r : Copy × State) k =>
      let (v, s) := r.2.copySource h ch r.1 k
      ({ r.1 with got := tset r.1.got k v }, s)) (c, s)

/-- An earlier element of a copy between addresses of the data space writes bytes that element e reads: it may read them as they
were or as they are then (R277). -/
def Copy.rereads (c : Copy) (e : Nat) : Bool :=
  c.desc.kind == 2 && (List.range e).any fun k =>
    (c.desc.dstAt k).toNat < (c.desc.srcAt e).toNat + c.desc.z && (c.desc.srcAt e).toNat < (c.desc.dstAt k).toNat + c.desc.z

/-- Which elements of a part are read again when they land: any of those that earlier elements may have changed. -/
def State.anew (s : State) (c : Copy) (es : List Nat) : List Nat × State :=
  let l := es.filter c.rereads
  if l.isEmpty then ([], s) else
    let (f, s) := s.draw
    (l.filter fun e => (Config.freeWord f).getLsbD (e % 64), s)

/-- One element landed with the value that was read for it, or with what its source now holds. Answers the poison it landed
with. -/
def State.landOne (s : State) (h ch : Nat) (c : Copy) (err : Option ErrCause) (anew : Bool) (e : Nat) : Option Poison × State :=
  let ((v, p), s) := if anew then s.copySource h ch c e else ((tfind c.got e).getD (0, none), s)
  let p := match err with
    | some k => some { cause := k, addr := c.pc }
    | none => p.map fun q => { q with addr := c.pc }
  s.copyDest h ch c e v p

/-- Words of lane memory that clean elements of a copy, landed together, write whole hold no poison (spec/08_memories.md
R187). -/
def State.cleanLanded (s : State) (c : Copy) (es : List Nat) : State :=
  match c.desc.dstSide with
  | .own => c.targets.foldl (fun s t => s.modCore (coreOf t) fun k => k.cleanWords (es.map fun e => ((c.desc.dstAt e).toNat, c.desc.z))) s
  | .peer =>
    let ps := es.filterMap fun e => peerAddr (c.desc.dstAt e)
    (ps.map Prod.fst).eraseDups.foldl (fun s k => s.modCore k fun y =>
      y.cleanWords ((ps.filter fun p => p.1 == k).map fun p => (p.2, c.desc.z))) s
  | _ => s

/-- The elements of a part landed: their sources read, then each written in turn. -/
def State.landPart (s : State) (h ch : Nat) (c : Copy) (err : Option ErrCause) (es : List Nat) : Copy × State :=
  let (again, s) := s.anew c es
  let (c, s) := es.foldl (fun (r : Copy × State) e => r.2.readSource h ch r.1 e) (c, s)
  let (clean, s) := es.foldl (fun (r : List Nat × State) e =>
    let (p, s) := r.2.landOne h ch c err (again.contains e) e
    (if p.isNone then r.1 ++ [e] else r.1, s)) ([], s)
  ({ c with got := c.got.filter fun v => !es.contains v.1 }, s.cleanLanded c clean)

/-- COPY_ELEMENT_LAND (R279-R283): an element lands with those of its aligned 8-byte part (spec/09_consistency.md R212, R222);
err, an error that the copy meets on its way (R287), which is counted and recorded (spec/17_counters_debug.md R390, R398). -/
def execCopyElementLand (h ch e : Nat) (err : Option ErrCause) (s : State) : Out :=
  if 8192 ≤ h || 8 ≤ ch then .fault .noSuchUnit else
  let x := s.hart h
  match (x.eng.chan ch).copies with
  | [] => .next s
  | c :: rest =>
    if !x.mayLand ch c e then .next s else
      let es := x.together ch c e
      let s := match err with
        | some k => s.arriveBad h k
        | none => s
      let (c, s) := s.landPart h ch c err es
      let landed := es ++ c.landed
      let others := fun (t : Nat) => if t = h then rest ++ (List.range 8).flatMap fun k => if k = ch then [] else (x.eng.chan k).copies
        else (List.range 8).flatMap fun k => ((s.hart t).eng.chan k).copies
      let s := if c.desc.dstSide == .reg && !c.stream then
          c.targets.foldl (fun s t => s.modHart t fun y => y.modVs fun v => v.landBits (y.landedNow c e landed (others t)) true) s
        else s
      let done := c.count ≤ landed.length
      .next (s.modHart h fun x =>
        { x with eng := Engine.settle { x.eng with chans := vmod x.eng.chans ch fun y =>
            { chwp := if c.desc.wpupd then y.chwp + BitVec.ofNat 64 (es.length * c.desc.z) else y.chwp,
              copies := if done then rest else { c with landed := landed } :: rest } } })

end Sys2Proof.Machine
end

