-- ==== Sys2Proof/Machine/Queue.lean ====
section
/-! DEFINITION. Class 0xA instructions on ports, launch queues, gangs and handlers: q.push, q.pop, q.notify, q.cancel,
gang.form and gang.split (spec/11_queues_scheduling.md R267-R274), msg.send and hret (spec/12_engines_handlers.md R299,
R301). -/

namespace Sys2Proof.Machine

open Sys2Proof

/-! ## Handles (R267) -/

/-- What an accepted handle names. -/
inductive Handle where
  | queue (q : Nat)
  | port (die port : Nat)
  deriving DecidableEq, Repr

/-- Agent ports of spec/13_raster_shading.md Table 13.1 and reply ports of spec/12_engines_handlers.md R302: depth and
direction; none: no such port. -/
def portKind (kind port : Nat) : Option (Nat × Bool) :=
  if kind = 2 then
    (if port = 0 || port = 2 || port = 4 then some (1024, true)
     else if port = 5 then some (256, true)
     else if port = 1 then some (256, false)
     else if port = 3 then some (4096, false) else none)
  else if kind = 3 then (if 0x100 ≤ port && port ≤ 0x10F then some (256, false) else none)
  else none

/-- The key of a VI's port in Die.ports. -/
def portKey (vi port : Nat) : Nat := 4096 * vi + port

def State.port (s : State) (die vi port : Nat) : Port := tget Port.reset (s.die die).ports (portKey vi port)

def State.setPort (s : State) (die vi port : Nat) (p : Port) : State :=
  s.modDie die fun d => { d with ports := tset d.ports (portKey vi port) p }

/-- The entry of a handle. -/
def Hart.qentry (x : Hart) (qh : BitVec 4) : QEntry := x.sys.qmap[qh.toNat]'(by have := qh.isLt; omega)

/-- The launch queue or port that a handle names. -/
def State.handle (s : State) (x : Hart) (qh : BitVec 4) : Option Handle :=
  let e := x.qentry qh
  if e.kind == 1 then
    match tfind s.queues e.index.toNat with
    | some q => if q.vi == x.who.vi.toNat then some (.queue e.index.toNat) else none
    | none => none
  else if (portKind e.kind.toNat e.index.toNat).isSome then some (.port e.die.toNat e.index.toNat)
  else none

/-- A port of a direction that a handle names, with its depth. -/
def State.portHandle (s : State) (x : Hart) (qh : BitVec 4) (input : Bool) : Option (Nat × Nat × Nat) :=
  match s.handle x qh with
  | some (.port d p) =>
    (match portKind (x.qentry qh).kind.toNat p with
      | some (depth, dir) => if dir == input then some (d, p, depth) else none
      | none => none)
  | _ => none

def qhTval (qh : BitVec 4) : Word := qh.setWidth 64

/-! ## q.push and q.pop (R268, R269) -/

/-- Records of 64 bytes read from lane memory. -/
def State.laneRecords (s : State) (w : Who) (off : Nat) : Nat → List (BitVec 512) × Bool × State
  | 0 => ([], false, s)
  | n + 1 =>
    let (rs, bad, s) := s.laneRecords w off n
    let ((v, p), s) := s.readLane w w.core (off + 64 * n) 64
    (rs ++ [BitVec.ofNat 512 v], bad || p.isSome, s)

/-- Every block of lane memory that [off, off + n) touches is owned (R190). -/
def State.laneOwned (s : State) (w : Who) (off n : Nat) : Bool :=
  (List.range ((n + 4095) / 4096 + 1)).all fun k => s.laneProbe w.core w.vi false (min (off + 4096 * k) (off + n - 1)) 1

/-- What waits in the entries is a push to a port. -/
def Entry.pushes (e : Entry) (die vi port : Nat) : Bool := match e.post with
  | .push d v p _ => d == die && v == vi && p == port
  | _ => false

/-- What waits in the entries is a pop of a port. -/
def Entry.pops (e : Entry) (die vi port : Nat) : Bool := match e.post with
  | .pop d v p _ _ => d == die && v == vi && p == port
  | _ => false

/-- What waits in the entries is a message to a slice. -/
def Entry.sends (e : Entry) (k : Nat) : Bool := match e.post with
  | .send j _ => j == k
  | _ => false

/-- What waits in the entries is a command for a builder. -/
def Entry.builds (e : Entry) (die vi : Nat) : Bool := match e.post with
  | .build d v _ _ => d == die && v == vi
  | _ => false

/-- Entries a condition holds of, whose contexts still run. -/
def State.waiting (s : State) (p : Entry → Bool) : List Entry := s.net.entries.filter fun e => p e && s.entryLive e

/-- The records join a port. -/
def State.push (s : State) (die vi port : Nat) (rs : List (BitVec 512 × Bool)) : State :=
  let q := s.port die vi port
  s.setPort die vi port { q with recs := q.recs ++ rs }

/-- The queue of a VI at a die's builder (spec/16_rays.md R366). -/
def State.builderQ (s : State) (die vi : Nat) : BuilderQ := tget { cmds := [], seq := 0 } (s.die die).builder vi

/-- A command joins a builder's queue under its next sequence number (spec/16_rays.md R374). -/
def State.sendBuild (s : State) (die vi : Nat) (c : BuildCmd) : State :=
  let q := s.builderQ die vi
  s.modDie die fun y => { y with builder := tset y.builder vi { cmds := q.cmds ++ [{ c with seq := q.seq }], seq := q.seq + 1 } }

/-- q.push: without room at the port, or behind another push, it waits within its window. -/
def execQPush (qh : BitVec 4) (a : Reg) (n : BitVec 7) (la : BitVec 4) (s : State) : Out :=
  s.withG [a] fun x =>
    match s.portHandle x qh true with
    | none => s.trap .access (qhTval qh)
    | some (d, p, depth) =>
      let off := x.readG a
      let w := s.who s.cur
      if off.toNat % 64 ≠ 0 then s.trap .align off
      else if 0x100000 < off.toNat + 64 * n.toNat || !s.laneOwned w off.toNat (64 * n.toNat) then s.trap .access off
      else
        let (rs, bad, s) := s.laneRecords w off.toNat n.toNat
        if bad then s.trap .dataEcc off else
        let vi := x.who.vi.toNat
        let rs := rs.map fun r => (r, false)
        s.released x.core.vs.cfg.sc fun s =>
          let s := s.charge x.G
          if depth < (s.port d vi p).recs.length + n.toNat || !(s.waiting fun e => e.pushes d vi p).isEmpty then
            s.doneEntry la (.push d vi p rs)
          else (s.push d vi p rs).doneLa la [] [] 0 id

/-- A popper takes the n-th record of a port, which its lane memory receives at an offset, as an acquire: the status; none: it
waits. -/
def State.popAt (s : State) (w : Who) (die vi port off n : Nat) (try_ : Bool) : Option (Nat × State) :=
  let q := s.port die vi port
  match q.recs[n]? with
  | some r =>
    let poison : Option Poison := if r.2 then some { cause := .dataEcc, addr := w.pc } else none
    some (0, ((s.setPort die vi port { q with recs := q.recs.eraseIdx n }).writeLane w w.core off 64 r.1.toNat poison).dropL1 w.core)
  | none => if q.closed then some (3, s.dropL1 w.core) else if try_ then some (1, s.dropL1 w.core) else none

/-- q.pop: a record for it is one more than those that wait in its port ahead of it are to get; without one it waits within its
window. -/
def execQPop (try_ : Bool) (qh : BitVec 4) (d a : Reg) (la : BitVec 4) (s : State) : Out :=
  s.withG [a] fun x =>
    match s.portHandle x qh false with
    | none => s.trap .access (qhTval qh)
    | some (die, p, _) =>
      let off := x.readG a
      let w := s.who s.cur
      if off.toNat % 64 ≠ 0 then s.trap .align off
      else if 0x100000 < off.toNat + 64 || !s.laneProbe w.core w.vi false off.toNat 64 then s.trap .access off
      else
        let vi := x.who.vi.toNat
        let s := s.charge x.G
        match s.popAt w die vi p off.toNat (s.waiting fun e => e.pops die vi p).length try_ with
        | some (st, s) => s.doneLa la [(d, BitVec.ofNat 64 st, none)] [] 0 id
        | none => s.doneEntry la (.pop die vi p off.toNat d) (acq := true)

/-! ## Launch queues (R256, R270, R271) -/

/-- The tail notify register of a queue written: applied when newer, ignored in DISABLED. -/
def DevQueue.notify (q : DevQueue) (x : BitVec 32) : DevQueue :=
  if q.st != .disabled && (0#32).slt (x - q.tail) then { q with tail := x } else q

/-- A hold or a release request (Table 11.4). -/
def DevQueue.hold (q : DevQueue) (on : Bool) : DevQueue :=
  if on && q.st == .active then { q with st := .held }
  else if !on && q.st == .held then { q with st := .active } else q

/-- q.notify. -/
def execQNotify (what : Notify) (qh : BitVec 4) (a : Reg) (la : BitVec 4) (s : State) : Out :=
  s.withG [a] fun x =>
    let go := fun (f : State → State) => s.released x.core.vs.cfg.sc fun s => (f (s.charge x.G)).doneLa la [] [] 0 id
    match s.handle x qh with
    | none => s.trap .access (qhTval qh)
    | some (.port _ _) => if what == .tail then go id else s.trap .access (qhTval qh)
    | some (.queue q) => go fun s => s.modQueue q fun y =>
        match what with
        | .tail => y.notify ((x.readG a).setWidth 32)
        | .hold => y.hold true
        | .release => y.hold false

/-- Fields of a launch record (Table 11.2). -/
def Launch.word (l : Launch) (k : Nat) : Word := l.words.getD k 0
def Launch.count (l : Launch) : Nat := bitsOf (l.word 3) 31 0
def Launch.done (l : Launch) : Word := l.word 4
def Launch.serial (l : Launch) : Bool := !(l.word 0).getLsbD 48
def Launch.gfx (l : Launch) : Bool := (l.word 0).getLsbD 49
def Launch.tmpl (l : Launch) : Option Nat := if (l.word 0).getLsbD 50 then some (bitsOf (l.word 0) 47 40) else none
def Launch.lreq (l : Launch) : Nat := bitsOf (l.word 0) 36 32

/-- The template slots of a launch. -/
def State.launchSlots (s : State) (q : DevQueue) (l : Launch) : List TmplSlot :=
  match l.tmpl with
  | some t => tget [] (s.vi q.vi).tables.tmpls t
  | none => []

/-- Instances of a launch counted in GONE of their groups, as the slot that filled the group places them, and the phases that this
completes (spec/15_tables.md R354). -/
def State.goneInstances (s : State) (q : DevQueue) (qn : Nat) (l : Launch) (is : List Nat) : State :=
  let vi := q.vi
  let names := is.flatMap fun i => (s.launchSlots q l).zipIdx.filterMap fun t => (t.1.place i).map fun g => (g.1, g.2, t.2)
  let mark := fun (s : State) (g : Nat × Nat × Nat) =>
    match (s.vi vi).group g.1 with
    | some e =>
      if e.v && e.lseq == l.index && e.queue.toNat == qn && e.tslot.toNat == g.2.2 && !e.gone.contains g.2.1 then
        s.modVi vi fun v => v.setGroup g.1 { e with gone := e.gone ++ [g.2.1] }
      else s
    | none => s
  (names.map Prod.fst).eraseDups.foldl (fun s g => s.settleGroup vi g) (names.foldl mark s)

/-- A reservation for a waiting instance ends (spec/01_machine.md R26). -/
def State.endWaiting (s : State) (p : Nat → BitVec 32 → BitVec 32 → Bool) : State :=
  let keep := fun (r : Reservation) => match r.holder with
    | .waiting q l i => !p q l i
    | .ctx _ => true
  { s with cores := s.cores.map fun (c : Nat × Core) => (c.1, { c.2 with resv := c.2.resv.filter keep }) }

/-- The unplaced instances of a launch are removed: the first and how many (R271). -/
def State.cancelLaunch (s : State) (qn : Nat) (j : BitVec 32) : (Nat × Nat) × State :=
  let q := s.queue qn
  match q.table.find? fun l => l.index == j with
  | none => ((0, 0), s)
  | some l =>
    if l.cut ≤ l.placed then ((l.count, 0), s) else
      let is := List.range' l.placed (l.cut - l.placed)
      let l' := { l with cut := l.placed, st := if l.placed = 0 then l.st else .dispatched }
      let s := s.setQueue qn { q with table := q.table.map fun y => if y.index == j then l' else y }
      let s := s.endWaiting fun a b i => a == qn && b == j && l.placed ≤ i.toNat
      ((l.placed, is.length), s.goneInstances q qn l is)

/-- q.cancel. -/
def execQCancel (qh : BitVec 4) (d a : Reg) (la : BitVec 4) (s : State) : Out :=
  s.withG [a] fun x =>
    match s.handle x qh with
    | some (.queue q) =>
      let j := x.readG a
      if j.toNat / 2 ^ 32 ≠ 0 then s.trap .rsvdField (lowWord (.qCancel qh d a la)) else
      let s := s.charge x.G
      if (s.queue q).table.any fun l => l.index == j.setWidth 32 then
        let ((f, k), s) := s.cancelLaunch q (j.setWidth 32)
        s.doneLa la [(d, BitVec.ofNat 64 (f * 2 ^ 32 + k), none)] [] 0 id
      else s.doneLa la [(d, BitVec.allOnes 64, none)] [] 0 id
    | _ => s.trap .access (qhTval qh)

/-! ## Gangs (R272-R274) -/

/-- Local number of a core in its cluster. -/
def localOf (h : Nat) : Nat := coreOf h % 8

/-- First core of the block of a gang of n. -/
def gangBlock (h n : Nat) : Nat := localOf h - localOf h % n

/-- Harts that have arrived for the gang of a hart: cluster, block, number and VI. -/
def State.arrivals (s : State) (h n : Nat) (number : Byte) : List Nat :=
  ((List.range 64).map fun k => clusterOf (coreOf h) * 64 + k).filter fun k =>
    match (s.hart k).arrival with
    | some a => a.number == number && gangBlock k a.size == gangBlock h n && (s.hart k).who.vi == (s.hart h).who.vi
    | none => false

/-- Members of a gang of 2, 4 or 8. -/
def gangSize (size : BitVec 2) : Nat := 2 ^ size.toNat

/-- A hart of the core of a hart is in the gang of this number, block and VI (R272). -/
def State.gangHere (s : State) (h n : Nat) (num : Byte) : Bool :=
  ((hartsOf (coreOf h)).filter (· != h)).any fun k =>
    match (s.hart k).gang with
    | some g => g.number == num && gangBlock k g.members.length == gangBlock h n && (s.hart k).who.vi == (s.hart h).who.vi
    | none => false

/-- gang.form. -/
def execGangForm (d a b : Reg) (size : BitVec 2) (s : State) : Out :=
  if s.me.inHandler then s.trap .priv (lowWord (.gangForm d a b size)) else
  s.drained fun s =>
    if s.me.anyUnlanded then s.waitPoll else
    s.withG [a, b] fun x =>
      let s := s.charge x.G
      let fail := fun (n : Int) => s.done fun y => y.writeG d (BitVec.ofInt 64 n)
      let n := gangSize size
      let num := x.readG a
      if x.gang.isSome then fail (-2)
      else if num.toNat / 256 ≠ 0 then fail (-1)
      else
        let as := s.arrivals s.cur n (num.setWidth 8)
        if (as.any fun k => coreOf k == coreOf s.cur) || s.gangHere s.cur n (num.setWidth 8) then fail (-3)
        else if as.any fun k => (match (s.hart k).arrival with
            | some r => r.size != n
            | none => false) || (s.hart k).sys.space.asid != x.sys.space.asid then fail (-1)
        else
          let r : GangArrival := { d := d, number := num.setWidth 8, size := n, since := x.sys.time.cycle, limit := x.readG b }
          .next (s.modMe fun y => { (y.setSt (.waiting .gang)) with arrival := some r })

/-- The gang that a hart waits for is complete: its members in core order. -/
def State.gangReady (s : State) (h : Nat) : Option (List Nat) :=
  match (s.hart h).arrival with
  | none => none
  | some r =>
    let as := s.arrivals h r.size r.number
    let ms := (List.range r.size).filterMap fun k => as.find? fun m => localOf m == gangBlock h r.size + k
    if ms.length = r.size then some ms else none

/-- GANG_FORMED (R272): every member gets its number and goes on after the leader's gang.form. -/
def execGangFormed (h : Nat) (s : State) : Out :=
  if 8192 ≤ h then .fault .noSuchUnit else
  match s.gangReady h with
  | none => .next s
  | some ms =>
    let lead := s.hart (ms.headD h)
    let num := match lead.arrival with
      | some r => r.number
      | none => 0
    let pc := lead.advance.core.pc
    let join := fun (s : State) (m : Nat × Nat) => (s.modHart m.1 fun y =>
      let d := match y.arrival with
        | some r => r.d
        | none => 0
      let y := ((y.writeG d (BitVec.ofNat 64 m.2)).goto pc).retire
      { y with arrival := none, gang := some { number := num, members := ms, finished := [], before := [] },
               core := { y.core with loop := lead.advance.core.loop } }).countDone m.1 (s.hart m.1)
    .next (ms.zipIdx.foldl join s)

/-- GANG_FORM_TIMEOUT (R272). -/
def execGangFormTimeout (h : Nat) (s : State) : Out :=
  if 8192 ≤ h then .fault .noSuchUnit else
  let x := s.hart h
  match x.arrival with
  | none => .next s
  | some r =>
    if r.limit == 0 || (x.sys.time.cycle - r.since).ult r.limit || (s.gangReady h).isSome then .next s
    else .next ((s.modHart h fun y => { ((y.writeG r.d (BitVec.ofInt 64 (-4))).advance.retire) with arrival := none }).countDone h x)

/-- gang.split: the whole gang passes it as one, and the queue of each member is charged (R273). -/
def execGangSplit (s : State) : Out :=
  if s.me.inHandler then s.trap .priv (lowWord .gangSplit) else
  match s.me.gang with
  | none => s.drained fun s => (s.charge s.me.G).done id
  | some g =>
    if g.members.any fun m => (s.hart m).landAll.isNone then s.stall
    else
      let pass := fun (s : State) (m : Nat) => (s.modHart m fun y =>
        { ((y.landAll).getD y).advance.retire with gang := none }).countDone m (s.hart m)
      .next (g.members.foldl pass (g.members.foldl (fun s m => s.chargeOf m (s.hart m).G) s))

/-! ## msg.send and hret (spec/12_engines_handlers.md R299, R301) -/

/-- A handler address lies in the VI's image. -/
def Vi.inImage (v : Vi) (h : Word) : Bool :=
  match v.tables.image with
  | some (base, size) => h.toNat % 16 = 0 && base.toNat ≤ h.toNat && h.toNat < base.toNat + size
  | none => false

/-- The target of a message: DRAM of class I, translated as a load. -/
def State.msgTarget (s : State) (w : Who) (t : Word) : Except Cause (Nat × Xlat) × State :=
  if isSheet t then (.error .access, s) else
  let (r, s) := s.xlate w false .load t
  match r with
  | .error c => (.error c, s)
  | .ok x =>
    match place (x.page * 4096 + t.toNat % 4096) with
    | .dram a => (if x.idem then .ok (a, x) else .error .access, s)
    | _ => (.error .access, s)

/-- A message joins a slice's queue. -/
def State.accept (s : State) (k : Nat) (m : Message) : State := s.modSlice k fun y => { y with msgs := y.msgs ++ [m] }

/-- A message joins a slice's queue when it has room and no other message of its sender waits for that; otherwise it waits
as an entry of the hart, or of the Pip core, that sent it. -/
def State.deliverMsg (s : State) (k : Nat) (m : Message) (hart uid : Nat) (pc : Word) : Bool × State :=
  if (s.slice k).msgs.length < 64 && (s.waiting fun e => e.hart == hart && e.sends k).isEmpty then (true, s.accept k m)
  else (false, s.addEntry { id := m.id, hart := hart, uid := uid, pc := pc, post := .send k m })

/-- New handlers are being installed for a VI: its sends wait at their address check (spec/15_tables.md R358). -/
def State.installing (s : State) (vi : Nat) : Bool :=
  s.vis.any fun v => v.2.cmdqs.toList.any fun q => match q.todo with
    | c :: _ => c.begun && (match c.cmd with
      | some (op, d) => op == 0x14 && d.tvi == vi
      | none => false)
    | [] => false

/-- msg.send: without room at the slice it waits within its window. -/
def execMsgSend (mode : MsgMode) (d a b c : Reg) (qh : BitVec 4) (la : BitVec 4) (s : State) : Out :=
  s.withG ([a, b, c, c + 1, c + 2, c + 3] ++ (if mode == .port then [d] else [])) fun x =>
    let h := x.readG a
    let t := x.readG b
    let w := s.who s.cur
    if s.installing x.who.vi.toNat then s.stall else
    if !(s.vi x.who.vi.toNat).inImage h then s.trap .access h else
    let (r, s) := s.msgTarget w t
    match r with
    | .error f => s.trap f t
    | .ok (pa, _) =>
      let port := s.portHandle x qh false
      let bad := mode == .port && (match port with
        | some (_, p, _) => p < 0x100
        | none => true)
      if bad then s.trap .access (qhTval qh) else
      let k := homeSlice pa
      s.released x.core.vs.cfg.sc fun s =>
        let (mid, s) := (s.charge x.G).netId
        let dp := match port with
          | some (die, p, _) => (die, p)
          | none => (0, 0)
        let m : Message := { handler := h, target := t, args := [x.readG c, x.readG (c + 1), x.readG (c + 2), x.readG (c + 3)],
                             sender := s.cur, sendUid := x.who.uid, vi := x.who.vi.toNat, space := x.sys.space, mode := mode,
                             id := mid, dest := d, tag := x.readG d, die := dp.1, port := dp.2, hop := 0, sc := x.core.vs.cfg.sc, quiet := false }
        match s.lost (dieOf s.cur) (dramDie pa) with
        | (none, s) =>
          let (room, s) := s.deliverMsg k m s.cur x.who.uid x.core.pc
          if mode == .reply then s.doneAwait la (.message mid) id
          else if room then s.doneLa la [] [] 0 id else s.doneAwait la (.entry mid) id
        | (some link, s) =>
          let (f, s) := s.draw
          let s := (s.linkErr w pa link)
          let s := if Config.freeBit f && (s.slice k).msgs.length < 64 then s.accept k { m with quiet := true } else s
          if mode == .reply then s.doneLa la [(d, 0x21, none), (d + 1, Config.freeWord f, none)] [] 0 id
          else (s.pend w .linkLost).doneLa la [] [] 0 id

/-! ## What waits gets its place -/

/-- An entry has got its place: its instruction's window gets its results. -/
def State.admitted (s : State) (k : Nat) (e : Entry) (gw : List (Reg × Word × Option Poison)) : State :=
  let s := { s with net := { s.net with entries := s.net.entries.eraseIdx k } }
  if e.hart < 8192 then s.modHart e.hart fun x => x.answer (.entry e.id) gw else s

/-- An engine, port or slice serves the k-th entry that waits, when it can and it is its turn: pushes and pops of a port in the
order of their arrival, copies and seals of a hart in its order, messages of one sender to one slice in theirs. -/
def State.enterQueue (s : State) (k : Nat) : State :=
  match s.net.entries[k]? with
  | none => s
  | some e =>
    if !s.entryLive e then { s with net := { s.net with entries := s.net.entries.eraseIdx k } } else
    let before := fun (p : Entry → Bool) => (s.net.entries.take k).filter fun o => p o && s.entryLive o
    match e.post with
    | .push die vi port rs =>
      let depth := ((portKind 2 port <|> portKind 3 port).map Prod.fst).getD 0
      if !(before fun o => o.pushes die vi port).isEmpty || depth < (s.port die vi port).recs.length + rs.length then s
      else (s.push die vi port rs).admitted k e []
    | .pop die vi port off d =>
      (match s.popAt { s.who e.hart with pc := e.pc } die vi port off (before fun o => o.pops die vi port).length false with
        | some (st, s) => s.admitted k e [(d, BitVec.ofNat 64 st, none)]
        | none => s)
    | .copy ch c =>
      let x := s.hart e.hart
      if !(before fun o => o.hart == e.hart && o.engine).isEmpty || 16 ≤ (x.eng.chan ch).copies.length then s
      else (s.modHart e.hart fun y => { y with eng := y.eng.enqueue ch c }).admitted k e []
    | .seal d =>
      let x := s.hart e.hart
      if !(before fun o => o.hart == e.hart && o.engine).isEmpty || 1024 ≤ x.eng.unfinished then s
      else (s.modHart e.hart fun y => { y with eng := y.eng.seal }).admitted k e [(d, x.eng.next.setWidth 64, none)]
    | .send sl m =>
      if !(before fun o => o.hart == e.hart && o.sends sl).isEmpty || 64 ≤ (s.slice sl).msgs.length then s
      else (s.accept sl m).admitted k e []
    | .build die vi c d =>
      let q := s.builderQ die vi
      if !(before fun o => o.builds die vi).isEmpty || 256 ≤ q.cmds.length then s
      else (s.sendBuild die vi c).admitted k e [(d, q.seq.setWidth 64, none)]

/-- hret: a hart is never in a handler activation (Table 12.7). -/
def execHret (a : Reg) (s : State) : Out := s.trap .priv (lowWord (.hret a))

end Sys2Proof.Machine
end

