-- ==== Sys2Proof/Machine/Launches.lean ====
section
/-! DEFINITION. Launch queues and the dispatcher (spec/11_queues_scheduling.md R252-R266, spec/15_tables.md R351-R354):
the events TAIL_NOTIFY_WRITE, HOST_HOLD, DISPATCHER_CONSUME, RECORD_REREAD, DISPATCH, PREEMPT_DELAY_EXPIRY,
INSTANCE_RETIRE and LAUNCH_RETIRE. -/

namespace Sys2Proof.Machine

open Sys2Proof

/-! ## Records (R252-R255) -/

/-- The address of the record of an index. -/
def DevQueue.recordAt (q : DevQueue) (j : BitVec 32) : Word := q.ring + BitVec.ofNat 64 (64 * (j.toNat % 2 ^ q.logsize))

/-- Local cores of a record that it may be placed on. -/
def Launch.locals (l : Launch) : List Nat :=
  (List.range 8).filter fun k => (l.word 7).getLsbD (24 + k) && (!l.gfx || k % 4 == 0)

/-- The eligible set in ascending core number (R261). -/
def Launch.eligible (l : Launch) : List Nat :=
  let dies := (List.range 8).filter fun d => (l.word 7).getLsbD (16 + d)
  let cls := (List.range 16).filter fun c => (l.word 7).getLsbD c
  dies.flatMap fun d => cls.flatMap fun c => l.locals.map fun k => d * 128 + c * 8 + k

/-- A template slot names, for a count of instances, its last group, its largest N and how many groups (spec/15_tables.md
R352). -/
def TmplSlot.extent (t : TmplSlot) (count : Nat) : Nat × Nat × Nat :=
  let p := t.param.toNat
  let k := if t.mode == 1 then (count + p - 1) / p else if t.mode == 2 then min p count else if t.mode == 3 then min 1 count else 0
  let n := if t.mode == 1 then min p count else if t.mode == 2 then (count + p - 1) / p else if t.mode == 3 then count else 0
  (t.gbase.toNat + k - 1, n, k)

/-- N of group g of a slot. -/
def TmplSlot.members (t : TmplSlot) (count g : Nat) : Nat :=
  let p := t.param.toNat
  let k := g - t.gbase.toNat
  if t.mode == 1 then min p (count - p * k)
  else if t.mode == 2 then (count + p - 1 - k) / p
  else if t.mode == 3 then count else 0

/-- The groups of a slot. -/
def TmplSlot.groups (t : TmplSlot) (count : Nat) : List Nat :=
  (List.range (t.extent count).2.2).map fun k => t.gbase.toNat + k

/-- R352: the template forms no group for this count. -/
def templateFaults (ts : List TmplSlot) (count : Nat) : Bool :=
  let used := ts.filter fun t => t.mode != 0
  count != 0 &&
    ((used.any fun t => 255 < (t.extent count).1 || 8064 < (t.extent count).2.1) ||
     (2 ≤ used.length && (List.range count).any fun i =>
        let gs := used.filterMap fun t => (t.place i).map Prod.fst
        gs.eraseDups.length != gs.length))

/-- The first failing code of Table 11.3; 0: none. -/
def State.recordFault (s : State) (q : DevQueue) (l : Launch) : Nat :=
  let w := l.word
  if (w 0).toNat >>> 51 != 0 || bitsOf (w 0) 39 37 != 0 || bitsOf (w 3) 63 32 != 0 || bitsOf (w 6) 63 32 != 0 ||
      bitsOf (w 7) 63 32 != 0 then 1
  else if l.lreq == 0 || 16 < l.lreq then 2
  else if (w 1).toNat % 16 != 0 || !canonical (w 1) then 3
  else if l.eligible.isEmpty then 4
  else if l.count == 0xFFFFFFFF then 5
  else if (w 4).toNat % 8 != 0 then 6
  else if (w 5).toNat % 16 != 0 || bitsOf (w 6) 31 0 % 16 != 0 then 7
  else match l.tmpl with
    | none => 0
    | some t =>
      match tfind (s.vi q.vi).tables.tmpls t with
      | none => 8
      | some ts => if templateFaults ts l.count then 8 else 0

/-! ## Consuming (R254, R255, R257) -/

/-- QUEUE_FAULT (R255). -/
def State.queueFault (s : State) (qn code : Nat) : State :=
  s.modQueue qn fun q => { q with st := .faulted, errcode := BitVec.ofNat 8 code, errseq := q.head }

/-- The words of a record. -/
def wordsOf (bs : List Byte) : List Word := (List.range (bs.length / 8)).map fun k => BitVec.ofNat 64 (leNat ((bs.drop (8 * k)).take 8))

/-- The dispatcher looks at the record at HEAD: an invalid one makes it wait. -/
def State.consume (s : State) (qn : Nat) : State :=
  match tfind s.queues qn with
  | none => s
  | some q =>
    if q.st != .active || 8 ≤ q.table.length || q.head == q.tail then s else
    let w := s.whoVi q.vi q.asid
    let (r0, s) := s.devRead w (q.recordAt q.head) 8
    match r0 with
    | none => s.queueFault qn 9
    | some b0 =>
      if BitVec.ofNat 32 (leNat (b0.take 4)) != q.head then s else
      let (r1, s) := s.devRead w (q.recordAt q.head + 8) 56
      match r1 with
      | none => s.queueFault qn 9
      | some b1 =>
        let l : Launch := { index := q.head, words := wordsOf (b0 ++ b1), st := .pending, placed := 0, cut := 0, retired := 0 }
        let l := { l with cut := l.count }
        let code := s.recordFault q l
        if code != 0 then s.queueFault qn code
        else s.setQueue qn { q with head := q.head + 1, table := q.table ++ [l] }

/-- DISPATCHER_CONSUME. -/
def execDispatcherConsume (q : Nat) (s : State) : Out := if 4096 ≤ q then .fault .noSuchUnit else .next (s.consume q)

/-- RECORD_REREAD. -/
def execRecordReread (q : Nat) (s : State) : Out := if 4096 ≤ q then .fault .noSuchUnit else .next (s.consume q)

/-- The device queue in a slot of a VI. -/
def State.slotQueue (s : State) (vi slot : Nat) : Option Nat := tfind (s.vi vi).tables.slots slot

/-- TAIL_NOTIFY_WRITE (R256). -/
def execTailNotifyWrite (vi slot : Nat) (x : BitVec 32) (s : State) : Out :=
  if 128 ≤ vi || 256 ≤ slot then .fault .noSuchUnit else
  match s.slotQueue vi slot with
  | none => .next s
  | some q =>
    let (ok, s) := s.heard vi
    .next (if ok then s.ackAll.modQueue q fun y => y.notify x else s)

/-- HOST_HOLD (R259). -/
def execHostHold (vi slot : Nat) (hold : Bool) (s : State) : Out :=
  if 128 ≤ vi || 256 ≤ slot then .fault .noSuchUnit else
  match s.slotQueue vi slot with
  | none => .next s
  | some q =>
    let (ok, s) := s.heard vi
    .next (if ok then s.modQueue q fun y => y.hold hold else s)

/-! ## Completion counters (R266) -/

/-- n added to a completion counter in an address space, as one combining amo.add; a counter that cannot be updated is
dropped with a COUNTER record of the given INFO and DATA. -/
def State.addCounter (s : State) (d vi : Nat) (asid : BitVec 16) (addr : Word) (n info : Nat) (data : Word) : State :=
  let drop := fun (s : State) => s.logErr d (some vi) 0 info noHart addr data
  let (r, s) := s.devXlate (s.whoVi vi asid) .atomic addr
  match r with
  | .error _ => drop s
  | .ok x =>
    match place (x.page * 4096 + addr.toNat % 4096) with
    | .dram a =>
      let (g, s) := s.freshRead x.tag (.dram a) 8
      if g.2 then drop s else s.homeWrite 0 x.tag a (leBytes 8 (leNat g.1 + n)) none
    | _ => drop s

/-- The counter of a launch. -/
def State.addDone (s : State) (qn : Nat) (q : DevQueue) (l : Launch) (n : Nat) : State :=
  if l.done == 0 || n = 0 then s else s.addCounter q.die q.vi q.asid l.done n qn (l.index.setWidth 64)

/-! ## Order and retirement of launches (R260, Table 11.5) -/

/-- The launches before one in the table. -/
def DevQueue.before (q : DevQueue) (j : BitVec 32) : List Launch := q.table.takeWhile fun l => l.index != j

/-- R260: the launch may begin. -/
def DevQueue.permits (q : DevQueue) (l : Launch) : Bool :=
  if l.serial then (q.before l.index).isEmpty else (q.before l.index).all fun e => e.st == .dispatched

/-- A launch leaves the table: removed instances are counted, its groups are free again, and a queue being destroyed goes
with its last launch (spec/15_tables.md R348). -/
def State.endLaunch (s : State) (qn : Nat) (l : Launch) : State :=
  let q := s.queue qn
  let s := s.addDone qn q l (l.count - l.cut)
  let s := s.modVi q.vi fun v =>
    { v with tables := { v.tables with groups := v.tables.groups.filter fun (g : Nat × Group) =>
        !(g.2.queue.toNat == qn && g.2.lseq == l.index) } }
  let q := { q with table := q.table.filter fun e => e.index != l.index }
  if q.dying && q.table.isEmpty then
    let s := s.modVi q.vi fun v => { v with tables := { v.tables with slots := v.tables.slots.filter fun e => e.2 != qn } }
    { s with queues := tdel s.queues qn }
  else s.setQueue qn q

/-- LAUNCH_RETIRE (R259, R271): a launch of which no instance is left. -/
def execLaunchRetire (qn : Nat) (j : BitVec 32) (s : State) : Out :=
  if 4096 ≤ qn then .fault .noSuchUnit else
  match tfind s.queues qn with
  | none => .next s
  | some q =>
    match q.table.find? fun l => l.index == j with
    | none => .next s
    | some l =>
      if l.placed = l.cut && l.retired = l.placed && (l.placed != 0 || q.permits l) then .next (s.endLaunch qn l) else .next s

/-! ## Dispatch (R260-R262) -/

/-- The oldest launch with instances that are not placed. -/
def DevQueue.nextLaunch (q : DevQueue) : Option Launch := q.table.find? fun l => l.placed < l.cut

/-- R353: no group that the launch names is in use by another. -/
def State.groupsFree (s : State) (qn : Nat) (q : DevQueue) (l : Launch) : Bool :=
  (s.launchSlots q l).all fun t => (t.groups l.count).all fun g =>
    match (s.vi q.vi).group g with
    | some e => !e.v || (e.queue.toNat == qn && e.lseq == l.index)
    | none => true

/-- A list from position k on, cyclically. -/
def rotate {α : Type} (l : List α) (k : Nat) : List α := l.drop k ++ l.take k

/-- The lowest-numbered lane group that a holder can take on a core, with its slice set. -/
def State.oneUnit (s : State) (c : Nat) (w : Option Holder) : Option (Nat × Nat) := (s.unitsFor c w []).head?

/-- Where the next instance of a launch goes (R261): hart, lane group and slice set. -/
def State.placeFor (s : State) (qn : Nat) (l : Launch) : Option (Nat × Nat × Nat) :=
  let w : Holder := .waiting qn l.index (BitVec.ofNat 32 l.placed)
  let es := l.eligible
  let mine := (s.cores.find? fun (c : Nat × Core) => c.2.resv.any fun r => r.holder == w).map Prod.fst
  let at_ := fun (c : Nat) (w : Option Holder) =>
    match s.freeHart c, s.oneUnit c w with
    | some h, some u => some (h, u.1, u.2)
    | _, _ => none
  match mine.bind fun c => at_ c (some w) with
  | some p => some p
  | none => (rotate es (l.placed % es.length)).findSome? fun c => at_ c none

/-- The next instance of a queue with its place, when the dispatcher can place it now. -/
def State.placeable (s : State) (qn : Nat) : Option (Launch × Nat × Nat × Nat × Nat) :=
  match tfind s.queues qn with
  | none => none
  | some q =>
    let v := s.vi q.vi
    if q.st != .active || !v.active then none else
    match q.nextLaunch with
    | none => none
    | some l =>
      if !(q.permits l && s.groupsFree qn q l) then none else
      match v.trap.freeArea, s.placeFor qn l with
      | some a, some p => some (l, p.1, p.2.1, p.2.2, a)
      | _, _ => none

/-- A context of a queue can resume on its core (spec/18_traps.md R416). -/
def State.ctxFits (s : State) (c : SavedCtx) : Bool :=
  (s.freeHart c.core).isSome && c.hart.G ≤ (s.unitsFor c.core (some (.ctx c.hart.who.uid)) []).length

/-- How far a queue is behind the one served last among the queues of its die and priority, in ascending queue number
(R262). -/
def State.turnOf (s : State) (die : Nat) (prio : BitVec 3) (qn : Nat) : Nat := match tfind (s.die die).served prio.toNat with
  | some k => (qn + 4095 - k) % 4096
  | none => qn

/-- Another queue of the die can place an instance or resume a context now, and comes first: by its priority, or among
equal priorities by its turn (R262). -/
def State.outranked (s : State) (die : Nat) (prio : BitVec 3) (qn : Nat) : Bool :=
  s.queues.any fun (e : Nat × DevQueue) => e.2.die == die && e.1 != qn &&
    (decide (prio < e.2.prio) || (e.2.prio == prio && decide (s.turnOf die prio e.1 < s.turnOf die prio qn))) &&
    ((s.placeable e.1).isSome || (s.vi e.2.vi).ctxs.any fun c => c.hart.who.queue.toNat == e.1 && s.ctxFits c)

/-- The dispatcher of a queue's die has served it. -/
def State.dispatchedFor (s : State) (qn : Nat) (q : DevQueue) : State :=
  s.modDie q.die fun d => { d with served := tset d.served q.prio.toNat qn }

/-- The scope code of a set of cores (Table 09.2). -/
def scopeOf (cs : List Nat) : BitVec 2 :=
  match cs with
  | [] => 0
  | c :: rest =>
    if rest.all fun d => d == c then 0
    else if rest.all fun d => dieOfCore d == dieOfCore c then 1
    else 2

/-- A group as the first placement of its launch fills it. -/
def newGroup (qn : Nat) (l : Launch) (tm slot n : Nat) : Group :=
  { v := true, queue := BitVec.ofNat 12 qn, lseq := l.index, tslot := BitVec.ofNat 2 slot, tmpl := BitVec.ofNat 8 tm,
    phase := 0, n := n, gone := [], arrived := [], scope := 0, homes := [] }

/-- The groups of a launch filled when its first instance is placed (spec/15_tables.md R353); members that q.cancel has
removed count as gone. -/
def State.fillGroups (s : State) (qn : Nat) (q : DevQueue) (l : Launch) : State :=
  match l.tmpl with
  | none => s
  | some tm =>
    let slots := s.launchSlots q l
    let v := slots.zipIdx.foldl (fun (v : Vi) (t : TmplSlot × Nat) =>
      (t.1.groups l.count).foldl (fun (v : Vi) g => v.setGroup g (newGroup qn l tm t.2 (t.1.members l.count g))) v) (s.vi q.vi)
    (s.setVi q.vi v).goneInstances q qn l (List.range' l.cut (l.count - l.cut))

/-- A member placed on a core widens the scope of the groups that it is a member of by the slot that filled them
(spec/15_tables.md R354). -/
def State.widen (s : State) (q : DevQueue) (l : Launch) (i core : Nat) : State :=
  (s.launchSlots q l).zipIdx.foldl (fun s t =>
    match t.1.place i with
    | none => s
    | some (g, _) =>
      s.modVi q.vi fun v => match v.group g with
        | some e => if e.tslot.toNat != t.2 then v else
          v.setGroup g { e with homes := core :: e.homes, scope := scopeOf (core :: e.homes) }
        | none => v) s

/-- GSLOT0-GSLOT3 of instance i. -/
def State.slotsOf (s : State) (q : DevQueue) (l : Launch) (i : Nat) : Vector GSlot 4 :=
  let ts := s.launchSlots q l
  Vector.ofFn fun n => match ts[n.val]? with
    | some t => (match t.place i with
      | some (g, _) => { v := true, group := BitVec.ofNat 8 g }
      | none => { v := false, group := 0 })
    | none => { v := false, group := 0 }

/-- The entry state of instance i of a launch (R262, R28, R73). -/
def State.entryHart (s : State) (qn : Nat) (q : DevQueue) (l : Launch) (i area uid : Nat) (u : Nat × Nat) : Hart :=
  let v := s.vi q.vi
  let r := Hart.reset
  let stack := l.word 5
  let sp := if stack == 0 then 0 else stack + BitVec.ofNat 64 ((i + 1) * bitsOf (l.word 6) 31 0)
  let x : Hart :=
    { r with
      core := { r.core with st := .running, pc := l.word 1 },
      lanes := { grant := [u], ceil := q.ceil, lreq := BitVec.ofNat 5 l.lreq, kept := false, reclaim := none },
      sys := { r.sys with strap := v.trap.startSet area, tdeleg := v.trap.tdeleg,
                          space := tget { iroot := 0, droot := 0, asid := q.asid } v.spaces q.asid.toNat,
                          qmap := v.tables.handles, gslot := s.slotsOf q l i },
      who := { lseq := l.index, index := BitVec.ofNat 32 i, prio := q.prio, vi := BitVec.ofNat 7 q.vi,
               queue := BitVec.ofNat 12 qn, uid := uid, parent := none, area := some area, exited := false } }
  let x := ((x.writeG 1 (l.word 2)).writeG 2 (BitVec.ofNat 64 i)).writeG 3 (BitVec.ofNat 64 l.count)
  (x.writeG 4 (l.index.setWidth 64)).writeG 63 sp

/-- A core whose harts are of no instance of the queue forgets its deficit (R265). -/
def State.arriveQueue (s : State) (core qn : Nat) : State :=
  if (hartsOf core).any fun h => !isFirmwareHart h && (s.hart h).core.st != .free && (s.hart h).who.queue.toNat == qn then s
  else s.modCore core fun c => { c with deficit := tdel c.deficit qn }

/-- The placement of the next instance of a launch. -/
def State.placeInstance (s : State) (qn : Nat) (q : DevQueue) (l : Launch) (h : Nat) (u : Nat × Nat) (area : Nat) : State :=
  let i := l.placed
  let core := coreOf h
  let s := if i = 0 then s.fillGroups qn q l else s
  let s := s.widen q l i core
  let s := s.arriveQueue core qn
  let s := s.endWaiting fun a b c => a == qn && b == l.index && c.toNat == i
  let uid := s.fw.nextUid
  let x := s.entryHart qn q l i area uid u
  let s := { s with fw := { s.fw with nextUid := uid + 1 } }
  let s := s.modVi q.vi fun v => { v with trap := { v.trap with used := area :: v.trap.used } }
  let l' := { l with placed := i + 1, st := if i + 1 = l.cut then .dispatched else .dispatching }
  let s := s.setQueue qn { q with table := q.table.map fun e => if e.index == l.index then l' else e }
  let s := (s.setHart h x).dropL1 core
  s.trace h 4 x.core.pc x.who.taskq x.who.instid

/-- DISPATCH. -/
def execDispatch (qn : Nat) (s : State) : Out :=
  if 4096 ≤ qn then .fault .noSuchUnit else
  let q := s.queue qn
  match s.placeable qn with
  | none => .next s
  | some (l, h, g, k, a) =>
    if s.outranked q.die q.prio qn || (s.vi q.vi).ctxs.any (fun c => c.hart.who.queue.toNat == qn && s.ctxFits c) then .next s
    else .next ((s.dispatchedFor qn q).placeInstance qn q l h (g, k) a)

/-! ## PREEMPT_DELAY (R264) -/

/-- The victim with the least priority among candidates, ties broken by a key and then by the highest hart number. -/
def State.victim (s : State) (hs : List Nat) (key : Hart → Nat) : Option Nat :=
  let better := fun (a b : Nat) =>
    let x := s.hart a
    let y := s.hart b
    if x.who.prio != y.who.prio then decide (x.who.prio < y.who.prio)
    else if key x != key y then decide (key y < key x) else decide (b < a)
  hs.foldl (fun (m : Option Nat) h => match m with
    | none => some h
    | some k => if better h k then some h else some k) none

/-- PREEMPT_DELAY_EXPIRY: the next instance of a queue has waited PREEMPT_DELAY cycles. -/
def execPreemptDelayExpiry (qn : Nat) (s : State) : Out :=
  if 4096 ≤ qn then .fault .noSuchUnit else
  match tfind s.queues qn with
  | none => .next s
  | some q =>
    match q.nextLaunch with
    | none => .next s
    | some l =>
      if q.st != .active || !q.permits l || (s.placeable qn).isSome then .next s else
      let es := l.eligible
      let c := es.getD (l.placed % es.length) 0
      let below := (hartsOf c).filter fun h =>
        let x := s.hart h
        !isFirmwareHart h && decide (x.who.prio < q.prio) && (match x.core.st with
          | .running | .waiting _ => true
          | _ => false)
      match s.freeHart c with
      | some _ =>
        (match s.victim (below.filter fun h => 1 < (s.hart h).G) Hart.G with
          | some v => .next (s.modHart v fun x =>
              { x with lanes := x.lanes.setCeil (x.G - 1) (.waiting qn l.index (BitVec.ofNat 32 l.placed)) })
          | none => .next s)
      | none =>
        (match s.victim below fun _ => 0 with
          | some v => .next (s.modHart v fun x => { x with irq := { x.irq with preempt := true } })
          | none => .next s)

/-! ## Retirement of instances (R18) -/

/-- The matrix claims of an instance end, held and saved (spec/07_matrix_isa.md R158). -/
def State.dropClaims (s : State) (c : Claim) : State :=
  let s := { s with cores := s.cores.map fun (e : Nat × Core) =>
    (e.1, if e.2.mat.claim == some c then { e.2 with mat := { e.2.mat with claim := none } } else e.2) }
  s.modVi c.vi.toNat fun v =>
    let units := (v.claims.filter fun e => e.claim == c).map fun e => e.unit
    { v with claims := v.claims.filter fun e => e.claim != c,
             trap := { v.trap with units := v.trap.units.filter fun u => !units.contains u } }

/-- The groups of a hart that ends: those that a pending reclaim asked for go to its recipient (spec/18_traps.md R414). -/
def State.releaseGrant (s : State) (h : Nat) : State :=
  let x := s.hart h
  match x.lanes.reclaim with
  | none => s
  | some r =>
    (s.reserve (coreOf h) (s.holderOf r.recipient) (x.lanes.grant.drop x.lanes.ceil.toNat)).countEvent (coreOf h) x.who.vi 0x10 1

/-- An instance that its queue placed has retired. -/
def State.instanceDone (s : State) (w : Identity) : State :=
  let qn := w.queue.toNat
  match tfind s.queues qn with
  | none => s
  | some q =>
    match q.table.find? fun l => l.index == w.lseq with
    | none => s
    | some l =>
      let s := s.goneInstances q qn l [w.index.toNat]
      let l := { l with retired := l.retired + 1 }
      let s := s.setQueue qn { q with table := q.table.map fun e => if e.index == l.index then l else e }
      let s := s.addDone qn q l 1
      if l.placed = l.cut && l.retired = l.placed then s.endLaunch qn l else s

/-- A root hart gives back what it holds and becomes FREE, and its instance retires; its `exit` has then completed. -/
def State.retireRoot (s : State) (h : Nat) : State :=
  let x := s.hart h
  let s := if x.who.exited then s.countDone h x else s
  let s := s.trace h 5 x.core.pc 0 x.who.instid
  let s := ((s.releaseGrant h).dropClaims x.who.claim).unreserve (coreOf h) (.ctx x.who.uid)
  (s.leave h).instanceDone x.who

/-- INSTANCE_RETIRE. -/
def execInstanceRetire (h : Nat) (s : State) : Out :=
  if 8192 ≤ h then .fault .noSuchUnit else
  let x := s.hart h
  if x.core.st == .waiting .retire && x.copiesDone && !s.hasChild x.who.vi.toNat x.who.uid && s.acked && !s.atmsOpen x.who.uid then
    .next (s.retireRoot h)
  else .next s

end Sys2Proof.Machine
end

