-- ==== Sys2Proof/Machine/Contexts.lean ====
section
/-! DEFINITION. What ROM firmware does with a trap taken in mode M (spec/18_traps.md R401), and contexts that leave their
hart: FULL_SWITCH and CONTEXT_RESUME (R415-R418), MIGRATION_PLACE (spec/01_machine.md R40, R41) and MATRIX_CLAIM_GRANT
(spec/07_matrix_isa.md R158). -/

namespace Sys2Proof.Machine

open Sys2Proof

/-! ## Contexts of an instance -/

/-- The harts that run contexts of an instance. -/
def State.hartsOfInstance (s : State) (c : Claim) : List Nat :=
  (s.tasks.filter fun e => e.2.core.st != .free && e.2.who.claim == c).map Prod.fst

/-- A hart of an instance other than h is on a core. -/
def State.othersOn (s : State) (core h : Nat) (c : Claim) : Bool :=
  (s.hartsOfInstance c).any fun k => k != h && coreOf k == core

/-- A context ends with nothing reserved for it. -/
def State.dropHart (s : State) (h : Nat) : State := (s.unreserve (coreOf h) (.ctx (s.hart h).who.uid)).leave h

/-- Saved contexts of a VI are discarded with their units, save areas and pins. -/
def State.dropSaved (s : State) (vi : Nat) (p : SavedCtx → Bool) : State :=
  let gone := (s.vi vi).ctxs.filter p
  let s := gone.foldl (fun s (c : SavedCtx) => (s.unpinAll vi c.hart).freeArea vi c.hart.who.area) s
  s.modVi vi fun v =>
    { v with ctxs := v.ctxs.filter fun c => !p c,
             trap := { v.trap with units := v.trap.units.filter fun u => !gone.any fun c => c.unit == u } }

/-- The claim of a core that an instance holds ends. -/
def State.dropClaimOn (s : State) (core : Nat) (c : Claim) : State :=
  s.modMatrix core fun m => if m.claim == some c then { m with claim := none } else m

/-! ## CONTEXT_END (R401) -/

/-- The CONTEXT record of a context that firmware ends. -/
def State.contextRecord (s : State) (h : Nat) : State :=
  let x := s.hart h
  let r := x.sys.mtrap
  let inner := if x.frames.tail.any fun f => f.mode == .s then x.sys.strap.tcause.toNat else 0
  s.logErr (dieOf h) (some x.who.vi.toNat) 7 (r.tcause.toNat + 256 * inner) h r.tpc r.tval

/-- Firmware ends a context, once copies of its instance are drained; a child first waits for its own children. -/
def State.contextEnd (s : State) (h : Nat) : State :=
  let x := s.hart h
  let vi := x.who.vi.toNat
  let c := x.who.claim
  match x.who.parent with
  | some _ =>
    if s.hasChild vi x.who.uid || !x.copiesDone then s else
      let s := s.contextRecord h
      let s := if s.othersOn (coreOf h) h c then s else s.dropClaimOn (coreOf h) c
      s.dropHart h
  | none =>
    let others := (s.hartsOfInstance c).filter fun k => k != h
    if !((h :: others).all fun k => (s.hart k).copiesDone && s.acked && !s.atmsOpen (s.hart k).who.uid) then s else
      let s := others.foldl State.dropHart (s.contextRecord h)
      (s.dropSaved vi fun y => y.hart.who.claim == c).retireRoot h

/-! ## Firmware at a hart (R401) -/

/-- Firmware handles a trap of the hart. -/
def Hart.served (x : Hart) : Bool :=
  x.core.mode == .m && (match x.frames with
    | f :: _ => f.mode == .m
    | [] => false)

/-- What firmware does at a turn of a hart it serves: a CYCLE_MATCH returns; ECALL_S answers −1 and returns past the ecall;
a PREEMPT waits for FULL_SWITCH; a stop is held until its stop register is written; any other cause ends the context. -/
def State.firmware (s : State) (h : Nat) : State :=
  let x := s.hart h
  let c := x.sys.mtrap.tcause
  if x.irq.held then s
  else if c == 0x3A then s.sretAt h
  else if c == 0x31 then
    (s.modHart h fun x =>
      let x := x.writeG 1 (BitVec.allOnes 64)
      { x with sys := { x.sys with mtrap := { x.sys.mtrap with tpc := x.sys.mtrap.tpc + 16 } } }).sretAt h
  else if c == 0x38 then s
  else s.contextEnd h

/-! ## Saving a matrix claim (spec/18_traps.md R417, R418) -/

/-- The lowest free unit of a VI's context pool. -/
def TrapConf.freeUnit (t : TrapConf) : Option Nat := findBelow (fun k => !t.units.contains k) t.npool

def Vi.takeUnit (v : Vi) (u : Nat) : Vi := { v with trap := { v.trap with units := u :: v.trap.units } }

/-- MATRIX_CLAIM_SAVE: the tiles and slots of a core written to a unit, and the claim released; while no unit is free the
claim stays where it is. -/
def State.saveClaim (s : State) (core : Nat) : State :=
  let m := s.matrix core
  match m.claim with
  | none => s
  | some c =>
    let vi := c.vi.toNat
    match (s.vi vi).trap.freeUnit with
    | none => s
    | some u =>
      let base := (s.vi vi).trap.unitAddr u
      let bad := fun (t : Tab Poison) (n l : Nat) => t.findSome? fun e => if e.1 / n = l then some e.2 else none
      let s := (List.range 8).foldl (fun s t =>
        s.putLines 0 (base + 0x1000 * t) 32 (m.tile t).toNat fun l => bad m.tPoison 32 (32 * t + l)) s
      let s := (List.range 64).foldl (fun s k =>
        s.putLines 0 (base + 0x8000 + 0x1000 * k) 32 (tget 0 m.panels k).toNat fun l => bad m.wPoison 16 (32 * k + l)) s
      let e : SavedClaim := { unit := u, claim := c }
      let s := s.modVi vi fun v => { v.takeUnit u with claims := v.claims ++ [e] }
      s.modMatrix core fun m => { m with claim := none }

/-- The claim of a core is held by an instance of which no hart is on the core. -/
def State.claimOrphan (s : State) (core : Nat) : Bool :=
  match (s.matrix core).claim with
  | none => false
  | some c => !(s.hartsOfInstance c).any fun k => coreOf k == core

/-- MATRIX_CLAIM_GRANT (R158): a claim left behind is saved first; the hart then takes the free claim and runs on. -/
def execMatrixClaimGrant (h : Nat) (s : State) : Out :=
  if 8192 ≤ h then .fault .noSuchUnit else
  let x := s.hart h
  if x.core.st != .waiting .claim then .next s else
  let core := coreOf h
  let s := if s.claimOrphan core then s.saveClaim core else s
  match (s.matrix core).claim with
  | none => .next ((s.giveClaim core x.who.claim).modHart h Hart.resume)
  | some c => if c == x.who.claim then .next (s.modHart h Hart.resume) else .next s

/-! ## The context record (Table 18.5) -/

/-- Control registers of Table 03.2. -/
def crNumbers : List Nat := (List.range 0xA0).filter fun n => crAssigned (BitVec.ofNat 12 n)

/-- Registers that the resumption writes back. -/
def crRestored : List Nat := crNumbers.filter fun n => (crWriteMode n).isSome

/-- The words of a record before VSTATE, as (offset, value); s is read with the hart as it was before the switch. -/
def State.recordWords (s : State) (h : Nat) : List (Nat × Word) :=
  let x := s.hart h
  let inH := !x.frames.isEmpty
  let cl := inH && !x.frozen
  let head := (if x.core.mode == .s then 2 else 0) + (if inH then 256 else 0) + (if cl then 512 else 0) + 1 +
    h * 1024 + x.G * 2 ^ 24 + x.who.queue.toNat * 2 ^ 32
  ((List.range 63).map fun k => (8 + 8 * k, x.readG (BitVec.ofNat 6 (k + 1)))) ++
  [(0x200, BitVec.ofNat 64 head), (0x208, x.who.instid)] ++
  ((List.range 8).map fun k => (0x1000 + 8 * k, x.sys.mtrap.reg (if k = 7 then 8 else k))) ++
  (let y := s.modHart h fun x => { x with core := { x.core with mode := .s } }
   (List.range 0xA0).map fun n =>
     (0x2000 + 8 * n, if n = 0x049 then BitVec.ofNat 64 x.core.mode.code else if crNumbers.contains n then y.crValue h n else 0))

/-- A record written to a unit at base: VSTATE with the grant and the barrier arrival that trap entry writes to a save area. -/
def State.writeRecord (s : State) (h base tag : Nat) : State :=
  let x := s.hart h
  let ws := s.recordWords h ++ [(0x10000, BitVec.ofNat 64 (256 * x.G)), (0x10040, BitVec.ofNat 64 x.barrierWord)]
  let s := s.physPut 0 base (List.replicate 0x80000 0) none
  let s := ws.foldl (fun s w => s.physWrite 0 (base + w.1) (leBytes 8 w.2.toNat)) s
  (x.core.vs.spillParts x.core.loop x.G tag).foldl (fun s p => s.physPut 0 (base + 0x10000 + p.1) p.2.1 p.2.2) s

/-- The context of a hart that firmware serves, as it was when the trap was taken (R416). -/
def Hart.interrupted (x : Hart) : Hart :=
  { x with core := { x.core with mode := x.sys.mtrap.pmode, pc := x.sys.mtrap.tpc }, frames := x.frames.tail }

/-- FULL_SWITCH (R415). -/
def execFullSwitch (h : Nat) (s : State) : Out :=
  if 8192 ≤ h then .fault .noSuchUnit else
  let x := s.hart h
  let vi := x.who.vi.toNat
  if !(x.served && x.sys.mtrap.tcause == 0x38 && !x.irq.held && x.copiesDone) then .next s else
  match (s.vi vi).trap.freeUnit with
  | none => .next s
  | some u =>
    let (tag, s) := s.draw
    let s := s.landSent x.who.uid
    let x := s.hart h
    let s := (s.setHart h x.interrupted).writeRecord h ((s.vi vi).trap.unitAddr u) tag
    let late := match x.lanes.reclaim with
      | some r => if r.expired then some r.late else none
      | none => none
    let y := { x.interrupted with lanes := { x.lanes with reclaim := none },
                                  irq := { x.irq with stop := false, stopReg := false, stepReg := false, stepArmed := false } }
    let e : SavedCtx := { unit := u, core := coreOf h, hart := y, timeout := late, rayTag := tag }
    let s := s.modVi vi fun v => { v.takeUnit u with ctxs := v.ctxs ++ [e] }
    let s := (s.releaseGrant h).setHart h Hart.reset
    .next (if s.othersOn (coreOf h) h x.who.claim || (s.matrix (coreOf h)).claim != some x.who.claim then s
      else s.saveClaim (coreOf h))

/-- Word 0x200 of a record is one that Table 18.5 allows. -/
def headOk (v : Nat) : Bool :=
  v % 2 == 1 && v / 2 % 4 < 2 && v / 8 % 32 == 0 && v / 2 ^ 23 % 2 == 0 && 1 ≤ v / 2 ^ 24 % 32 && v / 2 ^ 24 % 32 ≤ 16 &&
    v / 2 ^ 29 % 8 == 0 && v / 2 ^ 44 == 0

/-- The grant that a record holds. -/
def State.recordG (s : State) (base : Nat) : Nat := (s.saveWord base 0x200).toNat / 2 ^ 24 % 32

/-- The registers, mode, pc and identity of a record put into a hart (R418). -/
def State.recordHart (s : State) (base : Nat) (x : Hart) : Hart :=
  let word := fun (off : Nat) => s.saveWord base off
  let x := (List.range 63).foldl (fun (x : Hart) k =>
    let r := BitVec.ofNat 6 (k + 1)
    let v := word (8 + 8 * k)
    if v == x.readG r then x else x.writeG r v) x
  let x := (List.range 8).foldl (fun (x : Hart) k =>
    { x with sys := { x.sys with mtrap := x.sys.mtrap.put (if k = 7 then 8 else k) (word (0x1000 + 8 * k)) } }) x
  let head := word 0x200
  let id := word 0x208
  let lanes := x.lanes
  let x := crRestored.foldl (fun (x : Hart) n => x.putCr n (word (0x2000 + 8 * n))) { x with core := { x.core with mode := .s } }
  { x with core := { x.core with mode := if head.getLsbD 1 then .s else .u, pc := x.sys.mtrap.tpc },
           who := { x.who with queue := BitVec.ofNat 12 (head.toNat / 2 ^ 32), lseq := BitVec.ofNat 32 (id.toNat / 2 ^ 32),
                               index := id.setWidth 32 },
           lanes := { x.lanes with reclaim := lanes.reclaim },
           sys := { x.sys with time := { x.sys.time with cycle := word (0x2000 + 8 * 0x60), instret := word (0x2000 + 8 * 0x61) } } }

/-- The first word of a record that is poisoned or does not meet its limits. -/
def State.contextFault (s : State) (base : Nat) (c : SavedCtx) : Option (Cause × Word) :=
  let y := s.setMe c.hart
  let check := fun (off : Nat) (ok : Word → Bool) => match s.savePoison base off 8 with
    | some f => some f
    | none => if ok (s.saveWord base off) then none else some (.rsvdField, BitVec.ofNat 64 (base + off))
  (s.savePoison base 0x8 0x1F8) <|> check 0x200 (fun v => headOk v.toNat) <|> (s.savePoison base 0x208 8) <|>
    ((List.range 7).findSome? fun k => check (0x1000 + 8 * k) fun v => v &&& crReserved (0x040 + k) == 0) <|>
    (s.savePoison base 0x1038 8) <|>
    (crRestored.findSome? fun n => check (0x2000 + 8 * n) fun v => y.crFits n v) <|>
    s.saveFault (base + 0x10000) (s.recordG base) c.hart.core.vs

/-- CONTEXT_RESUME (R416): onto the core that the context left, ahead of its queue's unplaced instances. -/
def execContextResume (vi unit : Nat) (s : State) : Out :=
  if 128 ≤ vi then .fault .noSuchUnit else
  match (s.vi vi).ctxs.find? fun c => c.unit == unit with
  | none => .next s
  | some c =>
    let base := (s.vi vi).trap.unitAddr unit
    let bad := s.contextFault base c
    let pc := c.hart.core.pc
    let G := if bad.isSome then c.hart.G else s.recordG base
    let frame : Frame := { mode := .m, claimed := false, kept := none, rayTag := c.rayTag }
    let x := if bad.isSome then c.hart else
      let y := s.recordHart base c.hart
      let l : LoopState := { lpc := s.saveWord base 0x10028, lcnt := s.saveWord base 0x10030, lend := s.saveWord base 0x10038 }
      { y with core := { y.core with vs := s.restored (base + 0x10000) G frame y.core.vs, loop := l } }
    let q := s.queue x.who.queue.toNat
    match s.freeHart c.core with
    | none => .next s
    | some h =>
      let us := (s.unitsFor c.core (some (.ctx x.who.uid)) []).take G
      if us.length < G || s.outranked q.die q.prio x.who.queue.toNat then .next s else
      let s := s.dispatchedFor x.who.queue.toNat q
      let x := { x with lanes := { x.lanes with grant := us } }
      let x := match c.timeout with
        | some late => if x.delegates .reclaimTimeout false then { x with irq := { x.irq with reclaim := some late } } else x
        | none => x
      let s := s.arriveQueue c.core x.who.queue.toNat
      let s := s.modVi vi fun v =>
        { v with ctxs := v.ctxs.filter fun e => e.unit != unit, trap := { v.trap with units := v.trap.units.filter (· != unit) } }
      let s := s.modCore c.core fun y => { y with resv := y.resv.filter fun r => !us.contains (r.group, r.slot) }
      let s := (s.dropL1 c.core).setHart h x.resume
      match bad with
      | none => .next s
      | some (k, a) => .next ((s.trace h 1 pc (BitVec.ofNat 64 k.code) a).modHart h fun y =>
          let m := y.sys.mtrap.enter { cause := k, tval := a } pc y.core.mode
          { y with sys := { y.sys with mtrap := m }, frames := frame :: y.frames, core := { y.core with mode := .m, st := .trapped } })

/-! ## Migration (spec/01_machine.md R40, R41) -/

/-- The G-cores of a core's cluster, the preferred one first. -/
def gCores (core : Nat) : List Nat :=
  let b := core - core % 8
  if core % 8 < 4 then [b, b + 4] else [b + 4, b]

/-- MIGRATION_PLACE: the whole context moves to a G-core of its cluster. -/
def execMigrationPlace (h : Nat) (s : State) : Out :=
  if 8192 ≤ h then .fault .noSuchUnit else
  let x := s.hart h
  if x.core.st != .migrating || !x.copiesDone then .next s else
  match x.landAll with
  | none => .next s
  | some x =>
    let w : Holder := .ctx x.who.uid
    let place := fun (c : Nat) =>
      let us := (s.unitsFor c (some w) []).take x.G
      match s.freeHart c with
      | some k => if us.length = x.G then some (c, k, us) else none
      | none => none
    match (gCores (coreOf h)).findSome? place with
    | none => .next s
    | some (c, k, us) =>
      let old := coreOf h
      let s := (s.setHart h x).landSent x.who.uid
      let x := s.hart h
      let s := s.trace h 6 x.core.pc (BitVec.ofNat 64 old) (BitVec.ofNat 64 c)
      let s := (s.unreserve old w).arriveQueue c x.who.queue.toNat
      let s := (s.setHart h Hart.reset).setHart k { (x.resume) with lanes := { x.lanes with grant := us }, fetched := [] }
      let q := s.queue x.who.queue.toNat
      let s := match x.who.parent, q.table.find? (fun l => l.index == x.who.lseq) with
        | none, some l => s.widen q l x.who.index.toNat c
        | _, _ => s
      let s := s.dropL1 c
      .next (if (s.matrix old).claim == some x.who.claim && s.claimOrphan old then s.saveClaim old else s)

end Sys2Proof.Machine
end

