-- ==== Sys2Proof/Machine/Harts.lean ====
section
/-! DEFINITION. Events of harts: WAIT_CONDITION_MET and WAIT_TIMEOUT (spec/10_memory_isa.md R246), LONG_LATENCY_COMPLETE
(spec/02_encoding.md R55-R58), TRAP_ENTRY (spec/18_traps.md R402, R403), CYCLE_MATCH (spec/17_counters_debug.md R387),
STOP_TAKEN and STOP_REGISTER_WRITE (R396, R397), LANE_RECLAIM and RECLAIM_WINDOW_EXPIRY (spec/18_traps.md R414). -/

namespace Sys2Proof.Machine

open Sys2Proof

/-! ## Waits -/

/-- A member has completed its gang's instruction (spec/11_queues_scheduling.md R273); what it was before stays in the gang. -/
def State.gangDone (s : State) (h : Nat) (was : Hart) : State :=
  match (s.hart h).gang with
  | none => s
  | some g =>
    let b : Before := { hart := h, core := was.core, windows := was.windows, instret := was.sys.time.instret }
    let g := { g with finished := h :: g.finished, before := b :: g.before }
    g.members.foldl (fun s m => s.modHart m fun y => { y with gang := some g }) s

/-- A wait ends with the value it read last. -/
def State.endWait (s : State) (h : Nat) (d : Reg) (v : Word) : State :=
  ((s.modHart h fun x => ((x.writeG d v).advance).retire).countDone h (s.hart h)).gangDone h (s.hart h)

/-- WAIT_CONDITION_MET: the hart reads again; a value that meets the condition ends the wait. -/
def execWaitConditionMet (h : Nat) (s : State) : Out :=
  if 8192 ≤ h then .fault .noSuchUnit else
  match (s.hart h).core.st with
  | .waiting (.cond r) =>
    let cur := s.cur
    let (v, t) := ({ s with cur := h }).waitRead r.sp r.addr (wBytes r.w)
    let t := { t with cur := cur }
    (match v with
      | .ok (v, none) =>
        let last := BitVec.ofNat 64 v
        if waitHolds r.k (wBytes r.w) v r.wantNat then .next (t.endWait h r.d last)
        else .next (t.modHart h fun x => x.setSt (.waiting (.cond { r with last := last })))
      | _ => .next s)
  | _ => .next s

/-- WAIT_TIMEOUT. -/
def execWaitTimeout (h : Nat) (s : State) : Out :=
  if 8192 ≤ h then .fault .noSuchUnit else
  let x := s.hart h
  match x.core.st with
  | .waiting (.cond r) =>
    if r.limit == 0 || (x.sys.time.cycle - r.since).ult r.limit then .next s
    else .next (s.endWait h r.d r.last)
  | _ => .next s

/-! ## Lookahead windows -/

/-- A window whose results an error poisons, those that have landed too (R58). -/
def Window.poisoned (w : Window) (c : ErrCause) : Window :=
  let p : Poison := { cause := c, addr := w.pc }
  { w with gw := (w.gd ++ w.gw).map fun g => (g.1, g.2.1, some p), vw := (w.vd ++ w.vw).map fun e => { e with poison := some p } }

/-- A window has landed before its count has run out. An error that it leaves is reported by the instruction that waits for it
(R58): the window keeps it until then. -/
def Hart.landed (x : Hart) (k : Nat) (w : Window) : Hart :=
  let y := x.land w
  if y.pendErr == x.pendErr then { y with windows := x.windows.eraseIdx k }
  else { y with pendErr := x.pendErr,
                windows := x.windows.set k { w with gw := [], vw := [], gd := [], vd := [], fl := 0, err := y.pendErr } }

/-- Elements of a list by place, and the others. -/
def pickOut {α : Type} (l : List α) (p : Nat → Bool) : List α :=
  (l.zipIdx.filter fun e => p e.2).map Prod.fst

/-- LONG_LATENCY_COMPLETE. An error of an instruction without a destination, or of one whose result goes to g0, is left for
the instruction that waits for it; the first that is not reported yet stays (R58, notes/assumptions/127.md). -/
def execLongLatencyComplete (h k : Nat) (how : Landing) (s : State) : Out :=
  if 8192 ≤ h then .fault .noSuchUnit else
  let x := s.hart h
  match x.windows[k]? with
  | none => .next s
  | some w =>
    if w.await != .nothing then .next s else
    match how with
    | .whole => .next (s.setHart h (x.landed k w))
    | .part es gs fl =>
      let gw := pickOut w.gw fun i => gs.contains i
      let now := { w with gw := gw.filter fun g => g.1 != 0, vw := pickOut w.vw fun i => es.contains i,
                          fl := if fl then w.fl else 0, err := none }
      let rest := { w with gw := (gw.filter fun g => g.1 == 0) ++ pickOut w.gw fun i => !gs.contains i,
                           vw := pickOut w.vw fun i => !es.contains i, gd := w.gd ++ now.gw, vd := w.vd ++ now.vw }
      .next (s.setHart h { (x.land now) with windows := x.windows.set k rest })
    | .error c =>
      let s := s.arriveBad h c
      let w := w.poisoned c
      .next (s.setHart h (x.landed k { w with err := if w.gw.isEmpty && w.vw.isEmpty then w.err <|> some { cause := c, addr := w.pc }
                                                     else w.err }))

/-! ## Interrupts -/

/-- A hart that can take an interrupt: it runs, waits or migrates, and firmware does not serve it. -/
def Hart.interruptible (x : Hart) : Bool :=
  match x.core.st with
  | .free => false
  | _ => !x.served

/-- An interrupt taken at once, or, with bound, after the next instruction has been stopped at that element. -/
def State.interruptAt (s : State) (h bound : Nat) (i : Intr) : State :=
  let x := s.hart h
  if bound = 0 then s.takeIntr h i
  else if x.core.st == x.runSt && x.gang.isNone then s.modHart h fun y => { y with irq := { y.irq with split := some bound } }
  else s

/-- TRAP_ENTRY. -/
def execTrapEntry (h bound : Nat) (s : State) : Out :=
  if 8192 ≤ h then .fault .noSuchUnit else
  let x := s.hart h
  match x.nextIntr with
  | some i => if x.interruptible then .next (s.interruptAt h bound i) else .next s
  | none => .next s

/-- STOP_TAKEN. -/
def execStopTaken (h bound : Nat) (s : State) : Out :=
  if 8192 ≤ h then .fault .noSuchUnit else
  let x := s.hart h
  match x.nextIntr with
  | some i => if i.stop && x.interruptible then .next (s.interruptAt h bound i) else .next s
  | none => .next s

/-- The hart's CYCLE counts (R386). -/
def Hart.counts (x : Hart) : Bool :=
  match x.core.st with
  | .running | .waiting _ => true
  | _ => false

/-- n cycles pass for a hart that is RUNNING, WAITING or TRAPPED: they count toward its reclaim's window (spec/18_traps.md
R414). CYCLE counts those outside TRAPPED, and reaching CYCCMP raises CYCLE_MATCH once. -/
def State.elapse (s : State) (h n : Nat) : State :=
  let s := if (s.hart h).core.st == .trapped || (s.hart h).counts then
      (match (s.hart h).lanes.reclaim with
        | some r => s.modHart h fun x => { x with lanes := { x.lanes with reclaim := some { r with spent := r.spent + n } } }
        | none => s)
    else s
  let x := s.hart h
  if !x.counts then s else
    let t := x.sys.time
    let far := (t.cyccmp - t.cycle).toNat
    let hit := t.cyccmp != 0 && far != 0 && far ≤ n
    s.modHart h fun x =>
      { x with sys := { x.sys with time := { t with cycle := t.cycle + BitVec.ofNat 64 n } },
               irq := if hit then { x.irq with cycleMatch := some t.cyccmp } else x.irq }

/-- CYCLE_MATCH: CYCLE advances to CYCCMP. -/
def execCycleMatch (h : Nat) (s : State) : Out :=
  if 8192 ≤ h then .fault .noSuchUnit else
  let t := (s.hart h).sys.time
  .next (s.elapse h (t.cyccmp - t.cycle).toNat)

/-- A hart's stop register written (R397). -/
def State.writeStop (s : State) (h : Nat) (v : Word) : State :=
  let x := s.hart h
  let stop := v.getLsbD 0
  let step := v.getLsbD 1
  if x.core.st == .free then s
  else if x.irq.held then
    if stop then s.modHart h fun x => { x with irq := { x.irq with stopReg := true, stepReg := step } }
    else (s.modHart h fun x => { x with irq := { x.irq with held := false, stopReg := false, stepReg := step } }).sretAt h
  else s.modHart h fun x =>
    { x with irq := { x.irq with stop := stop || (x.irq.stop && !x.irq.stopReg), stopReg := stop, stepReg := step } }

/-- STOP_REGISTER_WRITE. -/
def execStopRegisterWrite (h : Nat) (v : Word) (s : State) : Out :=
  if 8192 ≤ h then .fault .noSuchUnit else .next (s.writeStop h v)

/-! ## The vector sequencer (spec/01_machine.md R36) -/

/-- SEQUENCER_ROUND: a pass over the queues begins at the lowest, and its strips issue next (State.nextStrip, State.strip). -/
def execSequencerRound (core : Nat) (s : State) : Out :=
  if 1024 ≤ core then .fault .noSuchUnit else
  .next { (s.modCore core fun c => { c with serving := [], weights := [] }) with agenda := .strip core :: s.agenda }

/-! ## Reclaims -/

/-- LANE_RECLAIM: the scheduler sets a hart's CEIL and names who gets the groups. -/
def execLaneReclaim (h ceil : Nat) (whom : Recipient) (s : State) : Out :=
  if 8192 ≤ h then .fault .noSuchUnit else
  if (s.hart h).core.st == .free || ceil = 0 || 16 < ceil then .next s
  else .next (s.modHart h fun x => { x with lanes := x.lanes.setCeil ceil whom })

/-- RECLAIM_WINDOW_EXPIRY: PREEMPT is raised in the victim once the cycles of its VI's window have gone by; late, the cycles by
which the window was overrun. -/
def execReclaimWindowExpiry (h late : Nat) (s : State) : Out :=
  if 8192 ≤ h then .fault .noSuchUnit else
  match (s.hart h).lanes.reclaim with
  | none => .next s
  | some r =>
    if r.spent < (s.vi (s.hart h).who.vi.toNat).reclaimWin then .next s
    else .next (s.modHart h fun x =>
      { x with lanes := { x.lanes with reclaim := some { r with expired := true, late := BitVec.ofNat 64 late } },
               irq := { x.irq with preempt := true } })

end Sys2Proof.Machine
end

