-- ==== Sys2Proof/Machine/Raster.lean ====
section
/-! DEFINITION. Class 0xB raster instructions: EQUIP (spec/01_machine.md R40, spec/18_traps.md R420), rast.setup, rast.cover
and rast.attr (spec/13_raster_shading.md R315-R319). -/

namespace Sys2Proof.Machine

open Sys2Proof

/-- Checks 5 and 6 of a graphics instruction: the vector unit is claimed, and the core is a G-core; elsewhere the hart
migrates, or takes EQUIP. -/
def State.graphics (s : State) (i : Instr) (k : Out) : Out :=
  s.claimedOnly i (
    if isGCore (coreOf s.cur) then k
    else if s.me.core.mode == Mode.u && s.me.sys.strap.migen then s.alone fun s => .next (s.modMe fun x => x.setSt .migrating)
    else s.trap .equip (lowWord i))

/-! ## rast.setup (R316) -/

/-- Entry of a chunk in lane memory: word k (Table 13.5). -/
def entryWord (v k : Nat) : Word := BitVec.ofNat 64 (v >>> (64 * k))

/-- (X − x0) × 256 rounded to an integer; none: X is a NaN or infinite. -/
def fixVertex (x : Word) (o : Nat) : Option Int :=
  match Fp.unpack .d x.toNat with
  | .fin n m e =>
    let (z, q) := addDy n m e true o 0
    let r := roundTo .rne (decide (z < 0)) z.natAbs (q + 8) false 0
    some (sInt (decide (z < 0)) r.1)
  | _ => none

/-- The least and the greatest of three. -/
def minOf (l : List Int) : Int := l.foldl min (l.headD 0)
def maxOf (l : List Int) : Int := l.foldl max (l.headD 0)

/-- The slot that an entry fills with its status in g[D]. -/
def fillSlot (v : Nat) (x0 y0 : Nat) : Nat × RasterSlot :=
  let xs := [0, 2, 4].map fun k => fixVertex (entryWord v k) x0
  let ys := [1, 3, 5].map fun k => fixVertex (entryWord v k) y0
  let none_ := RasterSlot.reset
  if (xs ++ ys).any fun c => c.isNone then (1, none_) else
  let fx := xs.map fun c => c.getD 0
  let fy := ys.map fun c => c.getD 0
  if (fx ++ fy).any fun c => 2 ^ 29 ≤ c.natAbs then (2, none_) else
  let at_ := fun (l : List Int) (k : Nat) => l.getD k 0
  let a := (at_ fx 1 - at_ fx 0) * (at_ fy 2 - at_ fy 0) - (at_ fy 1 - at_ fy 0) * (at_ fx 2 - at_ fx 0)
  if a = 0 then (1, none_)
  else if maxOf fx < 128 || 16256 < minOf fx || maxOf fy < 128 || 16256 < minOf fy then (3, none_)
  else
    let z := fun (k : Nat) => (entryWord v (6 + k / 2)).extractLsb' (32 * (k % 2)) 32
    let h := fun (w b : Nat) => (entryWord v w).extractLsb' b 16
    (0, { v := true, fx := fx, fy := fy, area := a.natAbs, swap := decide (a < 0), z := [z 0, z 1, z 2],
          mx := [h 7 32, h 8 0, h 8 32], my := [h 7 48, h 8 16, h 8 48], x0 := x0, y0 := y0 })

def VState.setSlot (v : VState) (k : BitVec 2) (r : RasterSlot) : VState := { v with slots := vmod v.slots k.toNat fun _ => r }

def VState.slot (v : VState) (k : BitVec 2) : RasterSlot := v.slots[k.toNat]'(by have := k.isLt; omega)

/-- rast.setup. -/
def execRastSetup (slot : BitVec 2) (d a b : Reg) (s : State) : Out :=
  let i : Instr := .rastSetup slot d a b
  s.graphics i (s.withG [a, b] fun x =>
    let off := x.readG a
    let x0 := (x.readG b).toNat % 2 ^ 32
    let y0 := (x.readG b).toNat / 2 ^ 32
    let w := s.who s.cur
    if off.toNat % 16 ≠ 0 then s.trap .align off
    else if 0x100000 < off.toNat + 80 || !s.laneProbe w.core w.vi false off.toNat 80 then s.trap .access off
    else if x0 % 64 ≠ 0 || y0 % 64 ≠ 0 || 65536 ≤ x0 || 65536 ≤ y0 then s.trap .rsvdField (lowWord i)
    else
      let ((v, p), s) := s.readLane w w.core off.toNat 80
      match p with
      | some p => s.trap p.cause.toCause off
      | none =>
        let (st, r) := fillSlot v x0 y0
        (s.charge x.G).done fun y => (y.modVs fun vs => { vs.setSlot slot r with vstart := 0 }).writeG d (BitVec.ofNat 64 st))

/-! ## Edges and weights (R316) -/

/-- The vertices in stored order. -/
def RasterSlot.order (r : RasterSlot) : List Nat := if r.swap then [0, 2, 1] else [0, 1, 2]

/-- The edge function of vertices p to q at a point in 1/256 pixels. -/
def RasterSlot.edge (r : RasterSlot) (p q : Nat) (x y : Int) : Int :=
  let X := fun (k : Nat) => r.fx.getD k 0
  let Y := fun (k : Nat) => r.fy.getD k 0
  (X q - X p) * (y - Y p) - (Y q - Y p) * (x - X p)

/-- A top or left edge. -/
def RasterSlot.topLeft (r : RasterSlot) (p q : Nat) : Bool :=
  let X := fun (k : Nat) => r.fx.getD k 0
  let Y := fun (k : Nat) => r.fy.getD k 0
  (Y q == Y p && decide (X p < X q)) || decide (Y q < Y p)

/-- The sample point of a pixel of the tile. -/
def samplePoint (p : Nat) : Int := 256 * (p : Int) + 128

/-- Pixel (px, py) of the tile is covered. -/
def RasterSlot.covers (r : RasterSlot) (px py : Nat) : Bool :=
  let o := r.order
  [(0, 1), (1, 2), (2, 0)].all fun (e : Nat × Nat) =>
    let p := o.getD e.1 0
    let q := o.getD e.2 0
    let v := r.edge p q (samplePoint px) (samplePoint py)
    decide (0 < v) || (v == 0 && r.topLeft p q)

/-- b_k × |A| at a pixel: the edge function of the edge opposite vertex k. -/
def RasterSlot.weight (r : RasterSlot) (px py k : Nat) : Int :=
  let o := r.order
  let j := o.idxOf k
  r.edge (o.getD ((j + 1) % 3) 0) (o.getD ((j + 2) % 3) 0) (samplePoint px) (samplePoint py)

/-- The 16 coverage bits of a block (R318). -/
def RasterSlot.block (r : RasterSlot) (b : Nat) : Nat :=
  if 256 ≤ b then 0 else
    (List.range 16).foldl (fun a j => if r.covers (4 * (b % 16) + j % 4) (4 * (b / 16) + j / 4) then a + 2 ^ j else a) 0

/-- rast.cover. -/
def execRastCover (slot : BitVec 2) (d a : Reg) (m : Mask) (s : State) : Out :=
  let i : Instr := .rastCover slot d a m
  s.graphics i (s.elementwise i 0 { wr := [(d, 16)], masks := maskRegs m, gs := [a] }
    (fun x => x.core.vs.cfg.ew == .e16 && (x.core.vs.slot slot).v) fun _ =>
    { d := d, dw := 16, mask := m, src := [],
      f := fun y n => ((y.core.vs.slot slot).block ((y.readG a).toNat + n), 0) })

/-! ## rast.attr (R319) -/

/-- An exact fraction n / d × 2^e, d above 0, rounded to a format under RNE; an exact zero takes the sign given. -/
def roundFrac (k : FpK) (n : Int) (d : Nat) (e : Int) (zeroNeg : Bool) : Nat × Flags :=
  if n = 0 then (k.zero zeroNeg, 0) else
    let sh := Nat.log2 d + k.f + 16
    let m := n.natAbs <<< sh
    roundMag k .rne (n < 0) (m / d) (e - sh) (m % d != 0)

/-- A term of a weighted sum: a weight (over a common denominator) and a value. -/
abbrev Term := Int × Fp

/-- The exact weighted sum of finite terms, over the common denominator, as z × 2^e. -/
def sumTerms : List Term → Int × Int
  | [] => (0, 0)
  | (w, .fin n m e) :: ts =>
    let (z, q) := sumTerms ts
    addDy (decide (w < 0) != n) (w.natAbs * m) e (decide (z < 0)) z.natAbs q
  | _ :: ts => sumTerms ts

/-- Σ weight × value / d rounded once (R83, R87, R88). A zero weight times an infinity, and infinities of opposite signs,
raise NV beside a NaN too. -/
def weighted (k : FpK) (d : Nat) (ts : List Term) : Nat × Flags :=
  let vs := ts.map Prod.snd
  let infs := ts.filterMap fun t => match t.2 with
    | .inf n => some (t.1, n)
    | _ => none
  let signs := infs.map fun t => decide (t.1 < 0) != t.2
  if infs.any (fun t => t.1 == 0) || (signs.contains true && signs.contains false) then (k.nan, fNV)
  else if vs.any Fp.isNan then (k.nan, sigNV vs)
  else
  match signs with
  | n :: _ => (k.inf n, 0)
  | [] =>
    let (z, e) := sumTerms ts
    roundFrac k z d e (ts.all fun t => decide (t.1 < 0) != t.2.neg)

/-- The value of an attribute at a pixel. -/
def RasterSlot.attr (r : RasterSlot) (what : Attr) (px py : Nat) : Nat × Flags :=
  let w := r.weight px py
  let zs := (List.range 3).map fun k => (w k, Fp.unpack .s (r.z.getD k 0).toNat)
  let mo := fun (l : List (BitVec 16)) (o p : Nat) =>
    (((2 * (o + p) + 1 : Nat) : Int) * (r.area : Int), Fp.fin false 1 (-1)) ::
      (List.range 3).map fun k => (w k, Fp.unpack .h (l.getD k 0).toNat)
  match what with
  | .z => weighted .s r.area zs
  | .b0 => roundFrac .s (w 0) r.area 0 false
  | .b1 => roundFrac .s (w 1) r.area 0 false
  | .b2 => roundFrac .s (w 2) r.area 0 false
  | .px => weighted .s r.area (mo r.mx r.x0 px)
  | .py => weighted .s r.area (mo r.my r.y0 py)

/-- rast.attr. -/
def execRastAttr (what : Attr) (slot : BitVec 2) (d a : Reg) (m : Mask) (s : State) : Out :=
  let i : Instr := .rastAttr what slot d a m
  s.graphics i (s.elementwise i 0 { rd := [(a, 32)], wr := [(d, 32)], masks := maskRegs m }
    (fun x => x.core.vs.cfg.ew == .e32 && (x.core.vs.slot slot).v) fun _ =>
    { d := d, dw := 32, mask := m, src := [(a, 32)],
      f := fun y n =>
        let p := y.elem a.toNat 32 n
        if p / 4096 ≠ 0 then (FpK.s.nan, fNV) else (y.core.vs.slot slot).attr what (p % 64) (p / 64) })

end Sys2Proof.Machine
end

