-- ==== Sys2Proof/Machine/Rays.lean ====
section
/-! DEFINITION. Ray queries (spec/16_rays.md R375-R384): the exact hit, traversal, rq.init, rq.step, rq.get, rq.commit,
rq.end and rq.sort, and bld.cmd (R374). -/

namespace Sys2Proof.Machine

open Sys2Proof

/-! ## Exact coordinates -/

/-- A finite value of a format in units of its least subnormal. -/
def fixInt (k : FpK) (n : Nat) : Option Int :=
  match Fp.unpack k n with
  | .fin neg m e => some (sInt neg (m <<< (e + k.bias + k.f - 1).toNat))
  | _ => none

/-- A point or a vector. -/
structure Vec3 where
  x : Int
  y : Int
  z : Int
  deriving DecidableEq, Repr

def Vec3.sub (a b : Vec3) : Vec3 := { x := a.x - b.x, y := a.y - b.y, z := a.z - b.z }
def Vec3.dot (a b : Vec3) : Int := a.x * b.x + a.y * b.y + a.z * b.z
def Vec3.cross (a b : Vec3) : Vec3 :=
  { x := a.y * b.z - a.z * b.y, y := a.z * b.x - a.x * b.z, z := a.x * b.y - a.y * b.x }

/-- Three coordinates of a format; none: one of them is no finite number. -/
def fixVec (k : FpK) (x y z : Nat) : Option Vec3 :=
  match fixInt k x, fixInt k y, fixInt k z with
  | some a, some b, some c => some { x := a, y := b, z := c }
  | _, _, _ => none

/-! ## Rays (R375) -/

def Ray.fopaque (r : Ray) : Bool := r.flags.getLsbD 0
def Ray.firstHit (r : Ray) : Bool := r.flags.getLsbD 1
def Ray.cullBack (r : Ray) : Bool := r.flags.getLsbD 2
def Ray.cullFront (r : Ray) : Bool := r.flags.getLsbD 3

/-- A ray that is never traversed. -/
def Ray.idle : Ray :=
  { ox := 0, oy := 0, oz := 0, dx := 0, dy := 0, dz := 0, tmin := 0, tmax := 0, cull := 0, flags := 0, st := 3, bad := false,
    committed := none, candidate := none, met := 0, visits := 0, id := 0 }

/-- The order of two binary32 values that are no NaNs. -/
def leBits (a b : BitVec 32) : Bool := cmpFp (.unpack .s a.toNat) (.unpack .s b.toNat) != .gt

/-- The ray that a 64-byte record holds. -/
def Ray.parse (v : Nat) : Ray :=
  let w := fun (k : Nat) => BitVec.ofNat 64 (v >>> (64 * k))
  let h := fun (off : Nat) => BitVec.ofNat 32 (v >>> (8 * off))
  let c := h 0x2C
  let r : Ray :=
    { Ray.idle with
      ox := w 0, oy := w 1, oz := w 2, dx := h 0x18, dy := h 0x1C, dz := h 0x20, tmin := h 0x24, tmax := h 0x28,
      cull := c.setWidth 8, flags := c.extractLsb' 8 4, st := 0, id := v }
  let nan := fun (b : BitVec 32) => (Fp.unpack .s b.toNat).isNan
  let bad := v >>> (8 * 0x30) != 0 || c.toNat >>> 12 != 0 ||
    (fixVec .d r.ox.toNat r.oy.toNat r.oz.toNat).isNone || (fixVec .s r.dx.toNat r.dy.toNat r.dz.toNat).isNone ||
    fixVec .s r.dx.toNat r.dy.toNat r.dz.toNat == some { x := 0, y := 0, z := 0 } ||
    nan r.tmin || nan r.tmax || !leBits r.tmin r.tmax
  if bad then { r with st := 3, bad := true } else r

/-! ## Object space (R376) -/

/-- A ray as exact reals in units of 2^-149; none: a component is no finite number. -/
abbrev Line := Option (Vec3 × Vec3)

/-- A ray of a triangle structure. -/
def Ray.world (r : Ray) : Line :=
  let o := fun (b : Word) => (fCvt .s .d .rne b.toNat).1
  match fixVec .s (o r.ox) (o r.oy) (o r.oz), fixVec .s r.dx.toNat r.dy.toNat r.dz.toNat with
  | some o, some d => some (o, d)
  | _, _ => none

/-- Row i, column j of T. -/
def InstPrim.at_ (p : InstPrim) (i j : Nat) : Int := (fixInt .d (p.t.getD (4 * i + j) 0).toNat).getD 0

/-- The adjugate of L and its determinant, in units of 2^-2148 and 2^-3222. -/
def InstPrim.adj (p : InstPrim) (i j : Nat) : Int :=
  let e := fun (r c : Nat) => p.at_ (r % 3) (c % 3)
  e (j + 1) (i + 1) * e (j + 2) (i + 2) - e (j + 1) (i + 2) * e (j + 2) (i + 1)

def InstPrim.det (p : InstPrim) : Int :=
  p.at_ 0 0 * p.adj 0 0 + p.at_ 0 1 * p.adj 1 0 + p.at_ 0 2 * p.adj 2 0

/-- M: an entry of L's inverse rounded to binary64, in units of 2^-1074. -/
def InstPrim.inv (p : InstPrim) (i j : Nat) : Option Int :=
  let d := p.det
  let n := if d < 0 then -p.adj i j else p.adj i j
  fixInt .d (roundFrac .d n d.natAbs 1074 false).1

/-- M × v rounded to binary32, v in units of 2^-1074; none: not finite. -/
def InstPrim.apply (p : InstPrim) (v : Vec3) : Option Vec3 :=
  let row := fun (i : Nat) =>
    match p.inv i 0, p.inv i 1, p.inv i 2 with
    | some a, some b, some c => fixInt .s (roundInt .s .rne (Vec3.dot { x := a, y := b, z := c } v) (-2148) false).1
    | _, _, _ => none
  match row 0, row 1, row 2 with
  | some a, some b, some c => some { x := a, y := b, z := c }
  | _, _, _ => none

/-- The object-space ray of an instance. -/
def InstPrim.line (p : InstPrim) (r : Ray) : Line :=
  let c : Vec3 := { x := p.at_ 0 3, y := p.at_ 1 3, z := p.at_ 2 3 }
  let wide := fun (b : BitVec 32) => (fCvt .d .s .rne b.toNat).1
  match fixVec .d r.ox.toNat r.oy.toNat r.oz.toNat, fixVec .d (wide r.dx) (wide r.dy) (wide r.dz) with
  | some o, some d =>
    (match p.apply (o.sub c), p.apply d with
      | some o, some d => some (o, d)
      | _, _ => none)
  | _, _ => none

/-! ## The hit (R377) -/

/-- A value is at most n / d. -/
def leFrac (v : Fp) (n : Int) (d : Nat) : Bool :=
  match v with
  | .fin neg m e => if 0 ≤ e then decide (sInt neg m * 2 ^ e.toNat * d ≤ n) else decide (sInt neg m * d ≤ n * 2 ^ (-e).toNat)
  | .inf neg => neg
  | .nan _ => false

/-- n / d is at most a value. -/
def fracLe (n : Int) (d : Nat) (v : Fp) : Bool :=
  match v with
  | .fin neg m e => if 0 ≤ e then decide (n ≤ sInt neg m * 2 ^ e.toNat * d) else decide (n * 2 ^ (-e).toNat ≤ sInt neg m * d)
  | .inf neg => !neg
  | .nan _ => false

/-- Where a line meets a triangle: t, b1 and b2 as numerators over a common denominator, and the front side. -/
def TriPrim.meet (t : TriPrim) (o d : Vec3) : Option (Int × Int × Int × Nat × Bool) :=
  let p := fun (k : Nat) => fixVec .s (t.xyz.getD (3 * k) 0).toNat (t.xyz.getD (3 * k + 1) 0).toNat (t.xyz.getD (3 * k + 2) 0).toNat
  match p 0, p 1, p 2 with
  | some v0, some v1, some v2 =>
    let e1 := v1.sub v0
    let e2 := v2.sub v0
    let q := d.cross e2
    let det := e1.dot q
    if det = 0 then none else
      let sg : Int := if det < 0 then -1 else 1
      let w := o.sub v0
      let r := w.cross e1
      let b1 := sg * w.dot q
      let b2 := sg * d.dot r
      if b1 < 0 || b2 < 0 || (det.natAbs : Int) < b1 + b2 then none
      else some (sg * e2.dot r, b1, b2, det.natAbs, decide (0 < det))
  | _, _, _ => none

/-- An instance as a hit sees it; a triangle structure has none. -/
structure Inst where
  index   : BitVec 32
  iid     : BitVec 32
  flip    : Bool
  nocull  : Bool
  fopaque : Bool

/-- The instance index of a triangle structure's hits. -/
def noInst : BitVec 32 := BitVec.allOnes 32

/-- The hit of a ray on a triangle, when its t lies within the ray and no cull discards it. -/
def Ray.hitTri (r : Ray) (l : Line) (n : Inst) (t : TriPrim) : Option Hit :=
  let got : Option (Int × Nat × BitVec 32 × BitVec 32 × Bool) := match l with
    | some (o, d) => (t.meet o d).map fun m =>
        let b := fun (z : Int) => BitVec.ofNat 32 (roundFrac .s z m.2.2.2.1 0 false).1
        (m.1, m.2.2.2.1, b m.2.1, b m.2.2.1, m.2.2.2.2)
    | none => Config.overflowHit r.id n.index.toNat t.index
  match got with
  | none => none
  | some (tn, td, b1, b2, f) =>
    let front := f != n.flip
    if !(leFrac (.unpack .s r.tmin.toNat) tn td && fracLe tn td (.unpack .s r.tmax.toNat)) then none
    else if !n.nocull && ((r.cullBack && !front) || (r.cullFront && front)) then none
    else some { tn := tn, td := td, t := BitVec.ofNat 32 (roundFrac .s tn td 0 false).1, b1 := b1, b2 := b2,
                prim := BitVec.ofNat 32 t.index, inst := n.index, iid := n.iid, front := front }

/-- A hit beats a committed one. -/
def Hit.beats (h : Hit) : Option Hit → Bool
  | none => true
  | some c =>
    let a := h.tn * c.td
    let b := c.tn * h.td
    decide (a < b) || (a == b && (decide (h.inst < c.inst) || (h.inst == c.inst && decide (h.prim < c.prim))))

/-- The generation in a live slot of an entry. -/
def Vi.generation (v : Vi) (k : Nat) (g : BitVec 16) : Option Generation := ((v.as k).slotOf g).map Prod.snd

/-- Every hit of a ray in a generation, with whether it is opaque. -/
def Vi.hits (v : Vi) (g : Generation) (r : Ray) : List (Bool × Hit) :=
  let own : Inst := { index := noInst, iid := 0, flip := false, nocull := false, fopaque := false }
  let tris := g.tris.filterMap fun t => (r.hitTri r.world own t).map fun h => (g.opq || r.fopaque, h)
  tris ++ g.insts.flatMap fun p =>
    if p.mask &&& r.cull == 0 then [] else
      match v.generation p.child.toNat p.cgen with
      | none => []
      | some c =>
        let n : Inst := { index := BitVec.ofNat 32 p.index, iid := p.iid, flip := p.flip, nocull := p.nocull, fopaque := p.fopaque }
        c.tris.filterMap fun t => (r.hitTri (p.line r) n t).map fun h => (c.opq || p.fopaque || r.fopaque, h)

/-! ## Traversal (R380) -/

/-- An entry put into a list ordered by key, after those of the same key. -/
def insertKey {α : Type} (k : Nat) (a : α) : List (Nat × α) → List (Nat × α)
  | [] => [(k, a)]
  | (j, b) :: l => if j ≤ k then (j, b) :: insertKey k a l else (k, a) :: (j, b) :: l

/-- A list stably sorted by a key. -/
def sortKey {α : Type} (f : α → Nat) (l : List α) : List α :=
  (l.foldl (fun acc a => insertKey (f a) a acc) []).map Prod.snd

/-- The hits of a ray in the order in which the traversal meets them. -/
def meetOrder (tree id : Nat) (l : List (Bool × Hit)) : List (Bool × Hit) :=
  sortKey (fun h => Config.visitRank tree id (h.2.inst.toNat * 2 ^ 32 + h.2.prim.toNat)) l

/-- The bound on t: the committed hit's, or the ray's. -/
def Ray.bound (r : Ray) : BitVec 32 := match r.committed with
  | some h => h.t
  | none => r.tmax

/-- At most n visits, with the hits not met yet. -/
def Ray.traverse (tree : Nat) : Nat → List (Bool × Hit) → Ray → Ray
  | n, [], r =>
    let need := Config.visitsNeeded tree r.id (r.met * 2 ^ 32 + r.bound.toNat)
    if r.visits + n < need then { r with st := 0, visits := r.visits + n }
    else { r with st := if r.committed.isSome then 2 else 3 }
  | n, (opq, h) :: hs, r =>
    let need := Config.visitsNeeded tree r.id (r.met * 2 ^ 32 + r.bound.toNat)
    if r.visits + n < need then { r with st := 0, visits := r.visits + n }
    else
      let n := n - (need - r.visits)
      let r := { r with met := r.met + 1, visits := 0 }
      if !h.beats r.committed then r.traverse tree n hs
      else if opq then
        let r := { r with committed := some h }
        if r.firstHit then { r with st := 2 } else r.traverse tree n hs
      else { r with candidate := some h, st := 1 }

/-- One ray's part of rq.step. -/
def Vi.stepRay (v : Vi) (g : Generation) (n : Nat) (r : Ray) : Ray :=
  let r := if r.st == 1 then { r with candidate := none } else r
  if 1 < r.st.toNat then r
  else if r.firstHit && r.committed.isSome then { r with st := 2 }
  else r.traverse g.tree n ((meetOrder g.tree r.id (v.hits g r)).drop r.met)

/-! ## Query sets -/

def Hart.set (x : Hart) (q : Bool) : QuerySet := x.core.vs.sets[q.toNat]'(by cases q <;> decide)

def VState.putSet (v : VState) (q : Bool) (y : QuerySet) : VState := { v with sets := vmod v.sets q.toNat fun _ => y }

/-- EW e32 and GRP 1 (R378). -/
def Hart.rayCfg (x : Hart) : Bool := x.core.vs.cfg.ew == .e32 && x.core.vs.cfg.grp == 0

def QuerySet.ray (y : QuerySet) (i : Nat) : Ray := tget Ray.idle y.rays i

/-- The active rays of a set. -/
def Hart.rays (x : Hart) (q : Bool) (m : Mask) : List Nat := (x.actives m).filter fun i => i < (x.set q).vlq

/-- The operands of a query instruction: it has no element range to be charged for. -/
def rayUse (gs : List Reg) (d : Option Reg) (m : Mask) : VUse :=
  { wr := d.toList.map fun r => (r, 32), masks := maskRegs m, gs := gs, flat := true }

/-- A query instruction on an open set. -/
def State.rayOp (s : State) (i : Instr) (q : Bool) (d : Option Reg) (m : Mask) (k : State → Hart → Out) : Out :=
  s.whole i (rayUse [] d m) m (fun x => x.rayCfg && (x.set q).isOpen) (fun _ => [])
    (fun x => d.toList.flatMap fun r => (x.rays q m).map fun i => (r.toNat, 32, i)) fun s x => k (s.charge x.G) x

/-- The end of a query instruction that writes no vector register. -/
def Hart.rayEnd (x : Hart) : Hart := x.vend.giveStrips []

/-! ## rq.init (R379) -/

/-- The rays of the elements of is, from lane memory; the first element whose record is poisoned. -/
def State.readRays (s : State) (w : Who) (off : Nat) : List Nat → Except Nat (Tab Ray) × State
  | [] => (.ok [], s)
  | i :: is =>
    let ((v, p), s) := s.readLane w w.core (off + 64 * i) 64
    if p.isSome then (.error i, s) else
      let (r, s) := s.readRays w off is
      match r with
      | .error e => (.error e, s)
      | .ok rs => (.ok ((i, Ray.parse v) :: rs), s)

/-- The status of rq.init at an entry's home, with the pin it takes: the set opens when it answers a generation. -/
def State.pinCurrent (s : State) (vi k : Nat) : (Nat × Option (BitVec 16)) × State :=
  let e := (s.vi vi).as k
  if !e.v || !e.hascur then ((1, none), s) else
  match e.slotOf e.cur with
  | none => ((1, none), s)
  | some g =>
    if g.2.pins == BitVec.allOnes 32 then ((2, none), s)
    else ((0, some e.cur), s.modVi vi fun v => v.setAs k (e.addPin e.cur true))

/-- rq.init. -/
def execRqInit (q : Bool) (d a b : Reg) (m : Mask) (la : BitVec 4) (s : State) : Out :=
  let i : Instr := .rqInit q d a b m la
  s.graphics i (s.whole i (rayUse [a, b] none m) m (fun x => x.rayCfg && !(x.set q).isOpen) (fun _ => []) (fun _ => [])
    fun s x =>
      let off := x.readG b
      let w := s.who s.cur
      if off.toNat % 64 ≠ 0 then s.trap .align off
      else if 0x100000 < off.toNat + 64 * x.vl || (x.vl ≠ 0 && !s.laneOwned w off.toNat (64 * x.vl)) then s.trap .access off
      else
        let (r, s) := s.readRays w off.toNat (x.actives m)
        match r with
        | .error e => s.trapAt .dataEcc (BitVec.ofNat 64 (off.toNat + 64 * e)) e
        | .ok rs =>
          let s := s.charge x.G
          let k := x.readG a
          if 4096 ≤ k.toNat then s.doneLa la [(d, 1, none)] [] 0 Hart.rayEnd else
          let ((st, g), s) := s.pinCurrent x.who.vi.toNat k.toNat
          match g with
          | none => s.doneLa la [(d, BitVec.ofNat 64 st, none)] [] 0 Hart.rayEnd
          | some g =>
            let rays := (List.range x.vl).map fun i => (i, tget Ray.idle rs i)
            let y : QuerySet := { isOpen := true, entry := k.setWidth 12, gen := g, vlq := x.vl, rays := rays }
            (s.acquire (coreOf s.cur) 3).doneLa la [(d, 0, none)] [] 0 fun z => z.rayEnd.modVs fun v => v.putSet q y)

/-! ## rq.step (R380) -/

/-- Pages that a traversal of a generation may read. -/
def Vi.nodePages (v : Vi) (g : Generation) : List Nat :=
  g.pages ++ g.children.flatMap fun c => match v.generation c.1.toNat c.2 with
    | some y => y.pages
    | none => []

/-- A ray that rq.step advances by fetching nodes. -/
def Ray.fetches (r : Ray) : Bool := r.st.toNat ≤ 1 && !(r.firstHit && r.committed.isSome)

/-- A bit that is free where an outcome is possible. -/
def State.mayBe (s : State) (possible : Bool) : Bool × State :=
  if !possible then (false, s) else
    let (k, s) := s.draw
    (Config.freeBit k, s)

/-- The error that the node fetches of a ray meet: which ray meets a poisoned node, or loses one on a link, is free; must, it
meets the parity error that its core's data have. -/
def State.rayMeets (s : State) (w : Who) (bad must : Bool) (link : Option Nat) : Option ErrCause × State :=
  let (hurt, s) := if must then (true, s) else s.mayBe bad
  if hurt then (some .dataEcc, s) else
  match link with
  | none => (none, s)
  | some k =>
    let (gone, s) := s.mayBe true
    if gone then (some .linkLost, s.linkErr w 0 k) else (none, s)

/-- The rays of is advanced; one that meets an error ends with BADRAY. -/
def State.stepRays (s : State) (w : Who) (v : Vi) (g : Generation) (bad must : Bool) (link : Option Nat) (n : Nat) :
    List Nat → QuerySet → List (Nat × Option ErrCause) × QuerySet × State
  | [], y => ([], y, s)
  | i :: is, y =>
    let r := y.ray i
    let (hurt, s) := if r.fetches then s.rayMeets w bad must link else (none, s)
    let y := { y with rays := tset y.rays i (if hurt.isSome then r.spoil else v.stepRay g n r) }
    let (rs, y, s) := s.stepRays w v g bad (must && !r.fetches) link n is y
    ((i, hurt) :: rs, y, s)

/-- rq.step. -/
def execRqStep (q : Bool) (d : Reg) (n : BitVec 13) (m : Mask) (la : BitVec 4) (s : State) : Out :=
  let i : Instr := .rqStep q d n m la
  s.graphics i (s.rayOp i q (some d) m fun s x =>
    let y := x.set q
    let v := s.vi x.who.vi.toNat
    match v.generation y.entry.toNat y.gen with
    | none => s.vland (rayUse [] (some d) m) la [] 0 (sets := true)
    | some g =>
      let w := s.who s.cur
      let die := dieOf s.cur
      let bad := !s.phys.poison.isEmpty && (v.nodePages g).any fun p => s.physPoisoned (p * 4096) 4096
      let link := (v.nodePages g).findSome? fun p => s.crossing die ((place (p * 4096)).die die)
      let (must, s) := if (x.rays q m).any fun i => (y.ray i).fetches then s.deliver w 0 none else (none, s)
      let (rs, y, s) := s.stepRays w v g bad must.isSome link n.toNat (x.rays q m) y
      let ws := rs.map fun r => x.vwrite d.toNat 32 r.1 (y.ray r.1).st.toNat
        (r.2.map fun c => { cause := c, addr := x.core.pc })
      let fl := vflagsOf (rs.map fun r => (y.ray r.1).st.toNat ≤ 1)
      (s.modMe fun z => z.modVs fun u => { u.putSet q y with flags := fl }).vland (rayUse [] (some d) m) la ws 0 (sets := true))

/-! ## rq.get and rq.commit (R381, R382) -/

/-- The value of a field; iid is what IID reads for a hit of a triangle structure. -/
def Ray.field (r : Ray) (fld : RqField) (cand : Bool) (iid : Nat) : Nat :=
  let h := if cand then r.candidate else r.committed
  let get := fun (f : Hit → BitVec 32) (none_ : Nat) => match h with
    | some h => (f h).toNat
    | none => none_
  match fld with
  | .t => get Hit.t 0x7F800000
  | .prim => get Hit.prim 0xFFFFFFFF
  | .inst => get Hit.inst 0xFFFFFFFF
  | .iid => (match h with
    | some h => if h.inst == noInst then iid else h.iid.toNat
    | none => 0)
  | .b1 => get Hit.b1 0
  | .b2 => get Hit.b2 0
  | .info => (match h with
    | some h => if h.front then 1 else 0
    | none => 0) + (if r.bad then 2 else 0)

/-- rq.get. The spec states no IID for a hit of a triangle structure: a free value. -/
def execRqGet (fld : RqField) (q cand : Bool) (d : Reg) (m : Mask) (s : State) : Out :=
  let i : Instr := .rqGet fld q cand d m
  s.graphics i (s.rayOp i q (some d) m fun s x =>
    let (k, s) := s.draw
    let y := x.set q
    let free := fun (n : Nat) => leNat ((List.range 4).map fun j => Config.freeByte k (4 * n + j))
    s.vdone (rayUse [] (some d) m) fun z => (x.rays q m).foldl (fun z n =>
      z.setElem d.toNat 32 n ((y.ray n).field fld cand (free n)) none) z)

/-- A candidate accepted. -/
def Ray.accept (r : Ray) : Ray := if r.st == 1 then { r with committed := r.candidate } else r

/-- rq.commit. -/
def execRqCommit (q : Bool) (m : Mask) (s : State) : Out :=
  let i : Instr := .rqCommit q m
  s.graphics i (s.rayOp i q none m fun s x =>
    let y := x.set q
    let rays := (x.rays q m).foldl (fun t n => tset t n (y.ray n).accept) y.rays
    s.done fun z => z.rayEnd.modVs fun v => v.putSet q { y with rays := rays })

/-! ## rq.end and rq.sort (R383, R384) -/

/-- rq.end. -/
def execRqEnd (q : Bool) (s : State) : Out :=
  let i : Instr := .rqEnd q
  s.graphics i (s.vector i (rayUse [] none .none) Hart.rayCfg (fun _ => []) fun s =>
    let x := s.me
    let y := x.set q
    if !y.isOpen then (s.charge x.G).done Hart.rayEnd
    else s.released 3 fun s =>
      ((s.charge x.G).modVi x.who.vi.toNat fun v => v.unpin y.entry.toNat y.gen).done fun z =>
        z.rayEnd.modVs fun v => v.putSet q QuerySet.reset)

/-- The key of rq.sort. -/
def Ray.sortKey (r : Ray) : Nat :=
  (if 2 ≤ r.st.toNat then 8 else 0) + (if r.dx.getLsbD 31 then 1 else 0) + (if r.dy.getLsbD 31 then 2 else 0) +
    (if r.dz.getLsbD 31 then 4 else 0)

/-- rq.sort. -/
def execRqSort (q : Bool) (d : Reg) (m : Mask) (la : BitVec 4) (s : State) : Out :=
  let i : Instr := .rqSort q d m la
  if s.stepping = .a0 then s.trap .lifetime (lowWord i) else
  s.claimedOnly i (s.rayOp i q (some d) m fun s x =>
    let y := x.set q
    let ps := x.rays q m
    let from_ := sortKey (fun n => (y.ray n).sortKey) ps
    let moves := ps.zip from_
    let rays := moves.foldl (fun t (p : Nat × Nat) => tset t p.1 (y.ray p.2)) y.rays
    let ws := moves.map fun p => x.vwrite d.toNat 32 p.1 p.2 none
    (s.modMe fun z => z.modVs fun v => v.putSet q { y with rays := rays }).vland (rayUse [] (some d) m) la ws 0 (acc := false))

/-! ## bld.cmd (R374) -/

/-- bld.cmd. -/
def execBldCmd (d a : Reg) (la : BitVec 4) (s : State) : Out :=
  s.claimedOnly (.bldCmd d a la) (s.withG [a] fun x =>
    let off := x.readG a
    let w := s.who s.cur
    if off.toNat % 64 ≠ 0 then s.trap .align off
    else if 0x100000 < off.toNat + 64 || !s.laneProbe w.core w.vi false off.toNat 64 then s.trap .access off
    else
      let ((v, p), s) := s.readLane w w.core off.toNat 64
      match p with
      | some p => s.trap p.cause.toCause off
      | none =>
      let words := (List.range 8).map fun k => BitVec.ofNat 64 (v >>> (64 * k))
      let crec := words.getD 1 0
      if crec.toNat % 64 ≠ 0 then s.trap .align crec else
      let (r, s) := s.probe w .store crec 64
      match r with
      | .error (c, e) => s.trap c e
      | .ok _ =>
        let die := dieOf s.cur
        let vi := x.who.vi.toNat
        s.released x.core.vs.cfg.sc fun s =>
          let c : BuildCmd := { words := words, seq := 0, space := x.sys.space, hart := s.cur }
          let s := s.charge x.G
          let q := s.builderQ die vi
          if 256 ≤ q.cmds.length || !(s.waiting fun e => e.builds die vi).isEmpty then
            s.doneEntry la (.build die vi c d) Hart.vend
          else (s.sendBuild die vi c).doneLa la [(d, q.seq.setWidth 64, none)] [] 0 Hart.vend)

end Sys2Proof.Machine
end

