-- ==== Sys2Proof/Machine/Sample.lean ====
section
/-! DEFINITION. Texture sampling, vsample and vsample.m (spec/13_raster_shading.md R329-R332). -/

namespace Sys2Proof.Machine

open Sys2Proof

/-! ## Sampler descriptors (R329) -/

/-- A sampler descriptor (Table 13.14). -/
structure Sampler where
  base   : Word
  width  : Nat
  height : Nat
  levels : Nat
  wrapV  : Nat
  wrapU  : Nat
  filter : Nat
  format : Nat
  deriving DecidableEq, Repr

/-- Bytes of a texel (Table 13.15). -/
def texelBytes (fmt : Nat) : Nat :=
  if fmt = 0 then 1 else if fmt = 2 || fmt = 5 || fmt = 7 then 4 else if fmt = 6 then 8 else 2

/-- The descriptor that 64 bytes hold; none: it breaks Table 13.14. -/
def Sampler.parse (v : Nat) : Option Sampler :=
  let w0 := BitVec.ofNat 64 v
  let w1 := BitVec.ofNat 64 (v >>> 64)
  let f := fun hi lo => bitsOf w1 hi lo
  if v >>> 128 != 0 || w1.getLsbD 63 || w1.getLsbD 47 || f 31 21 != 0 || f 15 10 != 0 || w1.getLsbD 3 || f 20 16 == 0 ||
      16 < f 20 16 || f 9 8 == 3 || f 7 6 == 3 || f 5 4 == 3 || w0.toNat % 128 != 0 then none
  else some { base := w0, width := f 46 32 + 1, height := f 62 48 + 1, levels := f 20 16, wrapV := f 9 8, wrapU := f 7 6,
              filter := f 5 4, format := f 2 0 }

def Sampler.w (d : Sampler) (l : Nat) : Nat := max 1 (d.width >>> l)
def Sampler.h (d : Sampler) (l : Nat) : Nat := max 1 (d.height >>> l)

/-- A number rounded up to a multiple of m. -/
def roundUp (m n : Nat) : Nat := (n + m - 1) / m * m

/-- P of level l. -/
def Sampler.pitch (d : Sampler) (l : Nat) : Nat := roundUp 128 (d.w l * texelBytes d.format)

/-- O of level l. -/
def Sampler.offset (d : Sampler) : Nat → Nat
  | 0 => 0
  | l + 1 => roundUp 4096 (d.offset l + d.pitch l * d.h l)

/-- The address of texel (x, y) of level l. -/
def Sampler.texel (d : Sampler) (l x y : Nat) : Word :=
  d.base + BitVec.ofNat 64 (d.offset l + y * d.pitch l + x * texelBytes d.format)

/-! ## Which texels a sample reads (R330) -/

/-- ⌊z × 2^e × k⌋. -/
def floorDy (z e : Int) (k : Nat) : Int :=
  if 0 ≤ e then z * 2 ^ e.toNat * k else (z * k) / 2 ^ (-e).toNat

/-- An index wrapped into 0 to n − 1. -/
def wrapIndex (mode n : Nat) (i : Int) : Nat :=
  if mode = 0 then (i % n).toNat
  else if mode = 1 then (max 0 (min i (n - 1 : Nat))).toNat
  else
    let m := (i % (2 * n : Nat)).toNat
    if m < n then m else 2 * n - 1 - m

/-- Indices of an axis of n texels for a coordinate z × 2^e, in ascending order, with weights in 256ths; none of weight 0. -/
def axisIndices (point : Bool) (mode n : Nat) (z e : Int) : List (Nat × Nat) :=
  if point then [(wrapIndex mode n (floorDy z e n), 256)]
  else
    let (a, q) := addDy (decide (z < 0)) (z.natAbs * n) e true 1 (-1)
    let i0 := floorDy a q 1
    let f := (floorDy a q 256 - i0 * 256).toNat
    let l := [(wrapIndex mode n i0, 256 - f), (wrapIndex mode n (i0 + 1), f)].filter fun p => p.2 != 0
    match l with
    | [a, b] => if b.1 < a.1 then [b, a] else [a, b]
    | l => l

/-- lodc as z × 2^e. -/
def Sampler.lod (d : Sampler) (lod : Fp) : Int × Int :=
  let top : Int := d.levels - 1
  match lod with
  | .nan _ => (0, 0)
  | .inf n => (if n then 0 else top, 0)
  | .fin n m e =>
    if n then (0, 0)
    else if top ≤ floorDy m e 1 then (top, 0) else (m, e)

/-- Levels with weights in 256ths; none of weight 0. -/
def Sampler.levelsOf (d : Sampler) (lod : Fp) : List (Nat × Nat) :=
  let (z, e) := d.lod lod
  if d.filter < 2 then
    let (a, q) := addDy false z.natAbs e false 1 (-1)
    [((floorDy a q 1).toNat, 256)]
  else
    let l0 := floorDy z e 1
    let f := (floorDy z e 256 - l0 * 256).toNat
    [(l0.toNat, 256 - f), (min (l0.toNat + 1) (d.levels - 1), f)].filter fun p => p.2 != 0

/-- The texels of a sample at (u, v), each z × 2^e, in the order in which they are read: address and weight in 2^24ths. -/
def Sampler.texels (d : Sampler) (u v : Int × Int) (lod : Fp) : List (Word × Nat) :=
  let point := d.filter == 0
  (d.levelsOf lod).flatMap fun l =>
    (axisIndices point d.wrapV (d.h l.1) v.1 v.2).flatMap fun y =>
      (axisIndices point d.wrapU (d.w l.1) u.1 u.2).map fun x => (d.texel l.1 x.1 y.1, l.2 * y.2 * x.2)

/-! ## Components -/

/-- A component of a format: a constant, or the scaled value of a texel. -/
inductive Comp where
  | const (n : Nat)
  | unorm (lo w : Nat)
  | float (k : FpK) (lo : Nat)

/-- Components R, G, B and A (Table 13.15). -/
def formatComps (fmt : Nat) : List Comp :=
  let z := Comp.const 0
  let one := Comp.const 0x3F800000
  if fmt = 0 then [.unorm 0 8, z, z, one]
  else if fmt = 1 then [.unorm 0 8, .unorm 8 8, z, one]
  else if fmt = 2 then [.unorm 0 8, .unorm 8 8, .unorm 16 8, .unorm 24 8]
  else if fmt = 3 then [.unorm 0 16, z, z, one]
  else if fmt = 4 then [.float .h 0, z, z, one]
  else if fmt = 5 then [.float .h 0, .float .h 16, z, one]
  else if fmt = 6 then [.float .h 0, .float .h 16, .float .h 32, .float .h 48]
  else [.float .s 0, z, z, one]

/-- A component of a sample: the weighted sum of its texels' values, exact and rounded once. -/
def Comp.sum (c : Comp) (ts : List (Nat × Nat)) : Nat × Flags :=
  match c with
  | .const n => (n, 0)
  | .unorm lo w =>
    weighted .s (2 ^ 24 * (2 ^ w - 1)) (ts.map fun t => ((t.2 : Int), Fp.fin false ((t.1 >>> lo) % 2 ^ w) 0))
  | .float k lo => weighted .s (2 ^ 24) (ts.map fun t => ((t.2 : Int), Fp.unpack k (t.1 >>> lo)))

/-- The four components of texels given as (value, weight), with the flags they raise. -/
def Sampler.comps (d : Sampler) (ts : List (Nat × Nat)) : List Nat × Flags :=
  let rs := (formatComps d.format).map fun c => c.sum ts
  (rs.map Prod.fst, rs.foldl (fun a r => a ||| r.2) 0)

/-- What the texels of an element are; none: u or v is a NaN or infinite. -/
def Sampler.plan (d : Sampler) (u v lod : Nat) : Option (List (Word × Nat)) :=
  match Fp.unpack .s u, Fp.unpack .s v with
  | .fin n m e, .fin n2 m2 e2 => some (d.texels (sInt n m, e) (sInt n2 m2, e2) (Fp.unpack .s lod))
  | _, _ => none

/-! ## Elements -/

/-- An element's sample: the components with their flags and poison, or the fault of its first failing texel. -/
abbrev Sampled := Except MemFault (List Nat × Flags × Option Poison)

/-- The texels of an element probed in order. -/
def State.probeTexels (s : State) (me : Who) (n : Nat) (memo : Walks) :
    List (Word × Nat) → Except MemFault (List (VTarget × Nat)) × Walks × State
  | [] => (.ok [], memo, s)
  | (a, k) :: rest =>
    let (r, memo, s) := s.probeElemIn me .data .texel a n memo
    match r with
    | .error f => (.error f, memo, s)
    | .ok t =>
      let (rs, memo, s) := s.probeTexels me n memo rest
      match rs with
      | .error f => (.error f, memo, s)
      | .ok ts => (.ok ((t, k) :: ts), memo, s)

/-- The texels of an element read: values with weights, and the first poison. -/
def State.readTexels (s : State) (n : Nat) : List (VTarget × Nat) → List (Nat × Nat) × Option Poison × State
  | [] => ([], none, s)
  | (t, k) :: rest =>
    let ((v, p), s) := s.readElem t n
    let (vs, q, s) := s.readTexels n rest
    ((v, k) :: vs, p <|> q, s)

/-- The group that holds component k of the operand at r. -/
def Hart.compReg (x : Hart) (r : Reg) (k : Nat) : Nat := r.toNat + k * x.core.vs.cfg.p

/-- Element i sampled, its texels translated in the TLB bank of its lane group (spec/14_translation.md Table 14.4). -/
def State.sampleElem (s : State) (d : Sampler) (b : Reg) (memo : Walks) (i : Nat) : Sampled × Walks × State :=
  let x := s.me
  let c := fun (k : Nat) => x.elem (x.compReg b k) 32 i
  match d.plan (c 0) (c 1) (c 2) with
  | none => (.ok ([FpK.s.nan, FpK.s.nan, FpK.s.nan, FpK.s.nan], fNV, none), memo, s)
  | some ts =>
    let n := texelBytes d.format
    let (r, memo, s) := s.probeTexels { s.who s.cur with bank := some (x.groupOf 32 i) } n memo ts
    match r with
    | .error f => (.error f, memo, s)
    | .ok ts =>
      let (vs, p, s) := s.readTexels n ts
      let (cs, fl) := d.comps vs
      (.ok (cs, if p.isSome then 0 else fl ||| sigNV [Fp.unpack .s (c 2)], p), memo, s)

/-- The components of element i as window writes. -/
def Hart.sampleWrites (x : Hart) (d : Reg) (i : Nat) (cs : List Nat) (p : Option Poison) : List VWrite :=
  cs.zipIdx.map fun c => x.vwrite (x.compReg d c.2) 32 i c.1 p

/-- The poison of the mask bits, or of the coordinates, that element i reads. -/
def Hart.samplePoison (x : Hart) (b : Reg) (m : Mask) (i : Nat) : Option Poison :=
  if x.core.vs.vPoison.isEmpty || !x.core.vs.em.getLsbD i then none else
    match (maskRegs m).findSome? fun c => x.elemPoison c.toNat 32 i with
    | some p => some p
    | none => if x.active m i then (List.range 3).findSome? fun k => x.elemPoison (x.compReg b k) 32 i else none

/-- The operands lie within v0-v63 and do not overlap (R330). -/
def Hart.sampleFits (x : Hart) (d b : Reg) (f : Option Reg) : Bool :=
  let p := x.core.vs.cfg.p
  x.core.vs.cfg.ew == .e32 && b.toNat + 3 * p ≤ 64 && d.toNat + 4 * p ≤ 64 && !overlaps d.toNat (4 * p) b.toNat (3 * p) &&
    (match f with
      | none => true
      | some f => x.core.vs.cfg.maskFits f.toNat && !overlaps f.toNat p d.toNat (4 * p) && !overlaps f.toNat p b.toNat (3 * p))

/-- The registers of a sample. -/
def State.sampleUse (s : State) (d a b : Reg) (m : Mask) (f : Option Reg) : VUse :=
  let p := s.me.core.vs.cfg.p
  let at_ := fun (r : Reg) (n : Nat) => (List.range n).map fun k => (r + BitVec.ofNat 6 (k * p), 32)
  { rd := at_ b 3, wr := at_ d 4, masks := maskRegs m, gs := [a], also := f.toList }

/-- Elements that a sample touches. -/
def sampleTouch (d b : Reg) (m : Mask) (f : Option Reg) (x : Hart) : List (Nat × Nat × Nat) :=
  maskTouch (maskRegs m) x.vstart x ++ (x.parts m).flatMap fun i =>
    ((List.range 3).map fun k => (x.compReg b k, 32, i)) ++ ((List.range 4).map fun k => (x.compReg d k, 32, i)) ++
      (match f with
        | some f => [(f.toNat, 32, i)]
        | none => [])

/-- A sample up to its elements: the checks at issue, and the descriptor. A strip is taken once the descriptor has passed its
checks (spec/12_engines_handlers.md R283). -/
def State.sampling (s0 : State) (i : Instr) (d a b : Reg) (m : Mask) (f : Option Reg)
    (k : VUse → Sampler → State → Out) : Out :=
  let u := s0.sampleUse d a b m f
  s0.vector i u (fun x => x.sampleFits d b f) (sampleTouch d b m f) fun s =>
    let x := s.me
    if x.vl ≤ x.vstart then s.vdone u id else
    let at_ := x.readG a
    let back := fun (s : State) => s.modMe fun y => y.modVs fun _ => s0.me.core.vs
    if at_.toNat % 64 ≠ 0 then (back s).trap .align at_ else
    let me := s.who s.cur
    let (r, _, s) := s.probeElemIn me .data .load at_ 64 {}
    match r with
    | .error (c, e) =>
      let tr := probeTrap (s.watchMask me .load 64 [(0, at_, r)]) [(0, at_, r)]
      (back s).trapWith (tr.getD { cause := c, tval := e })
    | .ok t =>
      let ((v, p), s) := s.readElem t 64
      match p with
      | some p => (back s).trap p.cause.toCause at_
      | none =>
      match Sampler.parse v with
      | none => (back s).trap .rsvdField at_
      | some desc => k u desc s

/-- Elements of vsample in ascending order, each complete before the next (R331). -/
def State.sampleEach (s : State) (u : VUse) (desc : Sampler) (d b : Reg) (m : Mask) (memo : Walks) : List Nat → Out
  | [] => s.vdone u id
  | i :: is =>
    let x := s.me
    let stop := fun (s : State) (c : Cause) (a : Word) =>
      (s.modMe fun y => y.modVs fun v => { v with vstart := BitVec.ofNat 16 i }).trapWith
        { cause := c, tval := a, telem := i, wmask := if c == .watch then some (BitVec.ofNat 16384 (2 ^ i)) else none,
          pages := [] }
    match x.samplePoison b m i with
    | some p => stop s p.cause.toCause p.addr
    | none =>
      if !x.active m i then s.sampleEach u desc d b m memo is else
      let (r, memo, s) := s.sampleElem desc b memo i
      match r with
      | .error (c, a) => stop s c a
      | .ok (cs, fl, p) =>
        (s.modMe fun y => (y.modVs fun v => (y.sampleWrites d i cs p).foldl VState.landV v).raise fl).sampleEach u desc d b m memo is

/-- vsample. -/
def execVsample (d a b : Reg) (m : Mask) (la : BitVec 4) (s : State) : Out :=
  s.sampling (.vsample d a b m la) d a b m none fun u desc s =>
    let x := s.me
    s.sampleEach u desc d b m {} ((List.range x.vl).filter fun i => x.vstart ≤ i)

/-- Elements of vsample.m sampled in ascending order. -/
def State.sampleAll (s : State) (desc : Sampler) (b : Reg) (memo : Walks) : List Nat → List (Nat × Sampled) × State
  | [] => ([], s)
  | i :: is =>
    let (r, memo, s) := s.sampleElem desc b memo i
    let (rs, s) := s.sampleAll desc b memo is
    ((i, r) :: rs, s)

/-- Elements whose first failing texel matches a watch range, in ascending order, with their addresses. -/
def watchedSamples (rs : List (Nat × Sampled)) : List (Nat × Word) :=
  rs.filterMap fun r => match r.2 with
    | .error (.watch, a) => some (r.1, a)
    | _ => none

/-- vsample.m. -/
def execVsampleM (d a b : Reg) (f : BitVec 6) (m : Mask) (la : BitVec 4) (s : State) : Out :=
  s.sampling (.vsampleM d a b f m la) d a b m (some f) fun u desc s0 =>
    let x := s0.me
    let gated := (List.range x.vl).filter fun i => x.vstart ≤ i
    match gated.findSome? fun i => (x.samplePoison b m i).map fun p => (i, p) with
    | some (n, p) => s0.trapAt p.cause.toCause p.addr n
    | none =>
      let (rs, s) := s0.sampleAll desc b {} (x.parts m)
      match watchedSamples rs with
      | (n, e) :: _ =>
        let hit := fun (i : Nat) => ((desc.plan (x.elem (x.compReg b 0) 32 i) (x.elem (x.compReg b 1) 32 i)
            (x.elem (x.compReg b 2) 32 i)).getD []).any fun t => x.watches x.core.mode .texel t.1 (texelBytes desc.format)
        s0.trapWith { cause := .watch, tval := e, telem := n, wmask := some (maskOf ((x.parts m).filter hit)) }
      | [] =>
        let ws := rs.flatMap fun r => match r.2 with
          | .ok (cs, _, p) => x.sampleWrites d r.1 cs p
          | .error _ => []
        let fl := rs.foldl (fun t (r : Nat × Sampled) => match r.2 with
          | .ok (_, g, _) => t ||| g
          | .error _ => t) 0
        let bad := fun (r : Nat × Sampled) => match r.2 with
          | .ok _ => false
          | .error _ => true
        let fs := rs.map fun r => x.vwrite f.toNat 32 r.1 (maskValue 32 (bad r)) none
        (s.modMe fun y => y.modVs fun v => { v with flags := vflagsOf (rs.map bad) }).vland u la (ws ++ fs) fl (sets := true)

end Sys2Proof.Machine
end

