-- ==== Sys2Proof/Machine/Net.lean ====
section
/-! DEFINITION. Events of walkers, homes, networks, links and memory controllers: PAGE_WALK (spec/14_translation.md R333),
HOME_ACCESS, RDC_INVALIDATE, PEER_ACCESS_ARRIVE and DRAM_SCRUB (spec/08_memories.md R191, R199-R205), ATM_COMBINE,
REPLY_SPLIT, ESCAPE_MOVE, LINK_RETRAIN and LINK_DOWN (spec/12_engines_handlers.md R293-R298), ROUTE_RECOMPUTE,
SHEET_PORT_DOWN and SHEET_ACCESS_ARRIVE (spec/19_host_device.md R436-R438). -/

namespace Sys2Proof.Machine

open Sys2Proof

/-! ## Walkers (spec/14_translation.md R333, R339) -/

/-- PAGE_WALK: a walk for a hart fills the TLB of its core. -/
def execPageWalk (h : Nat) (inst : Bool) (va : Word) (s : State) : Out :=
  if 8192 ≤ h then .fault .noSuchUnit else
  if (s.hart h).core.st == .free || !canonical va || (isSheet va && !inst) then .next s
  else .next (s.xlateWalk (s.who h) inst (if inst then .fetch else .load) va.toNat).2

/-! ## Atomic requests (spec/12_engines_handlers.md R295, R296) -/

/-- Whom a request acts for. -/
def State.atmWho (s : State) (q : AtmReq) : Who := { s.who q.hart with uid := q.uid, pc := q.pc }

def State.setAtms (s : State) (l : List AtmReq) : State := { s with net := { s.net with atms := l } }

/-- The home performs a request. -/
def State.performAtm (s : State) (q : AtmReq) : Word × Option ErrCause × State :=
  let ((old, p), s) := s.amoTarget (s.atmWho q) (.mem q.xl (.dram q.addr)) q.bytes fun o => some (amoNew q.op q.bytes o q.x.toNat)
  (BitVec.ofNat 64 old, p.map Poison.cause, s)

/-- The request that carries a request, through at most n others. -/
def AtmReq.carrier (l : List AtmReq) : Nat → AtmReq → AtmReq
  | 0, q => q
  | n + 1, q => match q.absorbed with
    | none => q
    | some (j, _) => match l.find? fun r => r.id == j with
      | none => q
      | some r => AtmReq.carrier l n r

/-- An earlier request of the same core to the same home, neither performed nor carried by y, stands before the k-th: the
networks keep their order (R292). -/
def State.atmFollows (s : State) (k : Nat) (y : AtmReq) : Bool :=
  match s.net.atms[k]? with
  | none => false
  | some q => (s.net.atms.take k).any fun o =>
      let c := o.carrier s.net.atms s.net.atms.length
      o.src == q.src && homeSlice o.addr == homeSlice q.addr && c.reply.isNone && c.id != y.id

/-- HOME_ACCESS: the k-th request of the networks is performed at its home. -/
def execHomeAccess (k : Nat) (s : State) : Out :=
  match s.net.atms[k]? with
  | none => .next s
  | some q =>
    if q.absorbed.isSome || q.reply.isSome || s.atmFollows k q then .next s else
      let (v, e, s) := s.performAtm q
      let (n, s) := s.draw
      .next (s.setAtms (s.net.atms.set k { q with reply := some (v, e), sent := n, past := false }))

/-- Two requests may combine. -/
def AtmReq.meets (y x : AtmReq) : Bool :=
  y.cmb && x.cmb && y.addr == x.addr && y.wide == x.wide && y.op == x.op && y.scope == x.scope && y.absorbed.isNone &&
    x.absorbed.isNone && y.reply.isNone && x.reply.isNone

/-- ATM_COMBINE: request y absorbs request x, which has no earlier one of its core still before it. -/
def execAtmCombine (y x : Nat) (s : State) : Out :=
  match s.net.atms[y]?, s.net.atms[x]? with
  | some p, some q =>
    if y = x || !p.meets q || s.atmFollows x p || (p.src == q.src && x < y) then .next s else
      let new := BitVec.ofNat 64 (amoNew p.op p.bytes p.x.toNat q.x.toNat)
      .next (s.setAtms ((s.net.atms.set x { q with absorbed := some (p.id, p.x) }).set y { p with x := new }))
  | _, _ => .next s

/-- A request's results reach the window of its instruction, which may wait for others. -/
def Hart.answerAtomic (x : Hart) (id : Nat) (gw : List (Reg × Word × Option Poison)) (vw : List VWrite) : Hart :=
  { x with windows := x.windows.map fun w => match w.await with
    | .atomic ids =>
      if !ids.contains id then w else
        let rest := ids.erase id
        { w with await := if rest.isEmpty then .nothing else .atomic rest, gw := w.gw ++ gw, vw := w.vw ++ vw }
    | _ => w }

/-- A request's reply reaches its requester, each element of a `vamo` with the value that it reads (spec/09_consistency.md
R224). -/
def State.answerAtm (s : State) (q : AtmReq) (v : Word) (e : Option ErrCause) : State :=
  if !s.isFor q.hart q.uid then s else
    let p : Option Poison := e.map fun c => { cause := c, addr := q.pc }
    let vw := q.elems.map fun y => { y.1 with value := amoSplit q.op q.bytes v.toNat y.2 % 2 ^ y.1.width, poison := p }
    let s := s.modHart q.hart fun x => x.answerAtomic q.id (if q.elems.isEmpty then [(q.dest, v, p)] else []) vw
    let s := s.dropL1Line (coreOf q.hart) (.dram q.addr)
    if q.acq then s.acquire (coreOf q.hart) q.scope else s

/-- The home has answered a request: its invalidations are acknowledged (spec/08_memories.md R203). -/
def State.answered (s : State) (q : AtmReq) : Bool := q.reply.isSome && !s.net.invals.any fun i => i.line == q.addr / 128

/-- An answer sent earlier from the same home to the same core has not arrived: the networks keep their order (R292). -/
def State.replyFollows (s : State) (q : AtmReq) : Bool := s.net.atms.any fun o =>
  s.answered o && o.src == q.src && homeSlice o.addr == homeSlice q.addr && o.sent < q.sent

/-- REPLY_SPLIT: the reply to request k goes to its requester, and every request it absorbed gets its own, unless a link on its
way has lost it (R298). -/
def execReplySplit (k : Nat) (s : State) : Out :=
  match s.net.atms[k]? with
  | none => .next s
  | some q =>
    match q.reply with
    | none => .next s
    | some (v, e) =>
      if !s.answered q || s.replyFollows q then .next s else
        let link := if q.past then none else s.downOn (dimRoute (dramDie q.addr) (dieOfCore q.src))
        let e := if link.isSome then some .linkLost else e
        let s := match link with
          | some l => s.linkErr (s.atmWho q) q.addr l
          | none => s
        let split := fun (r : AtmReq) => match r.absorbed with
          | some (j, y) =>
            if j = q.id then
              let u := BitVec.ofNat 64 (amoSplit r.op r.bytes v.toNat (some y))
              { r with absorbed := none, reply := some (u, e), sent := q.sent, past := q.past || link.isSome }
            else r
          | none => r
        let s := s.setAtms ((s.net.atms.eraseIdx k).map split)
        .next (s.answerAtm q v e)

/-! ## RDC copies and peer stores (spec/08_memories.md R203, R191) -/

/-- RDC_INVALIDATE: a die drops its copies of a line and acknowledges. -/
def execRdcInvalidate (die line : Nat) (s : State) : Out :=
  if 8 ≤ die then .fault .noSuchUnit else
  let s := s.dropRdcLine die line
  .next (State.settleAcks { s with net := { s.net with invals := s.net.invals.filter fun i => !(i.die == die && i.line == line) } })

/-- The hart that runs a context. -/
def State.hartOf (s : State) (uid : Nat) : Option Nat :=
  (s.tasks.find? fun (e : Nat × Hart) => e.2.who.uid == uid && e.2.core.st != .free).map Prod.fst

/-- A peer store is lost, on a link when one is named, and reported to its context. -/
def State.losePeer (s : State) (p : PeerStore) (link : Nat) : State :=
  match s.hartOf p.uid with
  | none => s
  | some h =>
    let w := { s.who h with pc := p.pc }
    (s.linkErr w (p.core * 2 ^ 52 + p.off) link).pend w .linkLost

/-- The die that a peer store comes from. -/
def State.peerFrom (s : State) (p : PeerStore) : Nat := match s.hartOf p.uid with
  | some h => dieOf h
  | none => dieOfCore p.core

/-- The link that loses a packet on a route that the networks choose among the shortest (R292): of one that is down on each of them,
or with may, on one. -/
def State.lostOnWay (s : State) (a b : Nat) (may : Bool) : Option Nat :=
  if may then (shortRoutes a b).findSome? s.downOn else s.blocked (shortRoutes a b)

/-- PEER_ACCESS_ARRIVE: the k-th peer store on its way lands; with lost, a link that is down has lost it, as it must when no
shortest route is left. A later store of a context to a place waits for its earlier ones (spec/09_consistency.md R221). -/
def execPeerAccessArrive (k : Nat) (lost : Bool) (s : State) : Out :=
  match s.net.peers[k]? with
  | none => .next s
  | some p =>
    let before := (s.net.peers.take k).any fun q =>
      q.uid == p.uid && q.core == p.core && q.off < p.off + p.bytes.length && p.off < q.off + q.bytes.length
    if before then .next s else
    let gone := fun (s : State) => { s with net := { s.net with peers := s.net.peers.eraseIdx k } }
    match if p.past then none else s.lostOnWay (s.peerFrom p) (dieOfCore p.core) lost with
    | some link => .next (gone (s.losePeer p link))
    | none => if lost then .next s else .next (gone (s.landPeer p))

/-! ## Routers and links -/

/-- The router of a die that serves a local core, and the one that serves a local slice (spec/01_machine.md R14). -/
def routerOfCore (core : Nat) : Nat := core % 128 / 2
def routerOfSlice (slice : Nat) : Nat := slice % 64

/-- ESCAPE_MOVE: counted at its router, and no value changes. -/
def execEscapeMove (die router : Nat) (s : State) : Out :=
  if 8 ≤ die || 64 ≤ router then .fault .noSuchUnit
  else .next (s.countAt die (0x106000 + 64 * router + 0x10) 1)

/-- The switch of a die at the end of a link: which of the die's links it is. -/
def switchOf (die link : Nat) : Nat :=
  ((linkPairs.zipIdx.filter fun e => e.1.1 == die || e.1.2 == die).map Prod.snd).idxOf link

/-- n retrains and flits counted at both ends of a link (spec/17_counters_debug.md Table 17.5, Table 17.3). -/
def State.countLink (s : State) (link flits : Nat) : State :=
  let e := linkPairs.getD link (0, 0)
  [e.1, e.2].foldl (fun s d =>
    let b := 0x107000 + 64 * switchOf d link
    let s := (s.countAt d (b + 0x28) 1).countAt d (b + 0x30) flits
    s.modDie d fun x =>
      let o := 0x100100 + 16 * 7
      { x with counts := tset x.counts o (BitVec.ofNat 64 (min (2 ^ 32 - 1) ((tget 0 x.counts o).toNat + flits))) }) s

def State.modLink (s : State) (link : Nat) (f : Link → Link) : State :=
  { s with net := { s.net with links := vmod s.net.links link f } }

/-- LINK_RETRAIN: flits are replayed and nothing is lost; half: a lane has failed. -/
def execLinkRetrain (link flits : Nat) (half : Bool) (s : State) : Out :=
  if 10 ≤ link then .fault .noSuchUnit else
  match s.net.links.toList[link]? with
  | some l => if l.up then .next ((s.countLink link flits).modLink link fun l => { l with half := l.half || half }) else .next s
  | none => .next s

/-- Packets of a kind that may be over a link that goes down, each of them over it or past it: what becomes of the items that are
to be marked, and of those that are lost. -/
def State.overLink {α : Type} (s : State) (l : List α) (on : α → Bool) (past lose : State → α → State) : State :=
  l.foldl (fun s q => if !on q then s else
    let (f, s) := s.draw
    if Config.freeBit f then lose s q else past s q) s

/-- An atomic request or its reply, in dimension order, uses a link. -/
def AtmReq.uses (q : AtmReq) (link : Nat) : Bool :=
  let a := dieOfCore q.src
  let b := dramDie q.addr
  q.absorbed.isNone && !q.past && (if q.reply.isSome then dimRoute b a else dimRoute a b).contains link

def State.modAtm (s : State) (id : Nat) (f : AtmReq → AtmReq) : State :=
  s.setAtms (s.net.atms.map fun r => if r.id = id then f r else r)

/-- An atomic request, or its reply, over a link is lost; performed: its home performed it first. -/
def State.loseAtm (s : State) (performed : Bool) (link : Nat) (q : AtmReq) : State :=
  let s := s.linkErr (s.atmWho q) q.addr link
  let s := if performed && q.reply.isNone then (s.performAtm q).2.2 else s
  let (n, s) := s.draw
  s.modAtm q.id fun r => { r with reply := some (0, some .linkLost), sent := if q.reply.isSome then r.sent else n, past := true }

/-- The die that a message comes from: its hart's, or that of the Pip core that sends it on. -/
def Entry.die (e : Entry) : Nat := if e.hart < 8192 then dieOf e.hart else (e.hart - 8192) / 64

/-- A message that waits is lost: its sender is told. -/
def State.loseSend (s : State) (link : Nat) (e : Entry) (m : Message) : State :=
  let w := { s.whoVi m.vi m.space.asid with core := e.die * 128, hart := m.sender, uid := e.uid, pc := e.pc }
  let s := (s.linkErr w m.target.toNat link)
  let s := { s with net := { s.net with entries := s.net.entries.filter fun o => o.id != e.id } }
  if 8192 ≤ e.hart then s else
    let (f, s) := s.draw
    match m.mode with
    | .reply => s.modHart e.hart fun x => x.answer (.message m.id) [(m.dest, 0x21, none), (m.dest + 1, Config.freeWord f, none)]
    | _ => (s.pend w .linkLost).modHart e.hart fun x => x.answer (.entry e.id) []

/-- LINK_DOWN: every packet in flight over the link completes with LINK_LOST (R298). What of the requests and replies on their
way is over it, and what has passed it or takes another way, is free. -/
def execLinkDown (link : Nat) (performed : Bool) (s : State) : Out :=
  if 10 ≤ link then .fault .noSuchUnit else
  match s.net.links.toList[link]? with
  | none => .next s
  | some l =>
    if !l.up then .next s else
    let e := linkPairs.getD link (0, 0)
    let s := [e.1, e.2].foldl (fun s d => s.countEcc d 7 true) s
    let s := s.overLink s.net.atms (fun q => q.uses link) (fun s q => s.modAtm q.id fun r => { r with past := true })
      (State.loseAtm · performed link ·)
    let peers := s.net.peers
    let s := { s with net := { s.net with peers := peers.filter fun p => !crosses link (s.peerFrom p) (dieOfCore p.core) } }
    let s := s.overLink peers (fun p => crosses link (s.peerFrom p) (dieOfCore p.core))
      (fun s p => { s with net := { s.net with peers := s.net.peers ++ [{ p with past := true }] } }) (fun s p => s.losePeer p link)
    let stores := s.net.stores
    let s := s.overLink stores (fun q => crosses link (dieOfCore q.core) (dramDie q.addr))
      (fun s q => { s with net := { s.net with stores := s.net.stores.map fun o => if o.id = q.id then { o with past := true } else o } })
      (fun s q => { s with net := { s.net with stores := s.net.stores.filter fun o => o.id != q.id } }.loseWrite (s.storeWho q) true
        q.target q.bytes.length (leNat q.bytes) none link)
    let mcmd := fun (s : State) (m n : Mcmd) => { s with net := { s.net with mcmds := s.net.mcmds.map fun o => if o.id = m.id then n else o } }
    let s := s.overLink s.net.mcmds (fun m => !m.past && (match m.status with
        | none => crosses link (dieOf m.hart) (dieOfCore m.core)
        | some _ => (dimRoute (dieOfCore m.core) (dieOf m.hart)).contains link)) (fun s m => mcmd s m { m with past := true })
      fun s m => mcmd (s.linkErr (s.who m.hart) (m.core * 2 ^ 52) link) m { m with status := some 0x21, past := true }
    let reply := fun (s : State) (r n : Reply) => { s with net := { s.net with replies := s.net.replies.map fun o => if o = r then n else o } }
    let s := s.overLink s.net.replies (fun r => !r.past && (dimRoute (r.slice / 64) (dieOf r.msg.sender)).contains link)
      (fun s r => reply s r { r with past := true })
      fun s r => reply (s.linkErr (s.who r.msg.sender) r.msg.target.toNat link) r { r with status := 0x21, past := true }
    let s := s.overLink (s.net.entries.filterMap fun e => match e.post with
        | .send k m => if crosses link e.die (k / 64) then some (e, m) else none
        | _ => none) (fun _ => true) (fun s _ => s) (fun s e => s.loseSend link e.1 e.2)
    .next (s.modLink link fun l => { l with up := false, routed := false })

/-- ROUTE_RECOMPUTE: packets take routes around a link that is down, and both dies record it. -/
def execRouteRecompute (link : Nat) (s : State) : Out :=
  if 10 ≤ link then .fault .noSuchUnit else
  match s.net.links.toList[link]? with
  | none => .next s
  | some l =>
    if l.up || l.routed then .next s else
      let e := linkPairs.getD link (0, 0)
      let s := [e.1, e.2].foldl (fun s d => s.logErr d none 10 link noHart 0 0) s
      .next (s.modLink link fun l => { l with routed := true })

/-! ## Sheet ports (spec/19_host_device.md R437, R438) -/

/-- SHEET_PORT_DOWN: accesses through the port that are in a lookahead window may be lost (LONG_LATENCY_COMPLETE). -/
def execSheetPortDown (port : Nat) (s : State) : Out :=
  if 12 ≤ port then .fault .noSuchUnit
  else .next { s with fw := { s.fw with ports := s.fw.ports &&& ~~~ (BitVec.ofNat 12 (2 ^ port)) } }

/-- A packet that leaves for another module. -/
def State.sheetSend (s : State) (a : Word) (bs : List Byte) : State :=
  { s with net := { s.net with sheetOut := s.net.sheetOut ++ [(a, bs)] } }

def SheetReqBytes : SheetReq → Nat
  | .read n => n
  | .write bs => bs.length
  | .atomic _ wide _ => if wide then 8 else 4

/-- An access of another module is refused: its requester's element gets ACCESS (R438). -/
def State.sheetRefuse (s : State) (a : Word) : State := { s with net := { s.net with refused := s.net.refused ++ [a] } }

/-- A sheet access to the bound window, in the VI's address space. -/
def State.sheetWindow (s : State) (c : SheetConf) (asid : BitVec 16) (a : Word) (req : SheetReq) : State :=
  let o := bitsOf a 47 0
  if c.length.toNat < o + SheetReqBytes req then s.sheetRefuse a else
    let va := c.base + BitVec.ofNat 64 o
    let w := s.whoVi c.vi asid
    match req with
    | .read n =>
      (match s.devRead w va n with
        | (some bs, s) => s.sheetSend a bs
        | (none, s) => s.sheetRefuse a)
    | .write bs => ((s.devWrite w va bs).map fun s => s.sheetSend a []).getD (s.sheetRefuse a)
    | .atomic op wide x =>
      let n := if wide then 8 else 4
      let (r, s) := s.devXlate w .atomic va
      (match r with
        | .error _ => s.sheetRefuse a
        | .ok xl =>
          match place (xl.page * 4096 + va.toNat % 4096) with
          | .dram pa =>
            if va.toNat % n ≠ 0 then s.sheetRefuse a else
              let (g, s) := s.freshRead xl.tag (.dram pa) n
              if g.2 then s.sheetRefuse a else
                (s.homeWrite 0 xl.tag pa (leBytes n (amoNew op n (leNat g.1) (x.toNat % 2 ^ (8 * n)))) none).sheetSend a g.1
          | _ => s.sheetRefuse a)

/-- A sheet access to lane memory of a core. -/
def State.sheetPeer (s : State) (c : SheetConf) (a : Word) (req : SheetReq) : State :=
  let core := bitsOf a 41 32
  let off := bitsOf a 19 0
  let n := SheetReqBytes req
  if bitsOf a 47 42 != 0 || bitsOf a 31 20 != 0 || n = 0 || !s.laneProbe core (BitVec.ofNat 7 c.vi) true off n then s.sheetRefuse a else
    match req with
    | .read n => s.sheetSend a ((s.core core).laneRead off n).1
    | .write bs => (s.modCore core fun x => x.laneWrite off bs none).sheetSend a []
    | .atomic _ _ _ => s.sheetRefuse a

/-- SHEET_ACCESS_ARRIVE: an access of another module, accepted when the VI is bound. -/
def execSheetAccessArrive (vi : Nat) (asid : BitVec 16) (addr : Word) (req : SheetReq) (s : State) : Out :=
  if 128 ≤ vi then .fault .noSuchUnit else
  match s.fw.sheets.find? fun c => c.vi == vi with
  | none => .next (s.sheetRefuse addr)
  | some c => .next (if addr.getLsbD 48 then s.sheetPeer c addr req else s.sheetWindow c asid addr req)

/-! ## Memory controllers (spec/08_memories.md R205) -/

/-- DRAM_SCRUB of a line of a die: an uncorrectable line is poisoned and recorded. -/
def execDramScrub (die line : Nat) (found : ScrubFinding) (s : State) : Out :=
  if 8 ≤ die then .fault .noSuchUnit else
  if dramPerDie / 128 ≤ line then .next s else
  match found with
  | .clean => .next s
  | .correctable => .next (s.countEcc die 6 false)
  | .uncorrectable =>
    let l := die * 2 ^ 28 + line
    let s := s.eccMet die 6 none noHart (l * 128)
    .next { s with phys := { s.phys with poison := tset s.phys.poison l { cause := .dataEcc, addr := 0 } } }

/-! ## Errors found (spec/08_memories.md Table 08.8) -/

/-- The die, the structure of Table 17.3 and the VI of where an error is found. -/
def State.eccPlace (s : State) : EccSite → Nat × Nat × Option Nat
  | .vreg h _ _ => (dieOf h, 0, some (s.hart h).who.vi.toNat)
  | .lane c w =>
    let o := (s.core c).ownerAt (8 * w)
    (dieOfCore c, 1, if o.v then some o.vi.toNat else none)
  | .scratch k _ => (k / 64, 1, none)
  | .tile c _ | .panel c _ => (dieOfCore c, 2, (s.matrix c).claim.map fun y => y.vi.toNat)
  | .dtab c t _ => (dieOfCore c, 3, ((s.core c).dts.toList[t]?).bind fun y => y.owner)
  | .l1 c _ | .icache c _ => (dieOfCore c, 4, none)
  | .rdc d _ => (d, 4, none)
  | .line n => (dramDie (n * 128), 5, none)
  | .tag k _ _ => (k / 64, 5, none)
  | .packet h => (dieOf h, 8, some (s.hart h).who.vi.toNat)

/-- Each place lies within its structure. -/
def EccSite.exists_ : EccSite → Bool
  | .vreg h n k => h < 8192 && n < 64 && k < 256
  | .lane c w => c < 1024 && w < 131072
  | .scratch k w => k < 512 && w < 2048
  | .tile c w => c < 1024 && w < 4096
  | .panel c w => c < 1024 && w < 32768
  | .dtab c t e => c < 1024 && t < 4 && e < 256
  | .l1 c _ | .icache c _ => c < 1024
  | .rdc d _ => d < 8
  | .line n => n < 8 * (dramPerDie / 128)
  | .tag k set _ => k < 512 && set < 1024
  | .packet h => h < 8192

/-- The lines that a set of a slice holds: those named, of which there are at most 16, and those pinned there. -/
def State.setLines (s : State) (k set : Nat) (lines : List Nat) : List Nat :=
  let here := fun (n : Nat) => homeSlice (n * 128) == k && l2Set (n * 128) == set
  ((s.phys.pins.map Prod.fst ++ lines).filter here).eraseDups.take 16

/-- What an uncorrectable error does where it is found. The instruction that a reader is told of is the one that no rule
names, and free. -/
def State.eccSpoil (s : State) (site : EccSite) : State :=
  let (f, s) := s.draw
  let p : Poison := { cause := .dataEcc, addr := Config.freeWord f }
  match site with
  | .vreg h n k => s.modHart h fun x => if x.G ≤ k / 16 then x else x.modVs fun v =>
      { v with vPoison := (List.range 8).foldl (fun t b => tset t (n * 2048 + 8 * k + b) p) v.vPoison }
  | .lane c w => s.modCore c fun x => { x with lPoison := tset x.lPoison w p }
  | .scratch k w => s.modSlice k fun x => { x with sPoison := tset x.sPoison w p }
  | .tile c w => s.modMatrix c fun m => { m with tPoison := tset (tset m.tPoison (2 * w) p) (2 * w + 1) p }
  | .panel c w => s.modMatrix c fun m => { m with wPoison := tset m.wPoison w p }
  | .dtab c t e => s.modCore c fun x => { x with dts := vmod x.dts t fun y => { y with poison := tset y.poison e p } }
  | .l1 c key => s.modCore c fun x => { x with l1 := tdel x.l1 key }
  | .icache c key => s.modCore c fun x => { x with icache := tdel x.icache key }
  | .rdc d key => s.modDie d fun x => { x with rdc := tdel x.rdc key }
  | .line n => { s with phys := { s.phys with poison := tset s.phys.poison n p } }
  | .tag k set lines =>
    let ls := s.setLines k set lines
    let s := { s with phys := { s.phys with poison := ls.foldl (fun t n => tset t n p) s.phys.poison } }
    s.logErr (k / 64) none 8 (k % 64) noHart (BitVec.ofNat 64 (ls.headD 0 * 128)) 0
  | .packet _ => s

/-- The error logic finds an error: a corrected one is counted; an uncorrectable one is counted and recorded, and spoils what
Table 08.8 names. A parity error is found when the next data are delivered to a hart (spec/12_engines_handlers.md R294). The
records give a physical address where there is one, and a free one otherwise; met: the hart whose work met the error. -/
def State.ecc (s : State) (site : EccSite) (uncorrectable : Bool) (met : Option Nat) : State :=
  if !site.exists_ then s else
  let e := s.eccPlace site
  let by_ := match site with
    | .vreg h _ _ => some h
    | _ => met.filter fun h => h < 8192 && (s.hart h).core.st != HState.free
  match site with
  | .packet h => { s with net := { s.net with parity := if s.net.parity.contains h then s.net.parity else h :: s.net.parity } }
  | _ =>
  if !uncorrectable then s.countEcc e.1 e.2.1 false else
    let (f, s) := s.draw
    let addr := match site with
      | .line n => n * 128
      | .tag k set lines => (s.setLines k set lines).headD 0 * 128
      | _ => (Config.freeWord f).toNat
    (s.eccMet e.1 e.2.1 (e.2.2 <|> by_.map fun h => (s.hart h).who.vi.toNat) (by_.getD noHart) addr).eccSpoil site

/-! ## Hosts (spec/08_memories.md Table 08.9) -/

/-- A host writes its own memory, or DRAM that is assigned to a VI, through PCIe. -/
def State.hostWrite (s : State) : HostWrite → State
  | .memory b a bs =>
    let bs := bs.take (2 ^ 46 - a)
    if b then { s with phys := { s.phys with hostB := s.phys.hostB.writeN a bs } }
    else { s with phys := { s.phys with hostA := s.phys.hostA.writeN a bs } }
  | .dram a bs =>
    match s.fw.assigned.find? fun r => r.1 ≤ a && a + bs.length ≤ r.2.1 with
    | none => s
    | some r =>
      let (ok, s) := s.heard r.2.2
      if ok then (bs.zipIdx).foldl (fun s b => s.homeWrite 0 none (a + b.2) [b.1] none) s else s

end Sys2Proof.Machine
end

