-- ==== Sys2Proof/Machine/Handlers.lean ====
section
/-! DEFINITION. Slice handlers (spec/12_engines_handlers.md R300-R302, spec/08_memories.md R192, spec/15_tables.md R358):
activations on Pip cores, their commit and their replies. -/

namespace Sys2Proof.Machine

open Sys2Proof

/-! ## What an activation holds -/

/-- An activation under way: the bytes it has written, the newest first, with the 128-byte units they lie in and the key
tag of each line, the message it has sent on, with its slice, and the translations that it keeps until it ends
(spec/14_translation.md R340). A byte of DRAM has its die-local address, a byte of scratch its offset above scratchKey. -/
structure Pip where
  buf    : List (Nat × Byte)
  units  : List Nat
  tags   : Tab LineTag
  onward : Option (Nat × Message)
  tlb    : List TlbEntry
  deriving DecidableEq, Repr

def Pip.empty : Pip := { buf := [], units := [], tags := [], onward := none, tlb := [] }

def scratchKey : Nat := 2 ^ 50

/-- How an instruction of an activation ends. -/
inductive PipEnd where
  | go (p : Pip)
  | stop (reason : Nat)
  | ret (p : Pip) (v : Word)

/-- The number under which the state holds a slice's Pip core while it runs. -/
def pipNum (slice : Nat) : Nat := 8192 + slice

/-- The number that names an activation as the writer of what it writes. -/
def Message.uid (m : Message) : Nat := 2 ^ 40 + m.id

/-- A Pip core at the start of an activation (R300). VFLAGS, which the spec gives no value, are free. -/
def Message.start (m : Message) (fl : Nat) : Hart :=
  let x := { Hart.reset with
    core := { Hart.reset.core with st := .running, pc := m.handler }, who := { Hart.reset.who with vi := BitVec.ofNat 7 m.vi },
    sys := { Hart.reset.sys with space := m.space } }
  let x := x.modVs fun v => { v with flags := VFlags.ofNat (fl % 8) }
  let x := ((x.writeG 1 (m.args.getD 0 0)).writeG 2 (m.args.getD 1 0)).writeG 3 (m.args.getD 2 0)
  ((((x.writeG 4 (m.args.getD 3 0)).writeG 5 m.target).writeG 6 (BitVec.ofNat 64 m.sender))).writeG 7 (BitVec.ofNat 64 m.hop)

/-- Whom an activation acts for: the sender's address space, in mode U, on the slice's die. -/
def State.pipWho (s : State) (m : Message) (slice : Nat) : Who :=
  { vi := BitVec.ofNat 7 m.vi, space := m.space, mode := .u, core := slice / 64 * 128, hart := m.sender, uid := m.uid,
    pc := s.me.core.pc }

/-! ## Its accesses -/

/-- Every byte from a key is buffered. -/
def Pip.covers (p : Pip) (key n : Nat) : Bool := (List.range n).all fun i => (tfind p.buf (key + i)).isSome

/-- The offset that a scratch address names (R192). -/
def State.scratchAt (s : State) (vi : Nat) (a : Word) (n : Nat) : Option Nat :=
  let off := bitsOf a 13 0
  if bitsOf a 62 56 != 0 || bitsOf a 47 14 != 0 then none else
  match tfind (s.vi vi).tables.regions (bitsOf a 55 48) with
  | some r => if r.base ≤ off && off + n ≤ r.base + r.len then some off else none
  | none => none

/-- An address of an activation translated through its die's walkers, or by what it has translated before (R339, R340). -/
def State.pipXlate (s : State) (m : Message) (slice : Nat) (p : Pip) (inst : Bool) (k : AKind) (va : Word) :
    Except Cause TlbEntry × Pip × State :=
  let w := s.pipWho m slice
  let held := (p.tlb.find? fun t => t.hits w inst va.toNat).filter fun t =>
    !(k.writes && !t.dirty && (s.leafFault w k t.leaf).isNone && s.physWord t.at_ != t.leaf)
  match held with
  | some t => (match s.leafFault w k t.leaf with
      | some c => .error c
      | none => .ok t, p, s)
  | none =>
    let (r, s) := s.devWalk w inst k va
    match r with
    | .error c => (.error c, p, s)
    | .ok t => (.ok t, { p with tlb := t :: p.tlb.filter fun o => !o.hits w inst va.toNat }, s)

/-- D set for a write through an entry that an activation keeps. -/
def State.pipDirty (s : State) (m : Message) (p : Pip) (t : TlbEntry) : Pip × State :=
  if t.dirty then (p, s) else
    ({ p with tlb := p.tlb.map fun o => if o = t then { o with leaf := o.leaf ||| 256 } else o }, s.setDirty m.uid t)

/-- The key and tag of an access of n bytes, or the reason of Table 12.5 that ends the activation. -/
def State.pipPlace (s : State) (m : Message) (slice : Nat) (p : Pip) (k : AKind) (a : Word) (n : Nat) :
    Except Nat (Nat × LineTag) × Pip × State :=
  if a.toNat % n ≠ 0 then (.error 6, p, s)
  else if a.getLsbD 63 then
    match s.scratchAt m.vi a n with
    | none => (.error 10, p, s)
    | some off =>
      let bad := k != .store && (tfind (s.slice slice).sPoison (off / 8)).isSome && !p.covers (scratchKey + off / 8 * 8) 8
      (if bad then .error 7 else .ok (scratchKey + off, none), p, s)
  else
    let (r, p, s) := s.pipXlate m slice p false k a
    match r with
    | .error c => (.error (if c == .dataEcc then 7 else 5), p, s)
    | .ok t =>
      let x := t.xlat a.toNat
      match place (x.page * 4096 + a.toNat % 4096) with
      | .dram pa =>
        if homeSlice pa ≠ slice then (.error 2, p, s) else
        if k != .store && (tfind s.phys.poison (pa / 128)).isSome && !p.covers (pa / 128 * 128) 128 then (.error 7, p, s) else
        let (p, s) := if k.writes then s.pipDirty m p t else (p, s)
        (.ok (pa, x.tag), p, s)
      | _ => (.error 2, p, s)

/-- n bytes that an activation reads: its own writes over what memory holds. -/
def State.pipRead (s : State) (slice : Nat) (p : Pip) (key : Nat) (tag : LineTag) (n : Nat) : Nat × State :=
  let r := if scratchKey ≤ key then ((s.slice slice).scratch.readN (key - scratchKey) n, s) else
    let (g, s) := s.freshRead tag (.dram key) n
    (g.1, s)
  (leNat ((List.range n).map fun i => (tfind p.buf (key + i)).getD (r.1.getD i 0)), r.2)

/-- n bytes written; none: more than 32 units. -/
def Pip.write (p : Pip) (key : Nat) (tag : LineTag) (n v : Nat) : Option Pip :=
  let u := key / 128
  let units := if p.units.contains u then p.units else u :: p.units
  if 32 < units.length then none else
    some { p with buf := ((leBytes n v).zipIdx.map fun b => (key + b.2, b.1)) ++ p.buf, units := units, tags := tset p.tags u tag }

/-- The result of a memory instruction, and the activation as it goes on. -/
def pipDone (p : Pip) (o : Out) (s : State) : PipEnd × State :=
  match o with
  | .next t => (.go p, t)
  | _ => (.stop 4, s)

/-- A load. -/
def State.pipLoad (s : State) (m : Message) (slice : Nat) (p : Pip) (w : BitVec 2) (sx : Bool) (d : Reg) (a : Word)
    (la : BitVec 4) : PipEnd × State :=
  let n := wBytes w
  let (r, p, s) := s.pipPlace m slice p .load a n
  match r with
  | .error e => (.stop e, s)
  | .ok (key, tag) =>
    let (v, s) := s.pipRead slice p key tag n
    pipDone p (s.doneLa la [(d, extendLoad w sx v, none)] [] 0 id) s

/-- A store. -/
def State.pipStore (s : State) (m : Message) (slice : Nat) (p : Pip) (w : BitVec 2) (v : Word) (a : Word) (la : BitVec 4) :
    PipEnd × State :=
  let n := wBytes w
  let (r, p, s) := s.pipPlace m slice p .store a n
  match r with
  | .error e => (.stop e, s)
  | .ok (key, tag) =>
    match p.write key tag n (storeBits w v) with
    | none => (.stop 3, s)
    | some q => pipDone q (s.doneLa la [] [] 0 id) s

/-- An atomic; f gives what it writes. -/
def State.pipAtomic (s : State) (m : Message) (slice : Nat) (p : Pip) (w : BitVec 2) (d : Reg) (a : Word) (la : BitVec 4)
    (f : Nat → Option Nat) : PipEnd × State :=
  let n := wBytes w
  let (r, p, s) := s.pipPlace m slice p .atomic a n
  match r with
  | .error e => (.stop e, s)
  | .ok (key, tag) =>
    let (old, s) := s.pipRead slice p key tag n
    let q := match f old with
      | none => some p
      | some new => p.write key tag n new
    match q with
    | none => (.stop 3, s)
    | some q => pipDone q (s.doneLa la [(d, BitVec.ofNat 64 old, none)] [] 0 id) s

/-- msg.send of an activation: it is kept until the commit (R301). Its breaches are tried in the order ONWARD, CHAIN, HANDLER,
PAGE, and an activation at hop 15 can send on no more (notes/assumptions/90.md). -/
def State.pipSend (s : State) (m : Message) (slice : Nat) (p : Pip) (a b c : Reg) (la : BitVec 4) : PipEnd × State :=
  let x := s.me
  let h := x.readG a
  let t := x.readG b
  if p.onward.isSome then (.stop 8, s)
  else if 15 ≤ m.hop then (.stop 9, s)
  else if !(s.vi m.vi).inImage h then (.stop 11, s)
  else
    let (r, p, s) := s.pipXlate m slice p false .load t
    match r with
    | .error _ => (.stop 5, s)
    | .ok e =>
      let xl := e.xlat t.toNat
      match place (xl.page * 4096 + t.toNat % 4096), xl.idem with
      | .dram pa, true =>
        let next := { m with handler := h, target := t, hop := m.hop + 1,
                             args := [x.readG c, x.readG (c + 1), x.readG (c + 2), x.readG (c + 3)] }
        pipDone { p with onward := some (homeSlice pa, next) } (s.doneLa la [] [] 0 id) s
      | _, _ => (.stop 5, s)

/-! ## Its instructions -/

/-- The instructions of classes 0x0 and 0x2 that an activation may execute: they do what they do for a hart. -/
def pipPlain : Instr → Option (State → Out)
  | .nop => some execNop
  | .li d imm => some (execLi d imm)
  | .mov d a => some (execMov d a)
  | .add d a b => some (execAdd d a b)
  | .addi d a imm => some (execAddi d a imm)
  | .sub d a b => some (execSub d a b)
  | .mul d a b => some (execMul d a b)
  | .mulh d a b => some (execMulh d a b)
  | .mulhz d a b => some (execMulhz d a b)
  | .div d a b la => some (execDiv d a b la)
  | .divz d a b la => some (execDivz d a b la)
  | .rem d a b la => some (execRem d a b la)
  | .remz d a b la => some (execRemz d a b la)
  | .and d a b => some (execAnd d a b)
  | .andi d a imm => some (execAndi d a imm)
  | .or d a b => some (execOr d a b)
  | .ori d a imm => some (execOri d a imm)
  | .xor d a b => some (execXor d a b)
  | .xori d a imm => some (execXori d a imm)
  | .andn d a b => some (execAndn d a b)
  | .shl d a b => some (execShl d a b)
  | .shli d a sh => some (execShli d a sh)
  | .shr d a b => some (execShr d a b)
  | .shri d a sh => some (execShri d a sh)
  | .sra d a b => some (execSra d a b)
  | .srai d a sh => some (execSrai d a sh)
  | .rotl d a b => some (execRotl d a b)
  | .rotr d a b => some (execRotr d a b)
  | .clz d a => some (execClz d a)
  | .ctz d a => some (execCtz d a)
  | .popc d a => some (execPopc d a)
  | .min d a b => some (execMin d a b)
  | .max d a b => some (execMax d a b)
  | .umin d a b => some (execUmin d a b)
  | .umax d a b => some (execUmax d a b)
  | .slt d a b => some (execSlt d a b)
  | .slo d a b => some (execSlo d a b)
  | .seq d a b => some (execSeq d a b)
  | .sel d a b c => some (execSel d a b c)
  | .sext d a n => some (execSext d a n)
  | .zext d a n => some (execZext d a n)
  | .bfx sg d a pos len => some (execBfx sg d a pos len)
  | .bfi d a pos len => some (execBfi d a pos len)
  | .lea d a b sh imm => some (execLea d a b sh imm)
  | .bswap d a => some (execBswap d a)
  | .jmp imm => some (execJmp imm)
  | .jr a imm => some (execJr a imm)
  | .br k a b imm => some (execBr k a b imm)
  | .bz a imm => some (execBz a imm)
  | .bnz a imm => some (execBnz a imm)
  | .bvf k imm => some (execBvf k imm)
  | .loop a n => some (execLoop a n)
  | _ => none

/-- One instruction that has been fetched. A trap that it would take on a hart ends the activation: a target that is not
aligned as ALIGN, any other as INSN. -/
def State.pipExec (s : State) (m : Message) (slice : Nat) (p : Pip) (i : Instr) : PipEnd × State :=
  let x := s.me
  match i with
  | .ld w sx d a b imm la => s.pipLoad m slice p w sx d (x.base a b imm) la
  | .ldAcq w sx _ d a b imm la => s.pipLoad m slice p w sx d (x.base a b imm) la
  | .st w d a b imm la => s.pipStore m slice p w (x.readG d) (x.base a b imm) la
  | .stRel w _ d a b imm la => s.pipStore m slice p w (x.readG d) (x.base a b imm) la
  | .amo op w _ d a b _ _ _ imm la =>
    let v := storeBits w (x.readG b)
    s.pipAtomic m slice p w d (x.readG a + imm) la fun o => some (amoNew op (wBytes w) o v)
  | .cas w d a b c _ _ _ imm la =>
    let want := storeBits w (x.readG b)
    let new := storeBits w (x.readG c)
    s.pipAtomic m slice p w d (x.readG a + imm) la fun o => if o = want then some new else none
  | .msgSend _ _ a b c _ la => s.pipSend m slice p a b c la
  | .hret a => (.ret p (x.readG a), s)
  | i =>
    match pipPlain i with
    | none => (.stop 4, s)
    | some f =>
      match f s with
      | .next t =>
        if t.me.frames.isEmpty then (.go p, t)
        else (.stop (if t.me.sys.mtrap.tcause == 0x09 then 6 else 4), s)
      | _ => (.stop 4, s)

/-- Results of open windows land, or do not yet (spec/02_encoding.md R56). -/
def State.pipLand (s : State) : List Window → State
  | [] => s
  | w :: ws =>
    let (f, s) := s.draw
    (if Config.freeBit f then s.modMe fun x => { x.land w with windows := x.windows.filter fun v => v != w } else s).pipLand ws

/-- The word at an address of the sender's instruction space, or the reason that ends the activation. -/
def State.pipFetch (s : State) (m : Message) (slice : Nat) (p : Pip) : Except Nat (BitVec 128) × Pip × State :=
  let pc := s.me.core.pc
  let (r, p, s) := s.pipXlate m slice p true .fetch pc
  match r with
  | .error c => (.error (if c == .dataEcc then 7 else 5), p, s)
  | .ok t =>
    let x := t.xlat pc.toNat
    let at_ := place (x.page * 4096 + pc.toNat % 4096)
    match at_ with
    | .dram _ | .host _ _ =>
      let (g, s) := s.freshRead x.tag at_ 16
      (if g.2 then .error 7 else .ok (wordOfBytes g.1), p, s)
    | _ => (.error 5, p, s)

/-- An activation of at most so many instructions. -/
def State.pipRun (m : Message) (slice : Nat) : Nat → Pip → State → PipEnd × State
  | 0, _, s => (.stop 1, s)
  | n + 1, p, s =>
    match s.me.openIssue with
    | none => (.stop 4, s)
    | some x =>
      let s := s.setMe x
      let s := s.pipLand x.windows
      let (r, p, s) := s.pipFetch m slice p
      match r with
      | .error e => (.stop e, s)
      | .ok w =>
        match decode w with
        | .ok i =>
          match s.pipExec m slice p i with
          | (.go q, t) => State.pipRun m slice n q t
          | e => e
        | _ => (.stop 4, s)

/-! ## Commit and reply -/

/-- Every buffered write takes effect (R301). -/
def State.pipCommit (s : State) (m : Message) (slice : Nat) (p : Pip) : State :=
  p.units.foldl (fun s u =>
    let bytes := (List.range 128).filterMap fun i => (tfind p.buf (128 * u + i)).map fun b => (128 * u + i, b)
    if scratchKey ≤ 128 * u then
      s.modSlice slice fun y =>
        let off := 128 * u - scratchKey
        let clean := (List.range 16).filter fun k => p.covers (128 * u + 8 * k) 8
        { y with scratch := bytes.foldl (fun mem b => mem.write (b.1 - scratchKey) b.2) y.scratch,
                 sPoison := clean.foldl (fun t k => tdel t (off / 8 + k)) y.sPoison }
    else
      let tag := tget none p.tags u
      if bytes.length = 128 then s.homeWrite m.uid tag (128 * u) (bytes.map Prod.snd) none
      else bytes.foldl (fun s b => s.homeWrite m.uid tag b.1 [b.2] none) s) s

/-- What a chain's last activation answers (R301, R302): status and value. -/
def State.pipReply (s : State) (slice : Nat) (m : Message) (status : Nat) (v : Word) : State :=
  if m.quiet then s else
  let r : Reply := { msg := m, slice := slice, status := BitVec.ofNat 64 status, value := v }
  match m.mode with
  | .post => s
  | .reply => { s with net := { s.net with replies := s.net.replies ++ [r] } }
  | .port => s.modSlice slice fun y => { y with reply := some r }

/-- An activation that a rule ended: nothing is committed, and the sender learns the reason (R301). -/
def State.pipAbort (s : State) (slice : Nat) (m : Message) (reason : Nat) : State :=
  let status := 0x28 + reason * 256 + m.hop * 65536
  let s := s.countAt (slice / 64) (0x108000 + 0x40 * (slice % 64) + 0x20) 1
  let s := if m.mode == .post then
      s.logErr (slice / 64) (some m.vi) 1 status m.sender m.target m.handler
    else s
  let (f, s) := s.draw
  s.pipReply slice m status (if m.mode == .port then 0 else Config.freeWord f)

/-- A commit: the writes, and then the onward message or the reply. The message waits like any other for room at its slice, and
the handler itself does not. -/
def State.pipFinish (s : State) (slice : Nat) (m : Message) (p : Pip) (v : Word) : State :=
  let s := (s.pipCommit m slice p).countAt (slice / 64) (0x108000 + 0x40 * (slice % 64) + 0x18) 1
  match p.onward with
  | none => s.pipReply slice m (m.hop * 65536) v
  | some (k, next) =>
    match s.lost (slice / 64) (k / 64) with
    | (none, s) => (s.deliverMsg k next (pipNum slice) m.uid m.handler).2
    | (some link, s) =>
      let s := s.linkErr (s.pipWho m slice) next.target.toNat link
      let (f, s) := s.draw
      let s := if Config.freeBit f then (s.deliverMsg k { next with quiet := true } (pipNum slice) m.uid m.handler).2 else s
      s.pipReply slice m (0x21 + m.hop * 65536) v

/-- HANDLER_ACTIVATION: the message accepted first runs its handler (spec/01_machine.md R19) as one step
(spec/09_consistency.md R225), unless a reply waits at the slice (R302). -/
def execHandlerActivation (slice : Nat) (s : State) : Out :=
  if 512 ≤ slice then .fault .noSuchUnit else
  match (s.slice slice).msgs, (s.slice slice).reply with
  | m :: rest, none =>
    let (f, s) := s.draw
    let t := s.modSlice slice fun y => { y with msgs := rest }
    let t := { t.setHart (pipNum slice) (m.start (Config.freeWord f).toNat) with cur := pipNum slice }
    let (e, t) := State.pipRun m slice (s.vi m.vi).hbudget Pip.empty t
    let t := { t with harts := tdel t.harts (pipNum slice), cur := s.cur }
    .next (match e with
      | .ret p v => t.pipFinish slice m p v
      | .stop reason => t.pipAbort slice m reason
      | .go _ => t.pipAbort slice m 1)
  | _, _ => .next s

/-- The record of Table 12.6. -/
def Reply.record (r : Reply) : BitVec 512 :=
  BitVec.ofNat 512 (r.status.toNat % 2 ^ 32 + r.msg.sender * 2 ^ 32 + r.value.toNat * 2 ^ 64 + r.msg.tag.toNat * 2 ^ 128)

/-- HANDLER_REPLY_PUSH: a mode 2 reply enters its port once there is room and what the handler wrote is performed (R302), unless
a link on its way has lost it (R298). -/
def execHandlerReplyPush (slice : Nat) (s : State) : Out :=
  if 512 ≤ slice then .fault .noSuchUnit else
  match (s.slice slice).reply with
  | none => .next s
  | some r =>
    let p := s.port r.msg.die r.msg.vi r.msg.port
    if 256 ≤ p.recs.length || !s.acked then .next s else
      match s.lost (slice / 64) r.msg.die with
      | (some link, s) =>
        .next ((s.linkErr (s.pipWho r.msg slice) r.msg.target.toNat link).modSlice slice fun y => { y with reply := none })
      | (none, s) =>
      let s := s.setPort r.msg.die r.msg.vi r.msg.port { p with recs := p.recs ++ [(r.record, false)] }
      .next (s.modSlice slice fun y => { y with reply := none })

/-- MSG_REPLY_ARRIVE: the k-th reply on its way reaches the sender, whose window it completes as an acquire (R299, R225);
lost: a link on its way, which is in dimension order, has lost it (R298). -/
def execMsgReplyArrive (h k : Nat) (lost : Bool) (s : State) : Out :=
  if 8192 ≤ h then .fault .noSuchUnit else
  match s.net.replies[k]? with
  | none => .next s
  | some r =>
    let m := r.msg
    let x := s.hart h
    if m.sender ≠ h || !s.acked then .next s else
    let gone := { s with net := { s.net with replies := s.net.replies.eraseIdx k } }
    if x.who.uid ≠ m.sendUid || x.core.st == .free then .next gone else
    let deliver := fun (s : State) (status : Word) =>
      (s.modHart h fun x => x.answer (.message m.id) [(m.dest, status, none), (m.dest + 1, r.value, none)]).acquire (coreOf h) m.sc
    match if r.past then none else s.downOn (dimRoute (r.slice / 64) (dieOf h)) with
    | some link => if lost then .next (deliver (gone.linkErr (gone.who h) m.target.toNat link) 0x21) else .next s
    | none => if lost then .next s else .next (deliver gone r.status)

end Sys2Proof.Machine
end

