-- ==== Sys2Proof/Machine/Agents.lean ====
section
/-! DEFINITION. Graphics agents of a die: records and their drops (spec/13_raster_shading.md R304, R305) and the mesh
distributor (R306-R314). -/

namespace Sys2Proof.Machine

open Sys2Proof

/-! ## Records -/

/-- Word k of a record. -/
def recWord (r : BitVec 512) (k : Nat) : Word := BitVec.ofNat 64 (r.toNat >>> (64 * k))

/-- Words from k to 7 of a record are 0. -/
def recZero (r : BitVec 512) (k : Nat) : Bool := r.toNat >>> (64 * k) == 0

def recOf (ws : List Nat) : BitVec 512 := BitVec.ofNat 512 (ws.zipIdx.foldl (fun n w => n + (w.1 % 2 ^ 64) <<< (64 * w.2)) 0)

/-- The first record of a port. -/
def State.headOf (s : State) (die vi port : Nat) : Option (BitVec 512 × Bool) := (s.port die vi port).recs.head?

/-- n records taken from a port. -/
def State.takeRecs (s : State) (die vi port n : Nat) : State :=
  let p := s.port die vi port
  s.setPort die vi port { p with recs := p.recs.drop n }

/-- A record appended to a port. -/
def State.giveRec (s : State) (die vi port : Nat) (r : BitVec 512) : State :=
  let p := s.port die vi port
  s.setPort die vi port { p with recs := p.recs ++ [(r, false)] }

/-- An AGENT error (spec/17_counters_debug.md Table 17.8). -/
def State.agentErr (s : State) (die vi type : Nat) (addr data : Word) : State :=
  s.logErr die (some vi) 2 (type + die * 256) noHart addr data

/-- R305: the first record of a port is dropped with its continuation records, n in all, and counted. -/
def State.dropRecs (s : State) (die vi port type n : Nat) : State :=
  match s.headOf die vi port with
  | none => s
  | some r => (s.agentErr die vi type (BitVec.ofNat 64 port) (recWord r.1 0)).takeRecs die vi port n

/-- For whom an agent of a die accesses memory: the VI's address space 0 (notes/assumptions/50.md). -/
def State.agentWho (s : State) (die vi : Nat) : Who := { s.whoVi vi 0 with core := die * 128 }

/-! ## The distributor's passes (R308, R313, R314) -/

def State.dist (s : State) (die vi : Nat) : DistCtx := tget DistCtx.reset (s.die die).dist vi

def State.setDist (s : State) (die vi : Nat) (d : DistCtx) : State := s.modDie die fun y => { y with dist := tset y.dist vi d }

/-- It takes no record: a triangle waits for chunks, or the tile queue is to be closed. -/
def DistCtx.busy (d : DistCtx) : Bool := !d.work.isEmpty || d.stalled || d.closing

/-- The tile of a position (tx, ty). -/
def tileKey (tx ty : Nat) : Nat := ty * 65536 + tx

/-- Chunks that tiles or passes hold. -/
def DistCtx.held (d : DistCtx) : List Nat := (d.tiles.flatMap fun t => t.2.chunks) ++ d.passes.flatMap fun p => p.chunks

/-- Chunks of the buffer that nothing holds. -/
def DistCtx.freeChunks (d : DistCtx) : List Nat :=
  match d.setup with
  | none => []
  | some u => ((List.range u.chunks).map fun k => u.base.toNat + 4096 * k).filter fun a => !d.held.contains a

/-- TILETAG number n of a die's context. -/
def tileTag (die n : Nat) : BitVec 24 := BitVec.ofNat 24 (die % 8 * 2 ^ 21 + n % 2 ^ 21)

/-- Every tile that holds entries becomes a pass, waiting to be posted. -/
def DistCtx.flush (d : DistCtx) (die : Nat) (full : Bool) : DistCtx :=
  d.tiles.foldl (fun d t =>
    let p : Pass := { tag := tileTag die d.count, tx := t.1 % 65536, ty := t.1 / 65536, chunks := t.2.chunks,
                      entries := t.2.entries, flushed := full, posted := false, tickets := none, commits := 0 }
    { d with passes := d.passes ++ [p], count := d.count + 1 }) { d with tiles := [] }

/-- A pass's blocks begin again at SEQ 0. -/
def State.clearSeq (s : State) (vi : Nat) (tag : BitVec 24) : State :=
  s.modDie (tag.toNat / 2 ^ 21) fun y => { y with nextSeq := y.nextSeq.filter fun q => q.1 / 256 != vi * 2 ^ 24 + tag.toNat }

/-- FLUSH (R308). -/
def State.flushDist (s : State) (die vi : Nat) (full : Bool) : State :=
  let d := s.dist die vi
  let e := d.flush die full
  (e.passes.drop d.passes.length).foldl (fun s p => s.clearSeq vi p.tag) (s.setDist die vi e)

/-- Passes whose tickets have all been committed complete, and their chunks are free (R314). -/
def DistCtx.settle (d : DistCtx) : DistCtx :=
  let done := d.passes.filter fun p => match p.tickets with
    | some n => n ≤ p.commits
    | none => false
  if done.isEmpty then d else
    let tags := done.map Pass.tag
    { d with passes := d.passes.filter fun p => !tags.contains p.tag,
             fences := d.fences.map fun f => (f.1, f.2.filter fun t => !tags.contains t) }

/-- The tile queue is closed once every pass is posted (R308). -/
def State.closeTiles (s : State) (die vi : Nat) : State :=
  let d := s.dist die vi
  if d.closing && d.passes.all Pass.posted then
    let p := s.port die vi 1
    (s.setPort die vi 1 { p with closed := true }).setDist die vi { d with closing := false }
  else s

/-! ## Clipping and the viewport (R309) -/

/-- A vertex in clip space, binary64 and binary16 motion. -/
structure ClipVertex where
  x : Nat
  y : Nat
  z : Nat
  w : Nat
  mx : Nat
  my : Nat
  deriving DecidableEq, Repr

def dAdd (a b : Nat) : Nat := (fAdd .d .rne a b).1
def dSub (a b : Nat) : Nat := (fSub .d .rne a b).1
def dMul (a b : Nat) : Nat := (fMul .d .rne a b).1
def dDiv (a b : Nat) : Nat := (fDiv .d .rne a b).1

/-- An integer as binary64. -/
def dInt (n : Nat) : Nat := (intToF .d .rne n).1

/-- A binary64 is at least 0. -/
def dNonNeg (a : Nat) : Bool := match Fp.unpack .d a with
  | .nan _ => false
  | .inf n => !n
  | .fin n m _ => !n || m == 0

/-- A binary64 is finite. -/
def dFinite (a : Nat) : Bool := match Fp.unpack .d a with
  | .fin _ _ _ => true
  | _ => false

/-- The distance of a vertex from plane k, with the guard factors g_x and g_y. -/
def ClipVertex.dist (v : ClipVertex) (gx gy k : Nat) : Nat :=
  match k with
  | 0 => v.z
  | 1 => dSub v.w v.z
  | 2 => dAdd v.x (dMul gx v.w)
  | 3 => dSub (dMul gx v.w) v.x
  | 4 => dAdd v.y (dMul gy v.w)
  | _ => dSub (dMul gy v.w) v.y

/-- The vertex where an edge from an inside vertex p to an outside vertex q meets a plane. -/
def ClipVertex.cut (p q : ClipVertex) (dp dq : Nat) : ClipVertex :=
  let t := dDiv dp (dSub dp dq)
  let mix := fun (a b : Nat) => dAdd a (dMul t (dSub b a))
  let wide := fun (a : Nat) => (fCvt .d .h .rne a).1
  let half := fun (a b : Nat) =>
    (addFp .h .rne (.unpack .d (wide a)) (.unpack .d (dMul t (dSub (wide b) (wide a))))).1
  { x := mix p.x q.x, y := mix p.y q.y, z := mix p.z q.z, w := mix p.w q.w, mx := half p.mx q.mx, my := half p.my q.my }

/-- A polygon clipped against plane k. -/
def clipPlane (gx gy : Nat) (poly : List ClipVertex) (k : Nat) : List ClipVertex :=
  let next := poly.drop 1 ++ poly.take 1
  (poly.zip next).flatMap fun (e : ClipVertex × ClipVertex) =>
    let dp := e.1.dist gx gy k
    let dq := e.2.dist gx gy k
    let pin := dNonNeg dp
    let qin := dNonNeg dq
    (if pin then [e.1] else []) ++
      (if pin && !qin then [e.1.cut e.2 dp dq] else if qin && !pin then [e.2.cut e.1 dq dp] else [])

/-- A vertex on the screen: X, Y and Z; none: its triangle is dropped. -/
def ClipVertex.project (v : ClipVertex) (u : DistSetup) : Option (Nat × Nat × Nat) :=
  let wide := fun (a : BitVec 32) => (fCvt .d .s .rne a.toNat).1
  if !dNonNeg v.w || !dFinite v.w || (Fp.unpack .d v.w).isZero then none else
  let xn := dDiv v.x v.w
  let yn := dDiv v.y v.w
  let zn := dDiv v.z v.w
  let one := dInt 1
  let x := dAdd u.vx.toNat (dMul (dAdd xn one) (dDiv u.vw.toNat (dInt 2)))
  let y := dAdd u.vy.toNat (dMul (dSub one yn) (dDiv u.vh.toNat (dInt 2)))
  let z := (addFp .s .rne (.unpack .d (wide u.zmin)) (.unpack .d (dMul zn (dSub (wide u.zmax) (wide u.zmin))))).1
  let zok := match Fp.unpack .s z with
    | .fin _ _ _ => true
    | _ => false
  if dFinite x && dFinite y && zok then some (x, y, z) else none

/-- Binary64 values as integers over one power of two. -/
def common (xs : List Nat) : List Int × Int :=
  let vs := xs.map fun x => match Fp.unpack .d x with
    | .fin n m e => (n, m, e)
    | _ => (false, 0, 0)
  let e := vs.foldl (fun e v => min e v.2.2) ((vs.headD (false, 0, 0)).2.2)
  (vs.map fun v => sInt v.1 (v.2.1 <<< (v.2.2 - e).toNat), e)

/-- floor (z × 2^e / n). -/
def floorDiv (z e : Int) (n : Nat) : Int :=
  if 0 ≤ e then z * (2 ^ e.toNat : Nat) / (n : Int) else z / ((2 ^ (-e).toNat * n : Nat) : Int)

/-- A triangle with its screen positions, the sign of A and the tiles that its box meets, in ascending ty and then tx (R310);
none: dropped or culled. -/
def screenTri (u : DistSetup) (state prim : BitVec 32) (t : List ClipVertex) : Option ScreenTri :=
  let ps := t.map fun v => v.project u
  if ps.any fun p => p.isNone then none else
  let ps := ps.map fun p => p.getD (0, 0, 0)
  let xy := ps.flatMap fun p => [p.1, p.2.1]
  let (q, _) := common xy
  let c := fun k => q.getD k 0
  let a := (c 2 - c 0) * (c 5 - c 1) - (c 3 - c 1) * (c 4 - c 0)
  if a = 0 || (decide (a < 0) && u.cullb) || (decide (0 < a) && u.cullf) then none else
    some { xy := xy.map (BitVec.ofNat 64), z := ps.map fun p => BitVec.ofNat 32 p.2.2,
           m := t.flatMap fun v => [BitVec.ofNat 16 v.mx, BitVec.ofNat 16 v.my], state := state,
           prim := if a < 0 then prim ||| 0x80000000 else prim }

/-- Tiles of a triangle in the target. -/
def ScreenTri.tiles (t : ScreenTri) (u : DistSetup) : List Nat :=
  let (q, e) := common (t.xy.map BitVec.toNat)
  let range := fun (l : List Int) (n : Nat) =>
    let lo := (max 0 (floorDiv (minOf l) e 64)).toNat
    let hi := min ((n : Int) - 1) (floorDiv (maxOf l) e 64)
    if hi < lo then [] else (List.range (hi.toNat + 1 - lo)).map (· + lo)
  let xs := range [q.getD 0 0, q.getD 2 0, q.getD 4 0] u.tw
  let ys := range [q.getD 1 0, q.getD 3 0, q.getD 5 0] u.th
  ys.flatMap fun y => xs.map fun x => tileKey x y

/-- The triangles of a primitive record, with how many were dropped or culled. -/
def primTris (u : DistSetup) (ws : List Word) : List ScreenTri × Nat :=
  let g := fun (v : Word) => dAdd (dInt 1) (dDiv (dInt (2 ^ 21)) v.toNat)
  let w := fun k => ws.getD k 0
  let mot := fun k => [((w 2).toNat, 0), ((w 2).toNat, 32), ((w 3).toNat, 0)].getD k (0, 0)
  let half := fun (k o : Nat) => ((mot k).1 >>> ((mot k).2 + o)) % 65536
  let vert := fun (k : Nat) => ({ x := (w (4 + 4 * k)).toNat, y := (w (5 + 4 * k)).toNat, z := (w (6 + 4 * k)).toNat,
                                  w := (w (7 + 4 * k)).toNat, mx := half k 0, my := half k 16 } : ClipVertex)
  let poly := (List.range 6).foldl (clipPlane (g u.vw) (g u.vh)) [vert 0, vert 1, vert 2]
  match poly with
  | [] => ([], 0)
  | v0 :: rest =>
    let tris := (rest.zip (rest.drop 1)).map fun e =>
      screenTri u ((w 1).extractLsb' 32 32) ((w 1).setWidth 32) [v0, e.1, e.2]
    (tris.filterMap id, (tris.filter fun t => t.isNone).length)

/-! ## Binning (R310-R312) -/

/-- The 80 bytes of an entry (Table 13.5). -/
def ScreenTri.entry (t : ScreenTri) : List Byte :=
  let z := fun k => (t.z.getD k 0).toNat
  let m := fun k => (t.m.getD k 0).toNat
  let ws := t.xy.map BitVec.toNat ++
    [z 0 + z 1 * 2 ^ 32, z 2 + m 0 * 2 ^ 32 + m 1 * 2 ^ 48, m 2 + m 3 * 2 ^ 16 + m 4 * 2 ^ 32 + m 5 * 2 ^ 48,
     t.prim.toNat + t.state.toNat * 2 ^ 32]
  ws.flatMap (leBytes 8)

/-- Bytes that the distributor writes to a chunk; bytes that a fault keeps from it are not written
(notes/assumptions/51.md). -/
def State.distWrite (s : State) (die vi a : Nat) (bs : List Byte) : State :=
  (s.devWrite (s.agentWho die vi) (BitVec.ofNat 64 a) bs).getD s

/-- A free chunk taken for a tile whose chunks so far are given: any of them. -/
def State.newChunk (s : State) (die vi : Nat) (old : List Nat) : Option (Nat × State) :=
  let free := (s.dist die vi).freeChunks
  if free.isEmpty then none else
    let (f, s) := s.draw
    let a := free.getD ((Config.freeWord f).toNat % free.length) 0
    let s := s.distWrite die vi a (leBytes 64 (2 ^ 64))
    let s := s.distWrite die vi (a + 0xFE0) (List.replicate 32 0)
    match old.getLast? with
    | none => some (a, s)
    | some p => some (a, s.distWrite die vi p (leBytes 8 a))

/-- A triangle's entry appended to a tile; none: no chunk is free. -/
def State.binTile (s : State) (die vi : Nat) (t : ScreenTri) (key : Nat) : Option State :=
  let l := tget { chunks := [], entries := 0 } (s.dist die vi).tiles key
  let place := if l.entries % 50 = 0 then (s.newChunk die vi l.chunks).map fun r => (l.chunks ++ [r.1], r.2)
    else some (l.chunks, s)
  match place with
  | none => none
  | some (chunks, s) =>
    let a := chunks.getLastD 0
    let e := l.entries % 50
    let s := s.distWrite die vi (a + 0x40 + 80 * e) t.entry
    let s := s.distWrite die vi (a + 8) (leBytes 2 (e + 1))
    let d := s.dist die vi
    some (s.setDist die vi { d with tiles := tset d.tiles key { chunks := chunks, entries := l.entries + 1 } })

/-- A triangle binned into tiles; some n: no chunk was free at the n-th of them. -/
def State.binTiles (die vi : Nat) (t : ScreenTri) : Nat → List Nat → State → Option Nat × State
  | _, [], s => (none, s)
  | n, k :: ks, s =>
    match s.binTile die vi t k with
    | none => (some n, s)
    | some s => State.binTiles die vi t (n + 1) ks s

/-- Triangles binned, the first of them from its tile number skip. With no chunk free, the tiles that hold entries become
passes, and the rest waits (R312). -/
def State.binWork (die vi : Nat) (u : DistSetup) : Nat → List ScreenTri → State → State
  | _, [], s => s.setDist die vi { s.dist die vi with work := [], binned := 0 }
  | skip, t :: ts, s =>
    match State.binTiles die vi t skip ((t.tiles u).drop skip) s with
    | (none, s) => State.binWork die vi u 0 ts s
    | (some n, s) =>
      let s := s.setDist die vi { s.dist die vi with work := t :: ts, binned := n, stalled := true }
      s.flushDist die vi true

/-! ## Its records and events -/

/-- A unit that exists. -/
def agentOk (die vi : Nat) : Bool := die < 8 && vi < 128

/-- PRIMITIVE_RECORD: the first record of port 0x000 is no distributor command. -/
def execPrimitiveRecord (die vi : Nat) (s : State) : Out :=
  if !agentOk die vi then .fault .noSuchUnit else
  let d := s.dist die vi
  if d.busy then .next s else
  match (s.port die vi 0).recs with
  | [] => .next s
  | r :: rest =>
    let type := (recWord r.1 0).toNat % 256
    if type = 1 || type = 3 || type = 4 || type = 5 then .next s
    else if type ≠ 2 then .next (s.dropRecs die vi 0 type 1)
    else
      match rest with
      | [] => .next s
      | r2 :: _ =>
        let ws := (List.range 8).map (recWord r.1) ++ (List.range 8).map (recWord r2.1)
        let clean := (recWord r.1 0).toNat / 256 == 0 && !(recWord r.1 1).getLsbD 31 && (recWord r.1 3).toNat / 2 ^ 32 == 0
        match d.setup with
        | none => .next (s.dropRecs die vi 0 2 2)
        | some u =>
          if r.2 || r2.2 || !clean then .next (s.dropRecs die vi 0 2 2) else
            let (tris, n) := primTris u ws
            let s := (s.takeRecs die vi 0 2).setDist die vi { d with culled := d.culled + n }
            .next (State.binWork die vi u 0 tris s)

/-- The setup of Table 13.3, when it is valid (R307). -/
def distSetup (r : BitVec 512) : Option DistSetup :=
  let w := recWord r
  let u : DistSetup :=
    { vh := w 7, vw := w 6, vy := w 5, vx := w 4, zmax := (w 3).extractLsb' 32 32, zmin := (w 3).setWidth 32,
      chunks := (w 2).toNat % 2 ^ 32, base := w 1, th := bitsOf (w 0) 47 32, tw := bitsOf (w 0) 31 16,
      cullf := (w 0).getLsbD 9, cullb := (w 0).getLsbD 8 }
  let pos := fun (v : Word) => dFinite v.toNat && dNonNeg v.toNat && !(Fp.unpack .d v.toNat).isZero
  let fits := fun (a b : Word) (n : Nat) =>
    let (q, e) := common [a.toNat, b.toNat]
    let z := q.getD 0 0 + q.getD 1 0
    decide (if 0 ≤ e then z * (2 ^ e.toNat : Nat) ≤ (n : Int) else z ≤ ((n * 2 ^ (-e).toNat : Nat) : Int))
  let fin := fun (v : BitVec 32) => match Fp.unpack .s v.toNat with
    | .fin _ _ _ => true
    | _ => false
  let clean := bitsOf (w 0) 15 10 == 0 && bitsOf (w 0) 63 48 == 0 && bitsOf (w 2) 63 32 == 0
  let tiles := 1 ≤ u.tw && u.tw ≤ 1024 && 1 ≤ u.th && u.th ≤ 1024
  let view := pos u.vw && pos u.vh && dFinite u.vx.toNat && dFinite u.vy.toNat
  if clean && tiles && view && fits u.vx u.vw (64 * u.tw) && fits u.vy u.vh (64 * u.th) && fin u.zmin && fin u.zmax &&
      1 ≤ u.chunks && u.chunks ≤ 65536 && u.base.toNat % 4096 == 0 then some u else none

/-- The first record of port 0x000 when the distributor can take it and its TYPE is the one named. -/
def State.distHead (s : State) (die vi type : Nat) : Option (BitVec 512 × Bool) :=
  if (s.dist die vi).busy then none else
  match s.headOf die vi 0 with
  | some r => if (recWord r.1 0).toNat % 256 = type then some r else none
  | none => none

/-- DISTRIBUTOR_SETUP: a valid SETUP flushes, takes effect and reopens the tile queue (R307, R308). -/
def execDistributorSetup (die vi : Nat) (s : State) : Out :=
  if !agentOk die vi then .fault .noSuchUnit else
  match s.distHead die vi 1 with
  | none => .next s
  | some r =>
    match distSetup r.1, r.2 with
    | some u, false =>
      let s := (s.takeRecs die vi 0 1).flushDist die vi false
      let s := s.setDist die vi { s.dist die vi with setup := some u }
      let p := s.port die vi 1
      .next (s.setPort die vi 1 { p with closed := false })
    | _, _ => .next (s.dropRecs die vi 0 1 1)

/-- The record is a FLUSH or CLOSE with every reserved bit 0. -/
def plainCommand (r : BitVec 512 × Bool) : Bool := !r.2 && r.1.toNat / 256 == 0

/-- DISTRIBUTOR_FLUSH. -/
def execDistributorFlush (die vi : Nat) (s : State) : Out :=
  if !agentOk die vi then .fault .noSuchUnit else
  match s.distHead die vi 3 with
  | none => .next s
  | some r =>
    if plainCommand r then .next ((s.takeRecs die vi 0 1).flushDist die vi false) else .next (s.dropRecs die vi 0 3 1)

/-- DISTRIBUTOR_FENCE: flushes; its counter waits for every pass posted before it. -/
def execDistributorFence (die vi : Nat) (s : State) : Out :=
  if !agentOk die vi then .fault .noSuchUnit else
  match s.distHead die vi 4 with
  | none => .next s
  | some r =>
    let a := recWord r.1 1
    if r.2 || (recWord r.1 0).toNat / 256 != 0 || a.toNat % 8 != 0 || !recZero r.1 2 then .next (s.dropRecs die vi 0 4 1) else
      let s := (s.takeRecs die vi 0 1).flushDist die vi false
      let d := s.dist die vi
      .next (s.setDist die vi { d with fences := d.fences ++ [(a, d.passes.map Pass.tag)] })

/-- DISTRIBUTOR_FENCE_COUNT: the oldest fence's passes have completed, and 1 is added to its counter (R308, R328). -/
def execDistributorFenceCount (die vi : Nat) (s : State) : Out :=
  if !agentOk die vi then .fault .noSuchUnit else
  let d := s.dist die vi
  match d.fences with
  | (a, []) :: rest =>
    if !s.acked then .next s else
      .next ((s.setDist die vi { d with fences := rest }).addCounter die vi 0 a 1 (0x1000 + die) 0)
  | _ => .next s

/-- DISTRIBUTOR_CLOSE: flushes, and closes the tile queue once every pass is posted. -/
def execDistributorClose (die vi : Nat) (s : State) : Out :=
  if !agentOk die vi then .fault .noSuchUnit else
  match s.distHead die vi 5 with
  | none => .next s
  | some r =>
    if !plainCommand r then .next (s.dropRecs die vi 0 5 1) else
      let s := (s.takeRecs die vi 0 1).flushDist die vi false
      .next ((s.setDist die vi { s.dist die vi with closing := true }).closeTiles die vi)

/-- BUFFER_FULL_RESUME: the passes that a full buffer posted have completed, and binning goes on where it stopped (R312). -/
def execBufferFullResume (die vi : Nat) (s : State) : Out :=
  if !agentOk die vi then .fault .noSuchUnit else
  let d := s.dist die vi
  match d.setup with
  | none => .next s
  | some u =>
    if !d.stalled || (d.passes.any Pass.flushed) || d.freeChunks.isEmpty then .next s else
      .next (State.binWork die vi u d.binned d.work (s.setDist die vi { d with stalled := false }))

/-- TILE_POST: the record of a tile's oldest pass is written to port 0x001 (R313). -/
def execTilePost (die vi tx ty : Nat) (s : State) : Out :=
  if !agentOk die vi then .fault .noSuchUnit else
  let d := s.dist die vi
  match d.passes.find? fun p => p.tx == tx && p.ty == ty with
  | none => .next s
  | some p =>
    if p.posted || 256 ≤ (s.port die vi 1).recs.length then .next s else
      let r := recOf [p.tag.toNat + (if p.flushed then 2 ^ 24 else 0) + tx * 2 ^ 32 + ty * 2 ^ 48, p.chunks.headD 0,
                      p.entries + p.chunks.length * 2 ^ 32]
      let s := s.giveRec die vi 1 r
      let ps := d.passes.map fun q => if q.tag == p.tag then { q with posted := true } else q
      .next ((s.setDist die vi { d with passes := ps }).closeTiles die vi)

/-- PASS_END: the first record of port 0x005 names the tickets of a pass (R314). -/
def execPassEnd (die vi : Nat) (s : State) : Out :=
  if !agentOk die vi then .fault .noSuchUnit else
  match s.headOf die vi 5 with
  | none => .next s
  | some r =>
    let w := recWord r.1 0
    let tag : BitVec 24 := w.setWidth 24
    let d := s.dist die vi
    let awaits := fun (p : Pass) => p.tag == tag && p.posted && p.tickets.isNone
    if r.2 || !recZero r.1 1 || bitsOf w 31 24 != 0 || !(d.passes.any awaits) then .next (s.dropRecs die vi 5 0 1) else
      let ps := d.passes.map fun p => if awaits p then { p with tickets := some (bitsOf w 63 32) } else p
      .next ((s.takeRecs die vi 5 1).setDist die vi (DistCtx.settle { d with passes := ps }))

end Sys2Proof.Machine
end

