-- ==== Sys2Proof/Machine/Blend.lean ====
section
/-! DEFINITION. The reprojection agent (spec/13_raster_shading.md R320-R323) and the blend units (R324-R328). -/

namespace Sys2Proof.Machine

open Sys2Proof

/-! ## Reprojection setup (R320) -/

/-- TYPE of a record of ports 0x002 and 0x004. -/
def recType (r : BitVec 512) : Nat := bitsOf (recWord r 0) 31 24

/-- The setup of Table 13.8, when it is valid. -/
def reprSetup (r : BitVec 512) : Option ReprSetup :=
  let w := recWord r
  let u : ReprSetup :=
    { refresh := bitsOf (w 4) 48 32, tol := (w 4).setWidth 32, height := bitsOf (w 3) 63 32, width := bitsOf (w 3) 31 0,
      next := w 2, prev := w 1, frame := (w 0).extractLsb' 32 32, enable := (w 0).getLsbD 8, maxAge := bitsOf (w 0) 7 0 }
  let tolOk := match Fp.unpack .s u.tol.toNat with
    | .nan _ => false
    | .inf n => !n
    | .fin n m _ => !n || m == 0
  if bitsOf (w 0) 23 9 == 0 && bitsOf (w 4) 63 49 == 0 && recZero r 5 && 1 ≤ u.width && u.width ≤ 65536 && 1 ≤ u.height &&
      u.height ≤ 65536 && u.prev.toNat % 32 == 0 && u.next.toNat % 32 == 0 && tolOk && u.refresh ≤ 0x10000 then some u
  else none

/-- REPROJECTION_SETUP. -/
def execReprojectionSetup (die vi : Nat) (s : State) : Out :=
  if !agentOk die vi then .fault .noSuchUnit else
  match s.headOf die vi 2 with
  | none => .next s
  | some r =>
    if recType r.1 ≠ 1 then .next s else
    match reprSetup r.1, r.2 with
    | some u, false => .next ((s.takeRecs die vi 2 1).modDie die fun y => { y with repr := tset y.repr vi u })
    | _, _ => .next (s.dropRecs die vi 2 1 1)

/-! ## Target descriptors (R324) -/

/-- A target: BASE, width, height and format. -/
structure TargetDesc where
  base   : Word
  width  : Nat
  height : Nat
  fmt    : Bool
  deriving DecidableEq, Repr

/-- The descriptor of Table 13.12 in eight words; none: it breaks a limit. -/
def targetOf (bs : List Byte) : Option TargetDesc :=
  let r := BitVec.ofNat 512 (leNat bs)
  let w := recWord r
  if recZero r 2 && bitsOf (w 1) 63 33 == 0 && (w 0).toNat % 128 == 0 then
    some { base := w 0, width := bitsOf (w 1) 15 0 + 1, height := bitsOf (w 1) 31 16 + 1, fmt := (w 1).getLsbD 32 }
  else none

/-- The descriptor that an agent reads at an address. -/
def State.readTargetDesc (s : State) (die vi : Nat) (a : Word) : Option TargetDesc × State :=
  let (bs, s) := s.devRead (s.agentWho die vi) a 64
  (bs.bind targetOf, s)

/-- The address of block (bx, by), when the array has it. -/
def TargetDesc.block (t : TargetDesc) (bx by_ : Nat) : Option Word :=
  let cols := (t.width + 3) / 4
  if bx < cols && by_ < (t.height + 3) / 4 then
    some (t.base + BitVec.ofNat 64 ((by_ * cols + bx) * (if t.fmt then 128 else 64)))
  else none

/-! ## The history test (R322) -/

/-- H (R322). -/
def hashOf (x y : Nat) (frame : BitVec 32) : Nat :=
  let v : BitVec 32 := BitVec.ofNat 32 x * 0x2C9F3B41 + BitVec.ofNat 32 y * 0x7A351D63 + frame * 0x1F2B8C95
  let v := v ^^^ (v >>> (15 : Nat))
  let v := v * 0x6C8E9CF5
  let v := v ^^^ (v >>> (13 : Nat))
  v.toNat / 65536

/-- |a − b| ≤ tol of binary32 values, exactly. -/
def depthNear (a b tol : Nat) : Bool :=
  match Fp.unpack .s a, Fp.unpack .s b with
  | .nan _, _ => false
  | _, .nan _ => false
  | .inf x, .inf y => x == y || (Fp.unpack .s tol == .inf false)
  | .inf _, _ => Fp.unpack .s tol == .inf false
  | _, .inf _ => Fp.unpack .s tol == .inf false
  | .fin n1 m1 e1, .fin n2 m2 e2 =>
    let (z, e) := addDy n1 m1 e1 (!n2) m2 e2
    cmpFp (.fin false z.natAbs e) (Fp.unpack .s tol) != .gt

/-- floor of a binary32, below n and not negative. -/
def floorBelow (a n : Nat) : Option Nat :=
  match Fp.unpack .s a with
  | .fin neg m e =>
    let z := floorDiv (sInt neg m) e 1
    if 0 ≤ z && z < (n : Int) then some z.toNat else none
  | _ => none

/-- What reading a history entry gives. -/
inductive History where
  | entry (bs : List Byte)
  | fault
  | ecc (pa : Nat)

/-- A 32-byte history entry read for an agent. -/
def State.readHistory (s : State) (die vi : Nat) (a : Word) : History × State :=
  let (r, s) := s.devXlate (s.agentWho die vi) .load a
  match r with
  | .error _ => (.fault, s)
  | .ok x =>
    let pa := x.page * 4096 + a.toNat % 4096
    match place pa with
    | .dram d =>
      let (g, s) := s.freshRead x.tag (.dram d) 32
      (if g.2 then .ecc pa else .entry g.1, s)
    | .host b h =>
      let (f, s) := s.draw
      if Config.freeBit f then (.fault, s) else
      let (g, s) := s.freshRead x.tag (.host b h) 32
      (.entry g.1, s)
    | _ => (.fault, s)

/-- The block that a request names: its records' words. -/
structure BlockReq where
  hd    : Nat → Word
  depth : Nat → Nat
  px    : Nat → Nat
  py    : Nat → Nat

/-- The request in four records. -/
def blockReq (r0 r1 r2 r3 : BitVec 512) : BlockReq :=
  let motion := r2.toNat + r3.toNat * 2 ^ 512
  { hd := recWord r0, depth := fun j => (r1.toNat >>> (32 * j)) % 2 ^ 32,
    px := fun j => (motion >>> (64 * j)) % 2 ^ 32, py := fun j => (motion >>> (64 * j + 32)) % 2 ^ 32 }

def BlockReq.cover (b : BlockReq) : BitVec 16 := (b.hd 0).setWidth 16
def BlockReq.op (b : BlockReq) : Nat := bitsOf (b.hd 0) 23 16
def BlockReq.objid (b : BlockReq) : Nat := bitsOf (b.hd 0) 63 32
def BlockReq.ticket (b : BlockReq) : BitVec 48 := (b.hd 1).setWidth 48
def BlockReq.blk (b : BlockReq) : Nat := bitsOf (b.hd 1) 23 16
def BlockReq.bx (b : BlockReq) : Nat := 16 * bitsOf (b.hd 5) 15 0 + b.blk % 16
def BlockReq.by_ (b : BlockReq) : Nat := 16 * bitsOf (b.hd 5) 31 16 + b.blk / 16

/-- The header breaks no limit of Table 13.10. -/
def blockClean (r : BitVec 512) : Bool :=
  bitsOf (recWord r 1) 63 48 == 0 && bitsOf (recWord r 5) 63 32 == 0 && recZero r 6 && bitsOf (recWord r 0) 23 16 ≤ 4

/-- The history of pixel j, when the agent accepts it: its entry. -/
def State.testPixel (s : State) (die vi : Nat) (u : ReprSetup) (b : BlockReq) (j : Nat) : Option (List Byte) × State :=
  let x := 4 * b.bx + j % 4
  let y := 4 * b.by_ + j / 4
  match u.enable, floorBelow (b.px j) u.width, floorBelow (b.py j) u.height with
  | true, some hx, some hy =>
    let a := u.prev + BitVec.ofNat 64 (32 * (u.width * hy + hx))
    let (h, s) := s.readHistory die vi a
    match h with
    | .fault => (none, s.agentErr die vi 2 a 0)
    | .ecc pa => (none, s.logErr die (some vi) 5 5 noHart (BitVec.ofNat 64 pa) 0)
    | .entry bs =>
      let w := fun k n => leNat ((bs.drop k).take n)
      let ok := depthNear (b.depth j) (w 8 4) u.tol.toNat && w 12 4 == b.objid && w 16 1 < u.maxAge &&
        u.refresh ≤ hashOf x y u.frame
      (if ok then some bs else none, s)
  | _, _, _ => (none, s)

/-- The pixels of a block tested in order. -/
def State.testBlock (s : State) (die vi : Nat) (u : ReprSetup) (b : BlockReq) : List Nat → List (Nat × List Byte) × State
  | [] => ([], s)
  | j :: js =>
    let (r, s) := s.testPixel die vi u b j
    let (rest, s) := s.testBlock die vi u b js
    (match r with
      | some bs => (j, bs) :: rest
      | none => rest, s)

/-- The NEXT entry of an accepted pixel that lies within the history. -/
def State.writeNext (s : State) (die vi : Nat) (u : ReprSetup) (b : BlockReq) (p : Nat × List Byte) : State :=
  let x := 4 * b.bx + p.1 % 4
  let y := 4 * b.by_ + p.1 / 4
  if u.width ≤ x || u.height ≤ y then s else
    let a := u.next + BitVec.ofNat 64 (32 * (u.width * y + x))
    let age := min (leNat ((p.2.drop 16).take 1) + 1) 255
    let bs := p.2.take 8 ++ leBytes 4 (b.depth p.1) ++ leBytes 4 b.objid ++ leBytes 8 age ++ leBytes 8 0
    match s.devWrite (s.agentWho die vi) a bs with
    | some s => s
    | none => s.agentErr die vi 2 a 0

/-- The slice home to a block; none when its address names no line of DRAM. -/
def State.blockHome (s : State) (die vi : Nat) (a : Word) : Option Nat × State :=
  let (r, s) := s.devXlate (s.agentWho die vi) .load a
  match r with
  | .error _ => (none, s)
  | .ok x =>
    match place (x.page * 4096 + a.toNat % 4096) with
    | .dram d => (some (homeSlice d), s)
    | _ => (none, s)

/-- BLOCK_REQUEST: the first records of port 0x002 are no setup (R321-R323). -/
def execBlockRequest (die vi : Nat) (s : State) : Out :=
  if !agentOk die vi then .fault .noSuchUnit else
  match (s.port die vi 2).recs with
  | [] => .next s
  | r :: rest =>
    let type := recType r.1
    if type = 1 then .next s
    else if type ≠ 2 then .next (s.dropRecs die vi 2 type 1)
    else
      match rest with
      | r1 :: r2 :: r3 :: _ =>
        (match tfind (s.die die).repr vi with
        | none => .next (s.dropRecs die vi 2 2 4)
        | some u =>
          if r.2 || r1.2 || r2.2 || r3.2 || !blockClean r.1 then .next (s.dropRecs die vi 2 2 4) else
          let b := blockReq r.1 r1.1 r2.1 r3.1
          let s0 := s
          let (desc, s) := s.readTargetDesc die vi (b.hd 2)
          let block := desc.bind fun t => t.block b.bx b.by_
          let s := if block.isSome then s else s.agentErr die vi 2 2 (b.hd 0)
          let (home, s) := match block with
            | some a => s.blockHome die vi a
            | none => (none, s)
          let unit_ := home.getD (64 * die)
          if (s.slice unit_).blend.any fun t => t.vi == vi && t.ticket == b.ticket then .next (s.dropRecs die vi 2 2 4)
          else if 256 ≤ (s.slice unit_).blend.length then .next s0 else
          let pixels := (List.range 16).filter fun j => b.cover.getLsbD j
          let (acc, s) := s.testBlock die vi u b pixels
          let accMask := acc.foldl (fun (m : BitVec 16) p => m ||| BitVec.ofNat 16 (2 ^ p.1)) 0
          let rej := b.cover &&& ~~~accMask
          if rej ≠ 0 && 4096 ≤ (s.port die vi 3).recs.length then .next s0 else
          let frag := recOf [rej.toNat + b.op * 2 ^ 16 + b.objid * 2 ^ 32, b.ticket.toNat, (b.hd 2).toNat, (b.hd 3).toNat,
                             (b.hd 4).toNat, b.cover.toNat]
          let s := s.takeRecs die vi 2 4
          let s := if rej = 0 then s else s.giveRec die vi 3 frag
          let s := acc.foldl (fun s p => s.writeNext die vi u b p) s
          let colour := fun (j : Nat) => match acc.find? fun p => p.1 == j with
            | some p => BitVec.ofNat 64 (leNat (p.2.take 8))
            | none => 0
          let part : TicketPart := { mask := accMask, op := b.op, colours := (List.range 16).map colour }
          let t : Ticket := { vi := vi, ticket := b.ticket, block := block, fmt := (desc.map TargetDesc.fmt).getD false,
                              rej := rej, agent := part, shader := none }
          .next (s.modSlice unit_ fun y => { y with blend := y.blend ++ [t] }))
      | _ => .next s

/-! ## Blend requests (R325) -/

/-- The slice whose blend unit holds a pending ticket. -/
def State.ticketUnit (s : State) (vi : Nat) (ticket : BitVec 48) : Option (Nat × Ticket) :=
  s.slices.findSome? fun e => (e.2.blend.find? fun t => t.vi == vi && t.ticket == ticket).map fun t => (e.1, t)

/-- BLEND_REQUEST: a shader's part fills the entry of its ticket. -/
def execBlendRequest (die vi : Nat) (s : State) : Out :=
  if !agentOk die vi then .fault .noSuchUnit else
  match (s.port die vi 4).recs with
  | [] => .next s
  | r :: rest =>
    let type := recType r.1
    if type ≠ 2 then .next (s.dropRecs die vi 4 type 1) else
    let w := recWord r.1
    let fmt := (w 0).getLsbD 32
    let n := if fmt then 2 else 1
    if rest.length < n then .next s else
    let data := rest.take n
    let op := bitsOf (w 0) 23 16
    let clean := bitsOf (w 0) 63 33 == 0 && bitsOf (w 1) 63 48 == 0 && recZero r.1 3 && op ≤ 4
    let drop := Host.Outcome.next (s.dropRecs die vi 4 2 (n + 1))
    if r.2 || (data.any Prod.snd) || !clean then drop else
    match s.ticketUnit vi ((w 1).setWidth 48) with
    | none => drop
    | some (unit_, t) =>
      if t.shader.isSome then drop else
      let (desc, s) := s.readTargetDesc die vi (w 2)
      let bad := desc.isNone || t.fmt != fmt
      let s := if bad then s.agentErr die vi 2 (BitVec.ofNat 64 4) (w 0) else s
      let all := data.foldr (fun (x : BitVec 512 × Bool) v => x.1.toNat + v * 2 ^ 512) 0
      let size := if fmt then 64 else 32
      let part : TicketPart :=
        { mask := if bad || t.block.isNone then 0 else (w 0).setWidth 16 &&& t.rej, op := op,
          colours := (List.range 16).map fun j => BitVec.ofNat 64 ((all >>> (size * j)) % 2 ^ size) }
      let s := s.takeRecs die vi 4 (n + 1)
      .next (s.modSlice unit_ fun y => { y with blend := y.blend.map fun q =>
        if q.vi == vi && q.ticket == t.ticket then { q with shader := some part } else q })

/-! ## Blending (R327) -/

/-- round(clamp(c, 0, 1) × 255) of a binary16; a NaN is 0. -/
def unormOf (c : Nat) : Nat :=
  match Fp.unpack .h c with
  | .nan _ => 0
  | .inf n => if n then 0 else 255
  | .fin n m e =>
    if n then 0
    else if cmpFp (.fin false m e) (.fin false 1 0) != .lt then 255
    else (roundTo .rne false (m * 255) e false 0).1

/-- A component of an RGBA8 blend. -/
def blend8 (op s d a : Nat) : Nat :=
  match op with
  | 0 => s
  | 1 => min 255 (s + d)
  | 2 => min 255 (s + (d * (255 - a) + 127) / 255)
  | 3 => min s d
  | _ => max s d

/-- A component of an RGBA16F blend. -/
def blend16 (op s d a : Nat) : Nat :=
  match op with
  | 0 => s
  | 1 => (fAdd .h .rne s d).1
  | 2 =>
    let f := match Fp.unpack .h a with
      | .nan b => Fp.nan b
      | .inf n => .inf (!n)
      | .fin n m e =>
        let (z, q) := addDy false 1 0 (!n) m e
        .fin (decide (z < 0)) z.natAbs q
    match mulFp (Fp.unpack .h d) f with
    | none => FpK.nan .h
    | some p => (addFp .h .rne (Fp.unpack .h s) p).1
  | 3 => (fMinMax .h false s d).1
  | _ => (fMinMax .h true s d).1

/-- A pixel blended: source, destination. -/
def blendPixel (fmt : Bool) (op s d : Nat) : Nat :=
  let w := if fmt then 16 else 8
  let c := fun (v k : Nat) => (v >>> (w * k)) % 2 ^ w
  ((List.range 4).map fun k =>
    (if fmt then blend16 op (c s k) (c d k) (c s 3) else blend8 op (c s k) (c d k) (c s 3)) <<< (w * k)).foldl (· + ·) 0

/-- The agent's RGBA16F colour for a target's format. -/
def agentColour (fmt : Bool) (c : Nat) : Nat :=
  if fmt then c else ((List.range 4).map fun k => unormOf ((c >>> (16 * k)) % 65536) <<< (8 * k)).foldl (· + ·) 0

/-- Which part writes pixel j, with its operation and colour. -/
def Ticket.pixel (t : Ticket) (j : Nat) : Option (Nat × Nat) :=
  if t.agent.mask.getLsbD j then some (t.agent.op, agentColour t.fmt (t.agent.colours.getD j 0).toNat)
  else match t.shader with
    | some p => if p.mask.getLsbD j then some (p.op, (p.colours.getD j 0).toNat) else none
    | none => none

/-- The pixels of a ticket written to its block, at the home line. -/
def State.writeTicket (s : State) (die : Nat) (t : Ticket) : State :=
  match t.block with
  | none => s
  | some a =>
    let js := (List.range 16).filter fun j => (t.pixel j).isSome
    if js.isEmpty then s else
    let (r, s) := s.devXlate (s.agentWho die t.vi) .store a
    let bad := s.agentErr die t.vi 2 a 0
    match r with
    | .error _ => bad
    | .ok x =>
      match place (x.page * 4096 + a.toNat % 4096) with
      | .dram pa =>
        let n := if t.fmt then 8 else 4
        js.foldl (fun s j =>
          let (g, s) := s.freshRead x.tag (.dram (pa + n * j)) n
          match t.pixel j with
          | some (op, c) => s.homeWrite 0 x.tag (pa + n * j) (leBytes n (blendPixel t.fmt op c (leNat g.1))) none
          | none => s) s
      | _ => bad

/-- A ticket whose parts have all arrived. -/
def Ticket.complete (t : Ticket) : Bool := t.rej == 0 || t.shader.isSome

/-- The SEQ of a ticket's block that every lower one has committed before, at whatever blend unit; the die of its pass
keeps it. -/
def State.seqDue (s : State) (vi : Nat) (ticket : BitVec 48) : Nat :=
  tget 0 (s.die (ticket.toNat / 2 ^ 45)).nextSeq (vi * 2 ^ 32 + ticket.toNat / 65536)

/-- TICKET_COMMIT: the next ticket of its block commits, its entry is free, and the distributor of its pass is told (R326,
R328). -/
def execTicketCommit (slice vi : Nat) (ticket : BitVec 48) (s : State) : Out :=
  if 512 ≤ slice || 128 ≤ vi then .fault .noSuchUnit else
  match (s.slice slice).blend.find? fun t => t.vi == vi && t.ticket == ticket with
  | none => .next s
  | some t =>
    let seq := s.seqDue vi ticket
    if !t.complete || ticket.toNat % 65536 ≠ seq then .next s else
    let s := s.writeTicket (slice / 64) t
    let s := s.modSlice slice fun y => { y with blend := y.blend.filter fun q => !(q.vi == vi && q.ticket == ticket) }
    let tag : BitVec 24 := ticket.extractLsb' 24 24
    let die := tag.toNat / 2 ^ 21
    let s := s.modDie die fun y => { y with nextSeq := tset y.nextSeq (vi * 2 ^ 32 + ticket.toNat / 65536) (seq + 1) }
    let d := s.dist die vi
    let ps := d.passes.map fun p => if p.tag == tag then { p with commits := p.commits + 1 } else p
    .next (s.setDist die vi (DistCtx.settle { d with passes := ps }))

end Sys2Proof.Machine
end

