-- ==== Sys2Proof/Machine/Tree.lean ====
section
/-! DEFINITION. The tree of a generation (spec/16_rays.md R363, R368, R373): its boxes, how it is grown and grown again, what
a command shares of it, and the counters that follow from it. The nodes stand in the order of their numbers, each before its
children, and a subtree is a run of them (notes/assumptions/100.md). -/

namespace Sys2Proof.Machine

open Sys2Proof

/-- A primitive of a generation. -/
inductive Prim where
  | tri (t : TriPrim)
  | inst (p : InstPrim)
  deriving DecidableEq, Repr

def Prim.index : Prim → Nat
  | .tri t => t.index
  | .inst p => p.index

/-- The primitives of a generation. -/
def Generation.prims (g : Generation) : List Prim := g.tris.map .tri ++ g.insts.map .inst

/-! ## Boxes -/

/-- The corners of a triangle, in units of 2^-149. -/
def TriPrim.corners (t : TriPrim) : List Vec3 :=
  (List.range 3).filterMap fun k =>
    fixVec .s (t.xyz.getD (3 * k) 0).toNat (t.xyz.getD (3 * k + 1) 0).toNat (t.xyz.getD (3 * k + 2) 0).toNat

/-- The least box about points: its lowest and its highest corner; none: there is no point. -/
def boxOf : List Vec3 → Option (Vec3 × Vec3)
  | [] => none
  | p :: ps => some (ps.foldl (fun b q =>
      ({ x := min b.1.x q.x, y := min b.1.y q.y, z := min b.1.z q.z },
       { x := max b.2.x q.x, y := max b.2.y q.y, z := max b.2.z q.z })) (p, p))

/-- A point of the child in the space of the instance, in units of 2^-1223. -/
def InstPrim.place (p : InstPrim) (v : Vec3) : Vec3 :=
  let row := fun (i : Nat) => p.at_ i 0 * v.x + p.at_ i 1 * v.y + p.at_ i 2 * v.z + p.at_ i 3 * 2 ^ 149
  { x := row 0, y := row 1, z := row 2 }

/-- The eight corners of a box. -/
def boxCorners (b : Vec3 × Vec3) : List Vec3 :=
  [b.1.x, b.2.x].flatMap fun x => [b.1.y, b.2.y].flatMap fun y => [b.1.z, b.2.z].map fun z => { x := x, y := y, z := z }

/-- The points that the box of a primitive holds: those of a triangle, or the box of the child bound to an instance. -/
def Vi.points (v : Vi) : Prim → List Vec3
  | .tri t => t.corners
  | .inst p =>
    match (v.as p.child.toNat).slotOf p.cgen with
    | none => []
    | some g => match boxOf (g.2.tris.flatMap TriPrim.corners) with
      | none => []
      | some b => (boxCorners b).map p.place

/-- Half the surface area of the least box about primitives. -/
def Vi.area (v : Vi) (ps : List Prim) : Nat :=
  match boxOf (ps.flatMap v.points) with
  | none => 0
  | some (a, b) =>
    let d := b.sub a
    (d.x * d.y + d.y * d.z + d.z * d.x).toNat

/-! ## Subtrees -/

abbrev Tree := List BNode

def Tree.node (t : Tree) (k : Nat) : BNode := t.getD k { size := 1, items := [], cost := 0, page := 0 }

/-- The subtree of node k, and the primitives in it. -/
def Tree.sub (t : Tree) (k : Nat) : Tree := (t.drop k).take (t.node k).size
def Tree.items (t : Tree) (k : Nat) : List Nat := (t.sub k).flatMap BNode.items

/-- The nodes that follow one another from node k on as siblings, before node e. -/
def Tree.siblings (t : Tree) (e : Nat) : Nat → Nat → List Nat
  | 0, _ => []
  | n + 1, k => if k < e then k :: t.siblings e n (k + max 1 (t.node k).size) else []

def Tree.kids (t : Tree) (k : Nat) : List Nat := t.siblings (k + (t.node k).size) t.length (k + 1)

def BNode.leaf (b : BNode) : Bool := b.size ≤ 1

/-! ## Counters (R373) -/

def Tree.depth (t : Tree) : Nat :=
  ((List.range t.length).map fun k => ((List.range (k + 1)).filter fun j => k < j + (t.node j).size).length).foldl max 0

def Tree.leaves (t : Tree) : Nat := (t.filter BNode.leaf).length

/-- The area of node k of a tree over primitives. -/
def Tree.areaAt (t : Tree) (v : Vi) (ps : List Prim) (k : Nat) : Nat :=
  let ids := t.items k
  v.area (ps.filter fun p => ids.contains p.index)

/-- The sum that SAH is, over the subtree of node k with its own area for A(root), in binary64; none: that area is 0. -/
def Tree.sahAt (t : Tree) (v : Vi) (ps : List Prim) (k : Nat) : Option Nat :=
  let root := t.areaAt v ps k
  if root = 0 then none else
    some ((List.range (t.sub k).length).foldl (fun acc j =>
      let b := t.node (k + j)
      let w := if b.leaf then b.items.length else 1
      (fAdd .d .rne acc (roundFrac .d (t.areaAt v ps (k + j) * w : Nat) root 0 false).1).1) 0)

/-- OVERLAP; none: there is no interior node with an area. -/
def Tree.overlap (t : Tree) (v : Vi) (ps : List Prim) : Option Nat :=
  let inner := (List.range t.length).filter fun k => !(t.node k).leaf
  let own := (inner.map (t.areaAt v ps)).sum
  let kids := (inner.map fun k => ((t.kids k).map (t.areaAt v ps)).sum).sum
  if own = 0 then none else some (roundFrac .s (kids : Nat) own 0 false).1

/-! ## Growing -/

/-- Primitives parted: those that a free choice of the builder gives one side stand together. -/
def sides (f n : Nat) (items : List Nat) : List (List Nat) :=
  (items.map (Config.treeSide f n)).eraseDups.map fun side => items.filter fun i => Config.treeSide f n i == side

/-- The subtree of node n that a command grows over primitives: a leaf where the builder parts them no more. -/
def grow (f : Nat) : Nat → Nat → List Nat → Tree
  | 0, _, items => [{ size := 1, items := items, cost := 0, page := 0 }]
  | fuel + 1, n, items =>
    let parts := sides f n items
    if parts.length < 2 then [{ size := 1, items := items, cost := 0, page := 0 }] else
      let kids := parts.foldl (fun acc p => acc ++ grow f fuel (n + 1 + acc.length) p) []
      { size := kids.length + 1, items := [], cost := 0, page := 0 } :: kids

/-- The subtree of node k as node n of a new tree: grown again where hit says so, kept elsewhere, each node with whether it is
a new one. A node over a new one is new. -/
def regrow (f : Nat) (t : Tree) (hit : Nat → Bool) : Nat → Nat → Nat → List (BNode × Bool)
  | 0, _, _ => []
  | fuel + 1, n, k =>
    if hit k then (grow f (t.items k).length n (t.items k)).map fun b => (b, true) else
      let kids := (t.kids k).foldl (fun acc j => acc ++ regrow f t hit fuel (n + 1 + acc.length) j) []
      ({ t.node k with size := kids.length + 1 }, kids.any Prod.snd) :: kids

/-- A tree of the same topology over what is left of its primitives: a node is new where one of its primitives changed. -/
def refit (t : Tree) (left changed : List Nat) : List (BNode × Bool) :=
  (List.range t.length).map fun k =>
    ({ t.node k with items := (t.node k).items.filter left.contains }, (t.items k).any changed.contains)

/-- Whether the cost of the subtree of node k, SAH's sum over it, exceeds RATIO times that at the last BUILD or REBALANCE. -/
def Tree.exceeds (t : Tree) (v : Vi) (ps : List Prim) (ratio k : Nat) : Bool :=
  match t.sahAt v ps k, mulFp (.unpack .s ratio) (.unpack .d (t.node k).cost) with
  | some c, some x => cmpFp (.unpack .d c) x == .gt
  | _, _ => false

/-- New nodes placed in the pages taken, in turn, so that each page holds one at least. -/
def inPages (pages : List Nat) (n : Nat) : Nat → List (BNode × Bool) → Tree
  | _, [] => []
  | j, (b, true) :: bs => { b with page := pages.getD (j * pages.length / n) 0 } :: inPages pages n (j + 1) bs
  | j, (b, false) :: bs => b :: inPages pages n j bs

end Sys2Proof.Machine
end

