-- ==== Sys2Proof/Machine/Builder.lean ====
section
/-! DEFINITION. The acceleration-structure builder (spec/16_rays.md R362-R373): reading its input, staging, publishing and
retiring generations, queries, and completion records. -/

namespace Sys2Proof.Machine

open Sys2Proof

/-! ## Commands (Table 16.2) -/

def BuildCmd.w (c : BuildCmd) (k : Nat) : Word := c.words.getD k 0
def BuildCmd.op (c : BuildCmd) : Nat := bitsOf (c.w 0) 7 0
def BuildCmd.degfault (c : BuildCmd) : Bool := (c.w 0).getLsbD 8
def BuildCmd.usecur (c : BuildCmd) : Bool := (c.w 0).getLsbD 9
def BuildCmd.as_ (c : BuildCmd) : Nat := bitsOf (c.w 0) 27 16
def BuildCmd.gen (c : BuildCmd) : BitVec 16 := (c.w 0).extractLsb' 32 16
def BuildCmd.crec (c : BuildCmd) : Word := c.w 1
def BuildCmd.input (c : BuildCmd) : Word := c.w 2
def BuildCmd.index (c : BuildCmd) : Word := c.w 3
def BuildCmd.count (c : BuildCmd) : Nat := bitsOf (c.w 4) 31 0
def BuildCmd.vstride (c : BuildCmd) : Nat := bitsOf (c.w 4) 63 32
def BuildCmd.opq (c : BuildCmd) : Bool := (c.w 5).getLsbD 0
def BuildCmd.ratio (c : BuildCmd) : Nat := bitsOf (c.w 5) 63 32
def BuildCmd.user (c : BuildCmd) : Word := c.w 6
def BuildCmd.vcount (c : BuildCmd) : Nat := bitsOf (c.w 7) 31 0

/-- No reserved bit is set. -/
def BuildCmd.clean (c : BuildCmd) : Bool :=
  bitsOf (c.w 0) 63 48 == 0 && bitsOf (c.w 0) 31 28 == 0 && bitsOf (c.w 0) 15 10 == 0 && bitsOf (c.w 5) 31 1 == 0 &&
    bitsOf (c.w 7) 63 32 == 0

/-- Fields that the OP does not use are 0, and those it uses are within their limits, for an entry of a kind (R367). -/
def BuildCmd.fieldsOk (c : BuildCmd) (kind : Bool) : Bool :=
  let reads := c.op == 1 || c.op == 2
  let tri := reads && !kind
  let src := c.op == 2 || c.op == 3 || c.op == 5 || c.op == 6
  let ratioOk := match Fp.unpack .s c.ratio with
    | .nan _ => false
    | v => v.isZero || cmpFp v (.fin false 1 0) != .lt
  (src || (!c.usecur && c.gen == 0)) && (reads || !c.degfault) &&
    (if reads then 1 ≤ c.count && c.count ≤ 2 ^ 28 else if c.op == 6 then c.count ≤ 2 ^ 28 else c.count == 0) &&
    (if reads then !kind || c.input.toNat % 128 == 0 else c.input == 0) &&
    (if tri then c.vstride % 4 == 0 && 12 ≤ c.vstride && c.index.toNat % 4 == 0
     else c.vstride == 0 && c.index == 0 && c.vcount == 0 && !c.opq) &&
    (if c.op == 3 then ratioOk else c.ratio == 0)

/-- For whom the builder reads and writes: the address space of the hart that sent the command. -/
def State.builderWho (s : State) (die vi : Nat) (c : BuildCmd) : Who :=
  { s.agentWho die vi with space := c.space }

/-! ## Input (R369, R370) -/

/-- n bytes of input; an error says PAGE or DATA. -/
def State.readIn (s : State) (w : Who) (a : Word) : Nat → Except Nat (List Byte) × State
  | 0 => (.ok [], s)
  | n + 1 =>
    let (r, s) := s.readIn w a n
    match r with
    | .error e => (.error e, s)
    | .ok bs =>
      let at_ := a + BitVec.ofNat 64 n
      let (x, s) := s.devXlate w .load at_
      match x with
      | .error c => (.error (if c == .dataEcc then 8 else 7), s)
      | .ok x =>
        let p := place (x.page * 4096 + at_.toNat % 4096)
        match p with
        | .dram _ | .host _ _ =>
          if p.onHost && s.cutOff w.vi.toNat then (.error 7, s) else
          let (g, s) := s.freshRead x.tag p 1
          (if g.2 then .error 8 else .ok (bs ++ g.1), s)
        | _ => (.error 7, s)

/-- Words of n bytes, at the addresses given; an error has its code and address. -/
def State.readWords (s : State) (w : Who) (n : Nat) : List Word → Except (Nat × Word) (List Nat) × State
  | [] => (.ok [], s)
  | a :: as =>
    let (r, s) := s.readIn w a n
    match r with
    | .error e => (.error (e, a), s)
    | .ok bs =>
      let (r, s) := s.readWords w n as
      match r with
      | .error e => (.error e, s)
      | .ok vs => (.ok (leNat bs :: vs), s)

/-- Triangle k of the input; none: degenerate. -/
def State.readTri (s : State) (w : Who) (c : BuildCmd) (k : Nat) : Except (Nat × Word) (Option Prim) × State :=
  let (r, s) := if c.index == 0 then (.ok [3 * k, 3 * k + 1, 3 * k + 2], s)
    else s.readWords w 4 ((List.range 3).map fun j => c.index + BitVec.ofNat 64 (12 * k + 4 * j))
  match r with
  | .error e => (.error e, s)
  | .ok ids =>
    if ids.any fun v => c.vcount ≤ v then (.ok none, s) else
    let (r, s) := s.readWords w 4 (ids.flatMap fun v => (List.range 3).map fun j => c.input + BitVec.ofNat 64 (v * c.vstride + 4 * j))
    match r with
    | .error e => (.error e, s)
    | .ok xs =>
      let p := fun (j : Nat) => fixVec .s (xs.getD (3 * j) 0) (xs.getD (3 * j + 1) 0) (xs.getD (3 * j + 2) 0)
      match p 0, p 1, p 2 with
      | some v0, some v1, some v2 =>
        let n := (v1.sub v0).cross (v2.sub v0)
        if n == { x := 0, y := 0, z := 0 } then (.ok none, s)
        else (.ok (some (.tri { index := k, xyz := xs.map (BitVec.ofNat 32) })), s)
      | _, _, _ => (.ok none, s)

/-- Instance k of the input, bound to its child's CURRENT generation (R365); none: degenerate. -/
def State.readInst (s : State) (w : Who) (c : BuildCmd) (k : Nat) : Except (Nat × Word) (Option Prim) × State :=
  let (r, s) := s.readWords w 8 ((List.range 16).map fun j => c.input + BitVec.ofNat 64 (128 * k + 8 * j))
  match r with
  | .error e => (.error e, s)
  | .ok xs =>
    let h := BitVec.ofNat 64 (xs.getD 12 0)
    let child := bitsOf h 11 0
    let e := (s.vi w.vi.toNat).as child
    let p : InstPrim :=
      { index := k, t := (xs.take 12).map (BitVec.ofNat 64), iid := h.extractLsb' 32 32, flip := h.getLsbD 26,
        nocull := h.getLsbD 25, fopaque := h.getLsbD 24, mask := h.extractLsb' 16 8, child := BitVec.ofNat 12 child,
        cgen := e.cur }
    let clean := bitsOf h 31 27 == 0 && bitsOf h 15 12 == 0 && (xs.drop 13).all (· == 0)
    let finite := (xs.take 12).all fun x => (fixInt .d x).isSome
    (.ok (if clean && finite && p.det != 0 && e.v && !e.kind && e.hascur then some (.inst p) else none), s)

/-- Primitives read in ascending index, with the number dropped; an error has its status, DEGEN and address. -/
def State.gather (w : Who) (c : BuildCmd) (kind : Bool) :
    List Nat → List Prim → Nat → State → Except (Nat × Nat × Word) (List Prim × Nat) × State
  | [], ps, n, s => (.ok (ps.reverse, n), s)
  | k :: ks, ps, n, s =>
    let (r, s) := if kind then s.readInst w c k else s.readTri w c k
    match r with
    | .error (e, a) => (.error (e, n, a), s)
    | .ok none => if c.degfault then (.error (2, k, 0), s) else State.gather w c kind ks ps (n + 1) s
    | .ok (some p) => State.gather w c kind ks (p :: ps) n s

/-! ## Staging (R362, R363, R371) -/

/-- What a command that has ended reports. -/
structure BuildEnd where
  status : Nat
  gen    : Option (BitVec 16) := none
  degen  : Nat := 0
  pages  : Nat := 0
  tree   : Option Generation := none
  nodes  : Nat := 0
  fault  : Word := 0

/-- The largest number of pages that a BUILD of so many items can need. -/
def pageEstimate (count : Nat) (kind : Bool) : Nat := max 1 (Config.treeEstimate count (if kind then 1 else 0)).toNat

/-- The number after g that no slot holds. -/
def AsEntry.after (e : AsEntry) (g : BitVec 16) : BitVec 16 :=
  let held := e.slots.map fun x => x.2.gen
  ((List.range 6).map fun k => g + BitVec.ofNat 16 (k + 1)).find? (fun n => !held.contains n) |>.getD (g + 1)

/-- Nodes written into pages, through their home slices (R363): what they hold is not architected. -/
def State.writeNodes (s : State) (f : Nat) (pages : List Nat) : State :=
  (pages.flatMap fun p => (List.range 32).map fun k => p * 4096 + 128 * k).foldl (fun s a => match place a with
    | .dram a => s.homeWrite 0 none a ((List.range 128).map fun j => Config.freeByte f (a + j)) none
    | _ => s) s

/-- The address of a root node in one of the pages of a generation: its place is not architected. -/
def rootIn (f : Nat) (pages : List Nat) : Word :=
  let n := (Config.freeWord f).toNat
  BitVec.ofNat 64 (pages.getD (n % pages.length) 0 * 4096 + n / 2 ^ 32 % 32 * 128)

/-- The pages that so many new nodes of a command newly take: as many as the builder needs, one for each node at most. -/
def newPages (f count nodes : Nat) (kind : Bool) : Nat :=
  min nodes (min (max 1 (Config.treePages nodes f)) (pageEstimate count kind))

/-- The generation that a tree over its primitives makes, its new nodes in the pages taken: its root, when new, stands at a free
node place of its page, and its counters follow from the tree; a BUILD or REBALANCE sets the costs its lineage keeps. -/
def Generation.over (g : Generation) (v : Vi) (f : Nat) (pages : List Nat) (plan : List (BNode × Bool)) : Generation :=
  let t : Tree := inPages pages (plan.filter Prod.snd).length 0 plan
  let t : Tree := if g.fitted then t else t.zipIdx.map fun b => { b.1 with cost := (t.sahAt v g.prims b.2).getD 0 }
  let sah := match t.sahAt v g.prims 0 with
    | some x => BitVec.ofNat 32 (fCvt .s .d .rne x).1
    | none => Config.treeSah f
  let overlap := match t.overlap v g.prims with
    | some x => BitVec.ofNat 32 x
    | none => Config.treeOverlap f
  { g with nodes := t, pages := (t.map BNode.page).eraseDups, sah := sah, overlap := overlap, base := if g.fitted then g.base else sah,
           root := if (plan.head?.map Prod.snd).getD true then rootIn f [(t.node 0).page] else g.root, tree := f }

/-- A generation staged in slot 4: its new nodes are written into pages that nothing references, and it shares the others with its
source. plan grows its tree, by a fresh number. -/
def State.stage (s : State) (vi k : Nat) (g : Generation) (plan : Nat → List (BNode × Bool)) (degen : Nat) : BuildEnd × State :=
  let e := (s.vi vi).as k
  let (f, s) := s.draw
  let made := ((plan f).filter Prod.snd).length
  let need := newPages f g.count made e.kind
  let free := e.pool.filter fun p => !e.usedPages.contains p
  if free.length < need then ({ status := 1, pages := need - free.length, degen := degen }, s) else
    let g := { g.over (s.vi vi) f (free.take need) (plan f) with gen := e.nextgen, pins := 0 }
    let e1 := { e with slots := tset e.slots 4 g }
    let e1 := { e1 with nextgen := e1.after e.nextgen }
    let s := (s.writeNodes f (free.take need)).modVi vi fun v => (v.setAs k e1).pinChildren g.children
    ({ status := 0, gen := some g.gen, degen := degen, pages := need, tree := some g, nodes := made }, s)

/-- A generation of gathered primitives. -/
def newGeneration (ps : List Prim) (opq fitted : Bool) (count : Nat) : Generation :=
  { gen := 0, pins := 0, root := 0, sah := 0, overlap := 0, base := 0, nodes := [],
    tris := ps.filterMap fun p => match p with
      | .tri t => some t
      | _ => none,
    insts := ps.filterMap fun p => match p with
      | .inst i => some i
      | _ => none,
    opq := opq, count := count, pages := [], tree := 0, fitted := fitted }

/-- The source of a command (R368): CURRENT or OLD. -/
def AsEntry.source (e : AsEntry) (c : BuildCmd) : Option Generation :=
  if c.usecur then (if e.hascur then (e.slotOf e.cur).map Prod.snd else Option.none) else (e.slotOf c.gen).map Prod.snd

/-! ## Completion (R372) -/

/-- DRIFT and MEANPRIM of a tree (R373; notes/assumptions/100.md): DRIFT is 1.0 but for a REFIT. -/
def Generation.drift (g : Generation) : Nat := if g.fitted then (fDiv .s .rne g.sah.toNat g.base.toNat).1 else 0x3F800000
def Generation.meanPrim (g : Generation) : Nat :=
  (roundFrac .s ((g.nodes.map fun b => b.items.length).sum : Nat) (max 1 (Tree.leaves g.nodes)) 0 false).1

/-- The record of Table 16.5. -/
def BuildEnd.record (r : BuildEnd) (c : BuildCmd) (gen : BitVec 16) (poolFree : Nat) : List Byte :=
  let pair := fun (lo hi : Nat) => lo % 2 ^ 32 + hi * 2 ^ 32
  let t := fun (f : Generation → Nat) => match r.tree with
    | some g => f g
    | none => 0
  [r.status + gen.toNat * 2 ^ 16 + c.seq.toNat * 2 ^ 32, pair r.pages r.degen, pair (t fun g => g.sah.toNat) (t Generation.drift),
   (t fun g => Tree.leaves g.nodes % 2 ^ 32) + (t fun g => Tree.depth g.nodes % 2 ^ 16) * 2 ^ 32,
   pair (t Generation.meanPrim) (t fun g => g.overlap.toNat), pair r.nodes poolFree,
   r.fault.toNat, c.user.toNat].flatMap (leBytes 8)

/-- A command ends: it leaves the queue, its record is written, and the entry is free. -/
def State.endBuild (s : State) (die vi k : Nat) (c : BuildCmd) (r : BuildEnd) : State :=
  let s := s.modDie die fun y =>
    let q := tget { cmds := [], seq := 0 } y.builder vi
    { y with builder := tset y.builder vi { q with cmds := q.cmds.eraseIdx k } }
  let (f, s) := s.draw
  let gen := r.gen.getD ((Config.freeWord f).setWidth 16)
  let s := s.modVi vi fun v => if (v.as c.as_).busy.isSome then v.setAs c.as_ { v.as c.as_ with busy := none } else v
  let s := s.ackAll
  let bs := r.record c gen ((s.vi vi).as c.as_).poolFree
  match s.devWrite (s.builderWho die vi c) c.crec bs with
  | some s => s
  | none => s.logErr die (some vi) 4 r.status noHart c.crec (c.seq.setWidth 64)

/-- The k-th command of a queue, when it is next for its entry and its OP is among those named (R366). -/
def State.buildNext (s : State) (die vi k : Nat) (ops : Nat → Bool) : Option BuildCmd :=
  match (s.builderQ die vi).cmds[k]? with
  | none => none
  | some c =>
    let mine := match ((s.vi vi).as c.as_).busy with
      | none => true
      | some b => b == (die, c.seq)
    if ops c.op && mine && ((s.builderQ die vi).cmds.take k).all (fun d => d.as_ != c.as_) then some c else none

/-- A command performed: its own effect when no check of R367 and R368 ends it first. act answers none when it waits. -/
def State.build (s : State) (die vi k : Nat) (ops : Nat → Bool)
    (act : State → BuildCmd → AsEntry → Option BuildEnd × State) : Out :=
  if !agentOk die vi then .fault .noSuchUnit else
  match s.buildNext die vi k ops with
  | none => .next s
  | some c =>
    let e := (s.vi vi).as c.as_
    let stop := fun (status : Nat) => Host.Outcome.next (s.endBuild die vi k c { status := status })
    if !c.clean || c.op < 1 || 6 < c.op then stop 9
    else if !e.v then stop 3
    else if !c.fieldsOk e.kind then stop 9
    else if c.op ≤ 3 && (tfind e.slots 4).isSome then stop 5
    else
      match act s c e with
      | (some r, s) => .next (s.endBuild die vi k c r)
      | (none, s) => .next (s.modVi vi fun v => v.setAs c.as_ { v.as c.as_ with busy := some (die, c.seq) })

/-- BUILD. -/
def execBuild (die vi k : Nat) (s : State) : Out :=
  s.build die vi k (· == 1) fun s c e =>
    let (r, s) := State.gather (s.builderWho die vi c) c e.kind (List.range c.count) [] 0 s
    match r with
    | .error (status, degen, a) => (some { status := status, degen := degen, fault := a }, s)
    | .ok (ps, n) =>
      let ids := ps.map Prim.index
      let (r, s) := s.stage vi c.as_ (newGeneration ps c.opq false c.count)
        (fun f => (grow f ids.length 0 ids).map fun b => (b, true)) n
      (some r, s)

/-- REFIT. -/
def execRefit (die vi k : Nat) (s : State) : Out :=
  s.build die vi k (· == 2) fun s c e =>
    match e.source c with
    | none => (some { status := 4 }, s)
    | some g =>
      if c.count ≠ g.count then (some { status := 6 }, s) else
      let ids := if e.kind then g.insts.map fun p => p.index else g.tris.map fun p => p.index
      let (r, s) := State.gather (s.builderWho die vi c) c e.kind ids [] 0 s
      match r with
      | .error (status, degen, a) => (some { status := status, degen := degen, fault := a }, s)
      | .ok (ps, n) =>
        let changed := (g.prims.filter fun p => !ps.contains p).map Prim.index
        let (r, s) := s.stage vi c.as_ { newGeneration ps c.opq true c.count with base := g.base, root := g.root }
          (fun _ => refit g.nodes (ps.map Prim.index) changed) n
        (some r, s)

/-- REBALANCE: RATIO = 0 rebuilds all, and shares nothing; otherwise the highest subtrees that exceed it are rebuilt. -/
def execRebalance (die vi k : Nat) (s : State) : Out :=
  s.build die vi k (· == 3) fun s c e =>
    match e.source c with
    | none => (some { status := 4 }, s)
    | some g =>
      let all := c.ratio % 2 ^ 31 == 0
      let hit := fun k => all || Tree.exceeds g.nodes (s.vi vi) g.prims c.ratio k
      let (r, s) := s.stage vi c.as_ { g with fitted := false } (fun f => regrow f g.nodes hit g.nodes.length 0 0) 0
      (some r, s)

/-- PUBLISH: it waits while no live slot is free. -/
def execPublish (die vi k : Nat) (s : State) : Out :=
  s.build die vi k (· == 4) fun s c e =>
    match tfind e.slots 4 with
    | none => (some { status := 4 }, s)
    | some g =>
      let free := (List.range 4).filter fun i => (tfind e.slots i).isNone
      if free.isEmpty then (none, s) else
        let (f, s) := s.ackAll.draw
        let i := free.getD ((Config.freeWord f).toNat % free.length) 0
        let e1 := { e with slots := tset (tdel e.slots 4) i { g with pins := 0 }, cur := g.gen, hascur := true }
        (some { status := 0, gen := some g.gen }, s.modVi vi fun v => (v.setAs c.as_ e1).settle c.as_)

/-- A later command fails for want of its generation: the staged one is discarded (R362; notes/assumptions/100.md). -/
def State.failGen (s : State) (vi k : Nat) : Option BuildEnd × State :=
  let e := (s.vi vi).as k
  (some { status := 4 }, match tfind e.slots 4 with
    | none => s
    | some g => s.modVi vi fun v => (v.setAs k { e with slots := tdel e.slots 4 }).unpinChildren g.children)

/-- A live generation retired. -/
def State.retireLive (s : State) (vi k : Nat) (e : AsEntry) (n : BitVec 16) : Option BuildEnd × State :=
  if (e.slotOf n).isNone then s.failGen vi k
  else if e.isCurrent n then
    (some { status := 0, gen := some n }, s.modVi vi fun v => (v.setAs k { e with hascur := false }).settle k)
  else (some { status := 0, gen := some n }, s)

/-- RETIRE. -/
def execRetire (die vi k : Nat) (s : State) : Out :=
  s.build die vi k (· == 5) fun s c e =>
    let n := if c.usecur then e.cur else c.gen
    if c.usecur && !e.hascur then s.failGen vi c.as_ else
    match tfind e.slots 4 with
    | some g =>
      if g.gen == n then
        (some { status := 0, gen := some n },
          s.modVi vi fun v => (v.setAs c.as_ { e with slots := tdel e.slots 4 }).unpinChildren g.children)
      else s.retireLive vi c.as_ e n
    | none => s.retireLive vi c.as_ e n

/-- QUERY, and every OP that is invalid. -/
def execQuery (die vi k : Nat) (s : State) : Out :=
  s.build die vi k (fun op => op < 1 || 6 ≤ op) fun s c e =>
    match e.source c with
    | none => s.failGen vi c.as_
    | some g =>
      (some { status := 0, gen := some g.gen, pages := if c.count = 0 then 0 else pageEstimate c.count e.kind, tree := some g }, s)

end Sys2Proof.Machine
end

