-- ==== Sys2Proof/Machine/Remote.lean ====
section
/-! DEFINITION. Remote matrix commands at their target (spec/07_matrix_isa.md R178-R181) and the capabilities that they
carry (spec/15_tables.md R355). -/

namespace Sys2Proof.Machine

open Sys2Proof

/-! ## Capabilities (Table 07.5) -/

/-- The 48 bytes of a capability key. -/
def capKeyBytes (key : Nat) : List Byte := (List.range 48).map fun k => Config.freeByte key k

/-- CHECK of a capability (R355): bits [20:0] of the digest, its first byte lowest (notes/assumptions/60.md). -/
def capCheck (key : Nat) (cap : Word) : Nat :=
  leNat ((hmac384 (capKeyBytes key) (leBytes 8 (cap.toNat / 2 ^ 21 * 2 ^ 21))).take 3) % 2 ^ 21

/-- A capability issued. -/
def issueCap (key vi rights group serial : Nat) : Word :=
  let c := BitVec.ofNat 64 (vi * 2 ^ 57 + rights % 16 * 2 ^ 53 + group % 256 * 2 ^ 45 + serial * 2 ^ 21)
  c + BitVec.ofNat 64 (capCheck key c)

/-! ## The descriptor (Table 07.6) -/

def Mcmd.w (m : Mcmd) (k : Nat) : Word := m.desc.getD k 0
def Mcmd.op (m : Mcmd) : Nat := bitsOf (m.w 0) 7 0
def Mcmd.tile (m : Mcmd) : Nat := bitsOf (m.w 0) 10 8
def Mcmd.slot (m : Mcmd) : Nat := bitsOf (m.w 0) 13 12
def Mcmd.panel (m : Mcmd) : Nat := bitsOf (m.w 0) 19 16
def Mcmd.row0 (m : Mcmd) : Nat := bitsOf (m.w 0) 24 20
def Mcmd.scl (m : Mcmd) : Bool := (m.w 0).getLsbD 25
def Mcmd.fmt (m : Mcmd) : Nat := bitsOf (m.w 0) 29 28
def Mcmd.sat (m : Mcmd) : Bool := (m.w 0).getLsbD 30
def Mcmd.addr (m : Mcmd) : Word := m.w 1
def Mcmd.stride (m : Mcmd) : Word := m.w 2
def Mcmd.rows (m : Mcmd) : Nat := bitsOf (m.w 3) 5 0

/-- Check 5. -/
def Mcmd.valid (m : Mcmd) : Bool :=
  let w := m.w 0
  bitsOf w 63 31 == 0 && bitsOf w 27 26 == 0 && bitsOf w 15 14 == 0 && !w.getLsbD 11 && bitsOf (m.w 3) 63 6 == 0 &&
    m.w 4 == 0 && m.w 5 == 0 && m.w 6 == 0 && m.w 7 == 0 && m.op ≤ 4 && (!m.scl || (m.op == 3 && m.fmt == 0)) &&
    (if m.op == 1 || m.op == 2 || m.op == 3 then m.fmt ≤ 2 else true) &&
    (if m.op == 4 then m.fmt ≤ 1 && 1 ≤ m.rows && m.rows ≤ 32 && m.row0 + m.rows ≤ 32 else true)

/-- Checks 1 to 4. -/
def State.capAllows (s : State) (m : Mcmd) : Bool :=
  let v := s.vi m.vi.toNat
  let c := m.cap
  let right := if m.op = 0 then some 53 else if m.op = 1 || m.op = 3 then some 54 else if m.op = 2 then some 55
    else if m.op = 4 then some 56 else none
  let group : Byte := c.extractLsb' 45 8
  let held := match (s.matrix m.core).claim with
    | none => false
    | some q => q.vi == m.vi && s.tasks.any fun e =>
        e.2.core.st != .free && e.2.who.claim == q && e.2.sys.gslot.toList.any fun g => g.v && g.group == group
  bitsOf c 63 57 == m.vi.toNat && bitsOf c 20 0 == capCheck v.capKey c && v.serialfloor.toNat ≤ bitsOf c 44 21 &&
    (match right with
      | some b => c.getLsbD b
      | none => true) && held

/-! ## Performing a command -/

/-- For whom the target translates: the sender's space, at the target's core. -/
def Mcmd.who (m : Mcmd) : Who :=
  { vi := m.vi, space := m.space, mode := m.mode, core := m.core, hart := noHart, uid := 2 ^ 41 + m.id, pc := m.pc }

/-- The status of a fault (Table 07.7). -/
def faultStatus : Cause → Word
  | .loadPage => 0x10
  | .storePage => 0x11
  | .align => 0x13
  | .dataEcc => 0x20
  | .linkLost => 0x21
  | _ => 0x12

def poisonStatus (p : Poison) : Word := match p.cause with
  | .dataEcc => 0x20
  | .linkLost => 0x21

/-- The first poison among values. -/
def anyPoison (vs : List (Nat × Option Poison)) : Option Poison := vs.findSome? Prod.snd

/-- MCLR. -/
def State.doMclr (s : State) (m : Mcmd) : Word × State :=
  (0, s.modMatrix m.core fun x => x.putTile m.tile ((List.range 1024).map fun e => (e, 0, none)))

/-- MLD_T: nothing is written when a byte of it is poisoned. -/
def State.doMldT (s : State) (m : Mcmd) : Word × State :=
  let f := TFmt.ofBits (BitVec.ofNat 2 m.fmt)
  let st := tileStride m.stride f.size
  if m.addr.toNat % f.size ≠ 0 || st.toNat % f.size ≠ 0 then (0x13, s) else
  let w := m.who
  let (rs, s) := s.probePieces w false .load {} (tilePieces m.addr st f.size)
  match lowestFault rs with
  | some b => (faultStatus b.2.1, s)
  | none =>
    let (vs, s1) := s.readPieces w (targetsOf rs)
    match anyPoison vs with
    | some p => (poisonStatus p, s1)
    | none => (0, s1.modMatrix m.core fun x => x.putTile m.tile (vs.mapIdx fun e v => (e, (tileIn f v.1).1, none)))

/-- MST_T, under RNE. -/
def State.doMstT (s : State) (m : Mcmd) : Word × State :=
  let f := TFmt.ofBits (BitVec.ofNat 2 m.fmt)
  let st := tileStride m.stride f.size
  if m.addr.toNat % f.size ≠ 0 || st.toNat % f.size ≠ 0 then (0x13, s) else
  let w := m.who
  let (rs, s) := s.probePieces w false .store {} (tilePieces m.addr st f.size)
  match lowestFault rs with
  | some b => (faultStatus b.2.1, s)
  | none =>
    match (s.matrix m.core).tilePoison m.tile (List.range 1024) with
    | some (_, p) => (poisonStatus p, s)
    | none => (0, (s.storeTile w m.core m.tile f .rne m.sat (targetsOf rs)).2)

/-- MLD_W. -/
def State.doMldW (s : State) (m : Mcmd) : Word × State :=
  let f := WForm.ofBits (BitVec.ofNat 2 m.fmt)
  let st : Word := if f == .dense then m.stride else 0
  if !imageAligned f m.addr st then (0x13, s) else
  let w := m.who
  let (rs, s) := s.probePieces w false .load {} (imagePieces f m.scl m.addr st)
  match lowestFault rs with
  | some b => (faultStatus b.2.1, s)
  | none =>
    let (r, s) := s.readPanel w f m.scl (targetsOf rs)
    match r with
    | .error _ => (0x42, s)
    | .ok (_, (_, p) :: _) => (poisonStatus p, s)
    | .ok (v, []) => (0, s.modMatrix m.core fun x => x.putPanel m.slot m.panel v [])

/-- MMA16: rows of A from memory times a panel into rows of a tile. -/
def State.doMma16 (s : State) (m : Mcmd) : Word × State :=
  if m.addr.toNat % 2 ≠ 0 || m.stride.toNat % 2 ≠ 0 then (0x13, s) else
  let w := m.who
  let ps : List Piece := (List.range (32 * m.rows)).map fun e =>
    { addr := m.addr + BitVec.ofNat 64 (e / 32) * m.stride + BitVec.ofNat 64 (2 * (e % 32)), n := 2, elem := e }
  let (rs, s) := s.probePieces w false .load {} ps
  match lowestFault rs with
  | some b => (faultStatus b.2.1, s)
  | none =>
    let (vs, s) := s.readPieces w (targetsOf rs)
    let x := s.matrix m.core
    match anyPoison vs, x.tilePoison m.tile (List.range' (32 * m.row0) (32 * m.rows)), x.panelPoison m.slot m.panel 0x600 0xE00 with
    | some p, _, _ => (poisonStatus p, s)
    | none, some (_, p), _ => (poisonStatus p, s)
    | none, none, some p => (poisonStatus p, s)
    | none, none, none =>
      let k := if m.fmt = 0 then FpK.h else FpK.bf
      let row := fun (r : Nat) => (List.range 2).map fun b =>
        ({ scale := none, vals := (List.range 16).map fun j =>
            Fp.unpack k ((vs.map Prod.fst).getD (32 * r + 16 * b + j) 0) } : MGroup)
      let f : MFmt := if m.fmt = 0 then .h else .bf
      let cols := (List.range 32).map (panelGroups (s.core m.core) m.vi f (x.panel m.slot m.panel))
      let es := mmaTile m.sat (x.tile m.tile) m.row0 ((List.range m.rows).map row) cols
      (0, (s.putRows m.core m.tile es).2)

/-- The k-th command in flight performed at its target, when it has not been yet, its OP is among those named, and links that are
down leave it a way. -/
def State.remote (s : State) (k : Nat) (ops : Nat → Bool) (act : State → Mcmd → Word × State) : Out :=
  match s.net.mcmds[k]? with
  | none => .next s
  | some m =>
    if m.status.isSome || !ops m.op || (!m.past && (s.blocked (shortRoutes (dieOf m.hart) (dieOfCore m.core))).isSome) then .next s else
      let (st, s) := if !s.capAllows m then ((0x40 : Word), s) else if !m.valid then (0x42, s) else act s m
      .next { s with net := { s.net with mcmds := s.net.mcmds.set k { m with status := some st, past := false } } }

/-- REMOTE_MCLR, and the end of a command whose OP is invalid. -/
def execRemoteMclr (k : Nat) (s : State) : Out := s.remote k (fun op => op == 0 || 5 ≤ op) State.doMclr

/-- REMOTE_MLD_T. -/
def execRemoteMldT (k : Nat) (s : State) : Out := s.remote k (· == 1) State.doMldT

/-- REMOTE_MST_T. -/
def execRemoteMstT (k : Nat) (s : State) : Out := s.remote k (· == 2) State.doMstT

/-- REMOTE_MLD_W. -/
def execRemoteMldW (k : Nat) (s : State) : Out := s.remote k (· == 3) State.doMldW

/-- MMA16. -/
def execMma16 (k : Nat) (s : State) : Out := s.remote k (· == 4) State.doMma16

/-- MCMD_STATUS_ARRIVE: the k-th command's status reaches its hart, as an acquire of every byte the command stored whatever its
scope (R180, spec/08_memories.md R198); lost: a link that is down has lost the command, or its status, which comes in dimension
order (spec/12_engines_handlers.md R292, R298). -/
def execMcmdStatusArrive (k : Nat) (lost : Bool) (s : State) : Out :=
  match s.net.mcmds[k]? with
  | none => .next s
  | some m =>
    let gone := { s with net := { s.net with mcmds := s.net.mcmds.eraseIdx k } }
    let deliver := fun (s : State) (v : Word) =>
      let x := s.hart m.hart
      if x.who.uid ≠ m.uid || x.core.st == .free then s else
        (s.modHart m.hart fun x =>
          let x := (x.answer (.mcmd m.id) []).writeG m.dest v
          if m.trap && v == 0x40 then { x with caps := x.caps ++ [(m.dest.toNat, m.pc)] } else x).dropL1 (coreOf m.hart)
    let back := s.downOn (dimRoute (dieOfCore m.core) (dieOf m.hart))
    if lost then
      match if m.past then none else if m.status.isSome then back
          else (shortRoutes (dieOf m.hart) (dieOfCore m.core)).findSome? s.downOn with
      | none => .next s
      | some link => .next (deliver (gone.linkErr (gone.who m.hart) (m.core * 2 ^ 52) link) 0x21)
    else
      match m.status with
      | some v => if s.acked && (m.past || back.isNone) then .next (deliver gone v) else .next s
      | none => .next s

end Sys2Proof.Machine
end

