-- ==== Sys2Proof/Machine/Commands.lean ====
section
/-! DEFINITION. Command queues (spec/19_host_device.md R423-R427): reading records at a doorbell, the checks that every
command passes, and completion entries. A command acts when it is the first of its queue that has not completed. -/

namespace Sys2Proof.Machine

open Sys2Proof

/-- VIs 0 and 64 are the PFs (Table 19.1). -/
def isPf (v : Nat) : Bool := v % 64 == 0

/-! ## Queues -/

def Vi.cmdq (v : Vi) (k : Nat) : CmdQueue := (v.cmdqs.toList[k]?).getD CmdQueue.reset
def Vi.modCmdq (v : Vi) (k : Nat) (f : CmdQueue → CmdQueue) : Vi := { v with cmdqs := vmod v.cmdqs k f }

/-- LOGSIZE of CQBASE. -/
def CmdQueue.logsize (q : CmdQueue) : Nat := q.base.toNat % 64

/-- CQBASE names a ring: LOGSIZE is 4 to 12 (notes/assumptions/70.md). -/
def CmdQueue.ready (q : CmdQueue) : Bool := 4 ≤ q.logsize && q.logsize ≤ 12

/-- The address of the record of an index. -/
def CmdQueue.recordAt (q : CmdQueue) (j : Nat) : Word :=
  (q.base &&& ~~~ 63#64) + BitVec.ofNat 64 (64 * (j % 2 ^ q.logsize))

/-- The address of the completion entry that is written next. -/
def CmdQueue.entryAt (q : CmdQueue) : Word :=
  (q.cpl &&& ~~~ 15#64) + BitVec.ofNat 64 (16 * (q.done.toNat % 2 ^ q.logsize))

/-- PHASE of the completion entry that is written next: it starts at 1 and alternates at each lap. -/
def CmdQueue.phase (q : CmdQueue) : Nat := 1 - q.done.toNat / 2 ^ q.logsize % 2

/-- The opened command queues of a function: in recovery mode queue 0 of each PF only (R430). -/
def State.queueOpen (s : State) (vi cq : Nat) : Bool :=
  (s.vi vi).exists_ && s.fw.ready && (!s.fw.boot.recovery || (isPf vi && cq == 0))

/-! ## Records (Table 19.2, Table 19.4) -/

/-- The command that a record's words name, with its OP; none: OP is unknown. -/
def cmdOf (vi cq : Nat) (w : List Word) : Option (Nat × Cmd) :=
  let x := fun (k : Nat) => w.getD k 0
  let op := bitsOf (x 0) 7 0
  if op < 1 || 0x21 < op then none else
    some (op,
      { vi := vi, cq := cq, tvi := bitsOf (x 0) 38 32, tag := (x 0).extractLsb' 16 16,
        clean := bitsOf (x 0) 63 39 == 0 && bitsOf (x 0) 15 8 == 0 && x 7 == 0,
        a1 := x 1, a2 := x 2, a3 := x 3, a4 := x 4, a5 := x 5, a6 := x 6 })

/-- The record of an index as firmware reads it: one that names no command ends with BAD_CMD, one that cannot be read with
FAULT and a TAG that nothing fixes (notes/assumptions/70.md). -/
def State.readCmd (s : State) (vi cq j : Nat) : QCmd × State :=
  let (r, s) := s.bufRead vi (((s.vi vi).cmdq cq).recordAt j) 64
  match r with
  | none =>
    let (f, s) := s.draw
    ({ cmd := none, tag := (Config.freeWord f).setWidth 16, status := 3, begun := false, turn := s.fw.turns }, s)
  | some bs =>
    let w := wordsOf bs
    ({ cmd := cmdOf vi cq w, tag := (w.getD 0 0).extractLsb' 16 16, status := 1, begun := false, turn := s.fw.turns }, s)

/-- The first n records from an index on, appended to what the queue has to do. -/
def State.readCmds (s : State) (vi cq j : Nat) : Nat → State
  | 0 => s
  | n + 1 =>
    let s := s.readCmds vi cq j n
    let (q, s) := s.readCmd vi cq (j + n)
    let s := { s with fw := { s.fw with turns := s.fw.turns + 1 } }
    s.modVi vi fun v => v.modCmdq cq fun y => { y with todo := y.todo ++ [q] }

/-- COMMAND_DOORBELL: firmware reads the records up to a newer tail. -/
def execCommandDoorbell (vi cq : Nat) (tail : BitVec 32) (s : State) : Out :=
  if 128 ≤ vi || 4 ≤ cq then .fault .noSuchUnit else
  let q := (s.vi vi).cmdq cq
  if !(s.queueOpen vi cq && q.ready && (0#32).slt (tail - q.tail)) then .next s else
    let (ok, s) := s.heard vi
    if !ok then .next s else
    let s := s.readCmds vi cq q.head.toNat (tail - q.head).toNat
    .next (s.modVi vi fun v => v.modCmdq cq fun y => { y with head := tail, tail := tail })

/-- CQBASE_WRITE: the queue's indices start again, the completion ring's with them (notes/assumptions/70.md). -/
def execCqbaseWrite (vi cq : Nat) (v : Word) (s : State) : Out :=
  if 128 ≤ vi || 4 ≤ cq then .fault .noSuchUnit else
  if !(s.vi vi).exists_ then .next s else
    let (ok, s) := s.heard vi
    .next (if ok then s.modVi vi fun y => y.modCmdq cq fun q => { q with base := v, head := 0, tail := 0, done := 0 } else s)

/-! ## Completion (R424-R426) -/

/-- The first command of a queue completes: its entry is written as a release, and the MSI-X message follows. A RESULT that
Table 19.4 does not give is free. -/
def State.complete (s : State) (vi cq : Nat) (tag : BitVec 16) (status : Nat) (result : Option Word) : State :=
  let (f, s) := s.ackAll.draw
  let r := result.getD (Config.freeWord f)
  let q := (s.vi vi).cmdq cq
  let s := ((s.bufWrite vi q.entryAt
    (leBytes 8 (tag.toNat + status * 2 ^ 16 + q.phase * 2 ^ 63) ++ leBytes 8 r.toNat)).getD s.draw.2).ackAll
  let s := s.modVi vi fun v => v.modCmdq cq fun y => { y with done := y.done + 1, todo := y.todo.tail }
  let msix := if q.vector.getLsbD 5 then s.fw.msix ++ [(vi, q.vector.toNat % 32)] else s.fw.msix
  { s with fw := { s.fw with lastDone := some (vi, cq, tag, status, r), msix := msix } }

/-- The first record of a queue that names no command completes. -/
def State.endBad (s : State) (vi cq : Nat) : State :=
  match ((s.vi vi).cmdq cq).todo with
  | [] => s
  | q :: _ => if q.cmd.isSome then s else s.complete vi cq q.tag q.status none

/-! ## Order (R424) -/

/-- The objects that a command acts on: its kind (an ASID, a queue slot, a key slot, a template, an AS entry, a capability floor, a
module-wide setting), the VI it belongs to and its number. -/
def cmdObjects (op : Nat) (c : Cmd) : List (Nat × Nat × Nat) :=
  match op with
  | 0x03 | 0x04 => [(0, c.tvi, c.a3.toNat)]
  | 0x05 | 0x06 | 0x07 | 0x08 => [(0, c.tvi, c.a5.toNat)]
  | 0x09 | 0x0A => [(1, c.tvi, c.a1.toNat)]
  | 0x0B | 0x0C => [(2, 0, c.a1.toNat)]
  | 0x0D => (6, 0, 0) :: if c.a2.getLsbD 63 then [(1, c.tvi, bitsOf c.a2 7 0)] else []
  | 0x0F => [(3, c.tvi, c.a1.toNat)]
  | 0x10 => [(5, c.tvi, 0)]
  | 0x11 => [(4, c.tvi, c.a1.toNat)]
  | 0x0E | 0x12 | 0x1A | 0x1B | 0x20 => [(6, 0, 0)]
  | _ => []

/-- A command on one of some objects has reached firmware before a turn, and has not completed. -/
def State.outrun (s : State) (objects : List (Nat × Nat × Nat)) (turn : Nat) : Bool :=
  !objects.isEmpty && s.vis.any fun v => v.2.cmdqs.toList.any fun q => q.todo.any fun x => x.turn < turn && (match x.cmd with
    | some (op, d) => (cmdObjects op d).any fun o => objects.contains o
    | none => false)

/-! ## Commands -/

/-- How an attempt at a command ends: with a status, a RESULT and the state it leaves; or it waits. -/
inductive CmdEnd where
  | done (status : Nat) (result : Option Word) (s : State)
  | wait (s : State)

/-- What sort of command it is: wide, TVI may be any VI; pf, only a PF may issue it; safe, offered in recovery mode;
reset, it runs while ACTIVE = 0. -/
structure CmdSort where
  wide  : Bool := false
  pf    : Bool := false
  safe  : Bool := false
  reset : Bool := false

/-- BAD_CMD: a reserved bit, or a TVI that the function may not name (Table 19.2; notes/assumptions/71.md). -/
def State.cmdNames (s : State) (c : Cmd) (wide : Bool) : Bool :=
  c.clean && c.tvi < 128 &&
    (if isPf c.vi then wide || (c.tvi / 64 == c.vi / 64 && (s.vi c.tvi).exists_) else c.tvi == c.vi)

/-- The command of an OP at its turn. act is told whether it has begun before. -/
def State.command (s : State) (op : Nat) (c : Cmd) (k : CmdSort) (act : State → Bool → CmdEnd) : Out :=
  if 128 ≤ c.vi || 4 ≤ c.cq then .fault .noSuchUnit else
  match ((s.vi c.vi).cmdq c.cq).todo with
  | [] => .next s
  | q :: rest =>
    if q.cmd != some (op, c) then .next s else
    let fin := fun (status : Nat) (r : Option Word) (s : State) => Host.Outcome.next (s.complete c.vi c.cq c.tag status r)
    if !s.cmdNames c k.wide then fin 0x01 none s
    else if s.fw.boot.recovery && !k.safe then fin 0x0E none s
    else if k.pf && !isPf c.vi then fin 0x04 none s
    else if (!(s.vi c.vi).active || (!k.wide && !(s.vi c.tvi).active)) && !k.reset then .next s
    else if s.outrun (cmdObjects op c) q.turn then .next s
    else
      match act s q.begun with
      | .done status r t => fin status r t
      | .wait t => .next (t.modVi c.vi fun v => v.modCmdq c.cq fun y => { y with todo := { q with begun := true } :: rest })

/-- A command completes with a status other than DONE. -/
def CmdEnd.fail (s : State) (status : Nat) : CmdEnd := .done status none s

/-- A buffer read for a command: a buffer that cannot be read ends it with FAULT (R423). -/
def State.withBuf (s : State) (c : Cmd) (a : Word) (n : Nat) (k : List Byte → State → CmdEnd) : CmdEnd :=
  let (r, t) := s.bufRead c.vi a n
  match r with
  | none => .fail t 3
  | some bs => k bs t

/-- A command whose effect ends with a buffer written; a buffer that cannot be written ends it with FAULT. -/
def State.endBuf (s : State) (c : Cmd) (a : Word) (bs : List Byte) (r : Option Word) (k : State → State) : CmdEnd :=
  match s.bufWrite c.vi a bs with
  | none => .fail s.draw.2 3
  | some t => .done 0 r (k t)

end Sys2Proof.Machine
end

