-- ==== Sys2Proof/Machine/CmdSpace.lean ====
section
/-! DEFINITION. Commands on address spaces and memory (spec/19_host_device.md Table 19.4): CREATE_AS, DESTROY_AS, MAP, UNMAP,
MIGRATE, LOAD_CODE, ASSIGN_MEM and SET_POOL. -/

namespace Sys2Proof

/-- The level and space of A6 of MAP and UNMAP (spec/19_host_device.md R455). -/
def Cmd.level (c : Cmd) : Nat := Machine.bitsOf c.a6 1 0
def Cmd.inst (c : Cmd) : Bool := c.a6.getLsbD 8

end Sys2Proof

namespace Sys2Proof.Machine

open Sys2Proof

/-! ## Ranges of physical memory as locations (R428) -/

/-- Two lists of ranges share a byte. -/
def meets (xs ys : List (Nat × Nat)) : Bool := xs.any fun x => ys.any fun y => x.1 < y.2 && y.1 < x.2

/-- A pin that match stands on a line of the ranges. -/
def State.pinIn (s : State) (xs : List (Nat × Nat)) (p : Pin → Bool) : Bool :=
  s.phys.pins.any fun e => p e.2 && meets xs [(e.1 * 128, e.1 * 128 + 128)]

/-! ## The table pool (R458) -/

/-- The physical address of page k of the pool. -/
def Vi.poolPage (v : Vi) (k : Nat) : Nat := v.poolBase + 0x1000 * k

/-- The die-local number of a page of DRAM. -/
def localPage (pa : Nat) : Nat := match place pa with
  | .dram a => a / 0x1000
  | _ => 0

def Vi.poolFree (v : Vi) (k : Nat) : Bool := !v.poolUsed.any fun u => u.1 == localPage (v.poolPage k)

/-- A line written whole by firmware. -/
def State.putLine (s : State) (tag : LineTag) (p : Place) (bs : List Byte) (poison : Option Poison) : State :=
  match p with
  | .dram a => s.homeWrite 0 tag a bs poison
  | .host b a =>
    if b then { s with phys := { s.phys with hostB := s.phys.hostB.writeN a bs } }
    else { s with phys := { s.phys with hostA := s.phys.hostA.writeN a bs } }
  | _ => s

/-- A page of DRAM zeroed. -/
def State.zeroPage (s : State) (pa : Nat) : State :=
  (List.range 32).foldl (fun (s : State) k => s.putLine none (place (pa + 128 * k)) (List.replicate 128 0) none) s

/-- Pages of the pool taken, zeroed. -/
def State.takePages (s : State) (vi : Nat) (use : Option (BitVec 16)) (ks : List Nat) : State :=
  let v := s.vi vi
  let s := ks.foldl (fun (s : State) k => s.zeroPage (v.poolPage k)) s
  s.modVi vi fun y => { y with poolUsed := y.poolUsed ++ ks.map fun k => (localPage (v.poolPage k), use) }

/-- The highest free page of the pool taken: its physical address. -/
def State.takePage (s : State) (vi : Nat) (use : Option (BitVec 16)) : Option (Nat × State) :=
  let v := s.vi vi
  ((List.range (v.poolLen / 0x1000)).reverse.find? v.poolFree).map fun k => (v.poolPage k, s.takePages vi use [k])

/-- The lowest free unit of 2 MiB of the pool taken. -/
def State.takeUnit (s : State) (vi : Nat) : Option (Nat × State) :=
  let v := s.vi vi
  ((List.range (v.poolLen / 0x200000)).find? fun j => (List.range 512).all fun i => v.poolFree (512 * j + i)).map fun j =>
    (v.poolPage (512 * j), s.takePages vi none ((List.range 512).map fun i => 512 * j + i))

/-! ## Entries of a table -/

/-- The root of a space of a VI. -/
def State.rootOf (s : State) (vi : Nat) (asid : BitVec 16) (inst : Bool) : Nat :=
  ((s.whoVi vi asid).root inst).toNat * 4096

/-- An address space that CREATE_AS has made. -/
def State.hasSpace (s : State) (vi : Nat) (asid : Word) : Bool :=
  asid.toNat < 2 ^ 16 && (tfind (s.vi vi).spaces asid.toNat).isSome

/-- The address of the entry of a level for an address, n levels below the table at base. -/
def State.slotAt (s : State) (vi va lvl : Nat) : Nat → Nat → Option Nat
  | 0, base => some (base + 8 * walkIndex va lvl)
  | n + 1, base =>
    let e := s.physWord (base + 8 * walkIndex va (lvl + n + 1))
    if ebit e 0 && ebit e 1 && s.pointerOk vi e then s.slotAt vi va lvl n (eppn e * 4096) else none

/-- A valid leaf of a larger page, or a pointer that is malformed, stands on the way to a level. -/
def State.slotBlocked (s : State) (vi va lvl : Nat) : Nat → Nat → Bool
  | 0, _ => false
  | n + 1, base =>
    let e := s.physWord (base + 8 * walkIndex va (lvl + n + 1))
    ebit e 0 && (!(ebit e 1 && s.pointerOk vi e) || s.slotBlocked vi va lvl n (eppn e * 4096))

/-- The entry of a level for an address, the tables that miss taken from the pool; none: no page is free. -/
def State.makeSlot (vi : Nat) (asid : BitVec 16) (va lvl : Nat) : Nat → Nat → State → Option (Nat × State)
  | 0, base, s => some (base + 8 * walkIndex va lvl, s)
  | n + 1, base, s =>
    let at_ := base + 8 * walkIndex va (lvl + n + 1)
    let e := s.physWord at_
    if ebit e 0 then State.makeSlot vi asid va lvl n (eppn e * 4096) s else
      match s.takePage vi (some asid) with
      | none => none
      | some (p, s) => State.makeSlot vi asid va lvl n p (s.physWrite 0 at_ (leBytes 8 (p + 3)))

/-- Leaves (address and entry) written at a level; none: no page is free. The addresses whose entry was valid are told. -/
def State.putLeaves (vi : Nat) (asid : BitVec 16) (inst : Bool) (lvl : Nat) :
    List (Nat × Nat) → List Nat → State → Option (List Nat × State)
  | [], old, s => some (old, s)
  | (va, e) :: rest, old, s =>
    match State.makeSlot vi asid va lvl (4 - lvl) (s.rootOf vi asid inst) s with
    | none => none
    | some (at_, s) =>
      let old := if ebit (s.physWord at_) 0 then va :: old else old
      State.putLeaves vi asid inst lvl rest old (s.physWrite 0 at_ (leBytes 8 e))

/-- Pages from lo on meet the pages of n at some addresses. -/
def meetPages (n : Nat) (vas : List Nat) (lo len : Nat) : Bool := vas.any fun va =>
  let p := (va % 2 ^ 57) / 4096
  lo < p + n && p < lo + len

/-- TLBs and walker caches of a VI lose what they hold for pages of n at some addresses (R455). -/
def State.dropPages (s : State) (vi : Nat) (inst : Bool) (n : Nat) (vas : List Nat) : State :=
  if vas.isEmpty then s else
    s.dropTlb (fun t => t.vi.toNat == vi && t.inst == inst && meetPages n vas t.base t.pages)
      (fun e => e.vi.toNat == vi && e.inst == inst && meetPages n vas (e.index * 2 ^ (9 * e.level)) (2 ^ (9 * e.level)))

/-- An entry but for A and D. -/
def bareLeaf (e : Nat) : Nat := e - e / 128 % 4 * 128

/-- What a leaf says of every page of its group: neither A, D nor the page's place in the group. -/
def groupLeaf (e : Nat) : Nat := bareLeaf e - (if esz e = 1 then eppn e % 16 * 4096 else 0)

/-- The leaf that a VI's tables now hold for an address is not the one that an entry was filled from, or that of another page of
its group (spec/14_translation.md R337, R343). -/
def State.leafGone (s : State) (t : TlbEntry) (va : Nat) : Bool :=
  match (s.walk (s.whoVi t.vi.toNat t.asid) t.inst va false).1 with
  | .leaf _ _ e => groupLeaf e != groupLeaf t.leaf
  | _ => true

/-- The leaves of pages of n at some addresses have been changed: the command ends when no access holds a translation that
memory no longer gives (spec/14_translation.md R343, R344). -/
def State.endMapping (s : State) (c : Cmd) (inst : Bool) (n : Nat) (vas : List Nat) : CmdEnd :=
  if s.xlatHeld s.numbered fun t => t.vi.toNat == c.tvi && t.inst == inst &&
      (vas.filter fun va => meetPages n [va] t.base t.pages).any fun va => s.leafGone t va
  then .wait s else .done 0 none s

/-! ## CREATE_AS and DESTROY_AS -/

/-- The ASID is in use by a queue, a context or a saved context of the VI. -/
def State.spaceUsed (s : State) (vi : Nat) (asid : BitVec 16) : Bool :=
  (s.queues.any fun q => q.2.vi == vi && q.2.asid == asid) ||
    (s.tasks.any fun h => h.2.core.st != .free && h.2.who.vi.toNat == vi && h.2.sys.space.asid == asid) ||
    (s.vi vi).ctxs.any fun c => c.hart.sys.space.asid == asid

/-- CREATE_AS: roots lie in DRAM of the VI (spec/14_translation.md R334). -/
def execCreateAs (c : Cmd) (s : State) : Out :=
  s.command 0x03 c {} fun s _ =>
    let root := fun (a : Word) => a.toNat < 2 ^ 36 && s.ownsRange c.tvi (a.toNat * 4096) 4096
    if !(root c.a1 && root c.a2 && c.a3.toNat < 2 ^ 16) then .fail s 2
    else if s.hasSpace c.tvi c.a3 then .fail s 5
    else
      let asid : BitVec 16 := c.a3.setWidth 16
      let s := s.dropTlb (fun t => t.vi.toNat == c.tvi && !t.glob && t.asid == asid)
        (fun e => e.vi.toNat == c.tvi && e.asids.contains asid)
      .done 0 none (s.modVi c.tvi fun v =>
        { v with spaces := tset v.spaces asid.toNat { iroot := c.a2.setWidth 36, droot := c.a1.setWidth 36, asid := asid } })

/-- DESTROY_AS: it waits until nothing uses the space, or gives up with BUSY (notes/assumptions/80.md); its table pages return to
the pool. -/
def execDestroyAs (c : Cmd) (s : State) : Out :=
  s.command 0x04 c {} fun s _ =>
    let asid : BitVec 16 := c.a3.setWidth 16
    if !s.hasSpace c.tvi c.a3 then .fail s 2
    else if s.spaceUsed c.tvi asid then
      let (f, s) := s.draw
      if Config.freeBit f then .fail s 5 else .wait s
    else .done 0 none (s.modVi c.tvi fun v =>
      { v with spaces := tdel v.spaces asid.toNat, poolUsed := v.poolUsed.filter fun u => u.2 != some asid })

/-! ## MAP and UNMAP (R455) -/

/-- Bytes that a leaf of a level maps; an entry of a 64 KiB group is one page. -/
def levelBytes (lvl : Nat) : Nat := 4096 * 512 ^ lvl

/-- Addresses from va on that a command names are canonical and do not wrap. -/
def rangeOk (va : Word) (pages size : Nat) : Bool :=
  pages = 0 || (canonical va && va.toNat + pages * size ≤ 2 ^ 64 && canonical (BitVec.ofNat 64 (va.toNat + pages * size - 1)) &&
    va.toNat / 2 ^ 63 == (va.toNat + pages * size - 1) / 2 ^ 63)

/-- Limits that MAP and UNMAP share. -/
def State.spanOk (s : State) (c : Cmd) : Bool :=
  c.a6 &&& ~~~ 0x103#64 == 0 && c.level ≤ 2 && s.hasSpace c.tvi c.a5 && c.a1.toNat % levelBytes c.level = 0 &&
    rangeOk c.a1 c.a2.toNat (levelBytes c.level)

/-- Pages of the table that an object of A4 names, with its first byte. -/
def objectPages (vi : Nat) (a4 : Word) : Option (Nat × Nat) :=
  if a4 == 1 then some (qtBase vi, 4) else if a4 == 2 then some (astBase vi, 128) else none

/-- A page lies in the trace buffer of the VI. -/
def State.tracePage (s : State) (vi pa : Nat) : Bool :=
  match (s.vi vi).trace with
  | none => false
  | some t =>
    if t.buf.getLsbD 47 then
      (match place pa with
        | .host b a => b == viPort t.owner && t.buf.toNat % 2 ^ 46 ≤ a && a + 4096 ≤ t.buf.toNat % 2 ^ 46 + 2 ^ t.logb
        | _ => false)
    else (List.range (2 ^ t.logb / 4096)).any fun k =>
      match (s.walk (s.whoVi t.owner 0) false (t.buf.toNat + 4096 * k) false).1 with
      | .leaf lvl _ e => leafPage (t.buf.toNat + 4096 * k) lvl e == pa / 4096
      | _ => false

/-- The leaves that MAP writes. -/
def mapLeaves (c : Cmd) : List (Nat × Nat) :=
  let size := levelBytes c.level
  let e := c.a3.toNat
  let first := match objectPages c.tvi c.a4 with
    | some (base, _) => base / 4096
    | none => eppn e
  (List.range c.a2.toNat).map fun k =>
    (c.a1.toNat + k * size, e - eppn e * 4096 + (first + k * (size / 4096)) % 2 ^ 36 * 4096)

/-- MAP's limits on its object and template. -/
def State.mapOk (s : State) (c : Cmd) : Bool :=
  let e := c.a3.toNat
  let size := levelBytes c.level
  let group := c.level = 0 && esz e = 1
  ebit e 0 && c.a4.toNat ≤ 3 && (!group || (c.a1.toNat % 0x10000 = 0 && c.a2.toNat % 16 = 0 && eppn e % 16 = 0)) &&
    eppn e % (size / 4096) = 0 &&
    (match objectPages c.tvi c.a4 with
      | some (_, n) => eppn e = 0 && c.level = 0 && c.a2.toNat ≤ n && !ebit e 5 && ebit e 50
      | none => eppn e + c.a2.toNat * (size / 4096) ≤ 2 ^ 36) &&
    (mapLeaves c).all fun l => s.leafOk c.tvi c.inst c.level l.1 l.2 &&
      (c.a4 != 3 || (List.range (levelBytes c.level / 4096)).all fun j => s.tracePage c.tvi ((eppn l.2 + j) * 4096)) &&
      !s.slotBlocked c.tvi l.1 c.level (4 - c.level) (s.rootOf c.tvi (c.a5.setWidth 16) c.inst)

/-- MAP: a page with a line that another VI has pinned is refused as such, whosever it is (R208). -/
def execMap (c : Cmd) (s : State) : Out :=
  s.command 0x05 c {} fun s begun =>
    let n := levelBytes c.level / 4096
    if begun then s.endMapping c c.inst n ((mapLeaves c).map Prod.fst)
    else if !s.spanOk c then .fail s 2
    else if (mapLeaves c).any fun l => s.pinIn (spans (eppn l.2 * 4096) (levelBytes c.level)) fun p => p.vi != c.tvi then .fail s 6
    else if !s.mapOk c then .fail s 2 else
    let e := c.a3.toNat
    let held := match tfind s.fw.keys (ekey e) with
      | some k => k.vi == c.tvi
      | none => false
    if ebit e 53 && !held then .fail s 0x0D
    else match State.putLeaves c.tvi (c.a5.setWidth 16) c.inst c.level (mapLeaves c) [] s with
      | none => .fail s 0x10
      | some (old, t) => (t.dropPages c.tvi c.inst n old).endMapping c c.inst n old

/-- UNMAP: an address that no leaf of the level maps is left as it is (notes/assumptions/72.md). -/
def execUnmap (c : Cmd) (s : State) : Out :=
  s.command 0x06 c {} fun s begun =>
    let n := levelBytes c.level / 4096
    let root := s.rootOf c.tvi (c.a5.setWidth 16) c.inst
    let vas := (List.range c.a2.toNat).map fun k => c.a1.toNat + k * levelBytes c.level
    let slot := fun (va : Nat) => s.slotAt c.tvi va c.level (4 - c.level) root
    let leaf := fun (va : Nat) => match slot va with
      | none => !s.slotBlocked c.tvi va c.level (4 - c.level) root
      | some a => !(ebit (s.physWord a) 0 && ebit (s.physWord a) 1)
    if begun then s.endMapping c c.inst n vas
    else if !(s.spanOk c && vas.all leaf) then .fail s 2 else
      let old := vas.filter fun va => match slot va with
        | some a => ebit (s.physWord a) 0
        | none => false
      let t := old.foldl (fun (t : State) va => match slot va with
        | some a => t.physWrite 0 a (leBytes 8 (t.physWord a / 2 * 2))
        | none => t) s
      (t.dropPages c.tvi c.inst n old).endMapping c c.inst n old

/-! ## MIGRATE -/

/-- The leaf of a level for an address, cut into a table of leaves of the level below. -/
def State.splitLeaf (s : State) (vi : Nat) (asid : BitVec 16) (lvl at_ e : Nat) : Option (Nat × State) :=
  (s.takePage vi (some asid)).map fun (p, s) =>
    let s := (List.range 512).foldl (fun (s : State) k =>
      s.physWrite 0 (p + 8 * k) (leBytes 8 (e + k * levelBytes (lvl - 1)))) s
    (p, s.physWrite 0 at_ (leBytes 8 (p + 3)))

/-- The level 0 entry of an address, its own page of 4 KiB, larger leaves and groups being cut (notes/assumptions/73.md). -/
def State.ownEntry (vi : Nat) (asid : BitVec 16) (va : Nat) : Nat → Nat → Nat → State → Option (Nat × State)
  | 0, at_, e, s =>
    if esz e = 1 then
      let lo := at_ / 128 * 128
      let base := eppn e - eppn e % 16
      some (at_, (List.range 16).foldl (fun (s : State) k =>
        let x := s.physWord (lo + 8 * k)
        let x := x - eppn x * 4096 - esz x * 1024 + (base + k) * 4096
        s.physWrite 0 (lo + 8 * k) (leBytes 8 x)) s)
    else some (at_, s)
  | lvl + 1, at_, e, s =>
    match s.splitLeaf vi asid (lvl + 1) at_ e with
    | none => none
    | some (p, s) =>
      let at1 := p + 8 * walkIndex va lvl
      State.ownEntry vi asid va lvl at1 (s.physWord at1) s

/-- 4 KiB copied, a line at a time, through the key of the leaf. -/
def State.copyPage (s : State) (tag : LineTag) (src dst : Nat) : State :=
  (List.range 32).foldl (fun (s : State) k =>
    let (g, s) := s.freshRead tag (place (src + 128 * k)) 128
    s.putLine tag (place (dst + 128 * k)) g.1 (if g.2 then some { cause := .dataEcc, addr := 0 } else none)) s

/-- The physical page is memory. -/
def isMemory (pa : Nat) : Bool := match place pa with
  | .dram _ => true
  | .host _ _ => true
  | _ => false

/-- MIGRATE. -/
def execMigrate (c : Cmd) (s : State) : Out :=
  s.command 0x07 c {} fun s begun =>
    let va := c.a1.toNat
    let asid : BitVec 16 := c.a5.setWidth 16
    if begun then s.endMapping c false 1 [va]
    else if !(s.hasSpace c.tvi c.a5 && canonical c.a1 && va % 4096 = 0 && c.a2.toNat < 2 ^ 36) then .fail s 2 else
    match (s.walk (s.whoVi c.tvi asid) false va false).1 with
    | .leaf lvl at_ e =>
      let page := leafPage va lvl e
      let new := e % 1024 + c.a2.toNat * 4096 + e / 2 ^ 48 * 2 ^ 48
      if !(isMemory (page * 4096) && isMemory (c.a2.toNat * 4096) && s.leafOk c.tvi false 0 va new) then .fail s 2
      else if s.pinIn (spans (page * 4096) 4096) fun _ => true then .fail s 6
      else match State.ownEntry c.tvi asid va lvl at_ e s with
        | none => .fail s 0x10
        | some (a, t) =>
          let t := t.copyPage (if ebit e 53 then some (BitVec.ofNat 10 (ekey e)) else none) (page * 4096) (c.a2.toNat * 4096)
          ((t.physWrite 0 a (leBytes 8 new)).dropPages c.tvi false 1 [va]).endMapping c false 1 [va]
    | _ => .fail s 2

/-! ## LOAD_CODE (R64, R357, R460) -/

/-- The object's 4-byte field at an offset. -/
def objField (bs : List Byte) (off : Nat) : Nat := leNat ((bs.drop off).take 4)

/-- Sections of an object: .text, .rodata, .data with their first byte, and the entries of the entry table. -/
def objEntries (bs : List Byte) : List (List Byte) :=
  (List.range (objField bs 0x0C % 2 ^ 16 + objField bs 0x0C / 2 ^ 16)).map fun k => (bs.drop (64 + 16 * k)).take 16

def objText (bs : List Byte) : Nat := 64 + 16 * (objEntries bs).length

/-- The first three conditions of spec/02_encoding.md R64, with the sizes of Table 02.4 (notes/assumptions/74.md). -/
def objOk (st : Stepping) (bs : List Byte) : Bool :=
  let f := objField bs
  let es := objEntries bs
  let mask := f 8 / 2 ^ 8 % 2 ^ 8
  let flags := f 4 / 2 ^ 16 % 2 ^ 8
  let gfx := es.any fun e => leNat e / 2 ^ 32 % 2 = 1
  let stBit := match st with
    | .a0 => mask.testBit 0
    | .b0 => mask.testBit 1
  64 ≤ bs.length && f 0 == 0x32565952 && f 4 % 2 ^ 8 == 1 && f 4 / 2 ^ 8 % 2 ^ 8 == 2 && f 4 / 2 ^ 24 == 0 &&
    flags == (if gfx then 1 else 0) + (if f 0x0C / 2 ^ 16 = 0 then 0 else 2) &&
    mask < 4 && f 8 % 2 ^ 8 < 8 && f 8 / 2 ^ 24 == 0 && ((bs.drop 0x20).take 32).all (· == 0) &&
    f 0x10 % 128 == 0 && f 0x14 % 16 == 0 && f 0x18 % 16 == 0 && f 0x1C % 16 == 0 &&
    objText bs + f 0x10 + f 0x14 + f 0x18 ≤ bs.length &&
    es.all (fun e => leNat e / 2 ^ 34 % 2 ^ 30 == 0 && leNat e / 2 ^ 96 == 0 && leNat e % 16 == 0) &&
    stBit && (f 8 % 8 < 4 || mask == 2)

/-- The lifetime entry of an opcode (spec/15_tables.md R359): its class, REMGEN and STEPMASK. -/
def lifetimeEntry (n : Nat) : Nat :=
  if ((Fields.unpack (BitVec.ofNat 128 n)).candidate).isNone then 0
  else if n / 64 = 0xE then 0xA00B0300 else if n / 64 = 0xF then 0xC0000200 else 0x80000300

/-- The last two conditions of R64. -/
def objLives (bs : List Byte) : Bool :=
  let cls := objField bs 8 % 8
  let gen := objField bs 8 / 2 ^ 16 % 2 ^ 8
  (!cls.testBit 1 || 9 < gen) &&
    (List.range (objField bs 0x10 / 16)).all fun k =>
      let e := lifetimeEntry (leNat ((bs.drop (objText bs + 16 * k)).take 2) % 1024)
      e != 0 && cls.testBit (e / 2 ^ 29 % 4)

/-- No valid entry stands at or above the leaves that a range needs. -/
def State.unmapped (s : State) (vi : Nat) (asid : BitVec 16) (inst : Bool) (lvl va n : Nat) : Bool :=
  let root := s.rootOf vi asid inst
  (List.range n).all fun k =>
    let a := va + k * levelBytes lvl
    !s.slotBlocked vi a lvl (4 - lvl) root && (match s.slotAt vi a lvl (4 - lvl) root with
      | some at_ => !ebit (s.physWord at_) 0
      | none => true)

/-- V, RD, U, IDEM and CACHE. -/
def codeLeaf : Nat := 1 + 16 + 64 + 2 ^ 50 + 2 ^ 51

/-- Units or pages taken one after another, each filled with its bytes and mapped. -/
def State.placeSection (vi : Nat) (asid : BitVec 16) (inst : Bool) (lvl leaf va : Nat) (bs : List Byte) :
    Nat → State → Option State
  | 0, s => some s
  | n + 1, s =>
    match State.placeSection vi asid inst lvl leaf va bs n s with
    | none => none
    | some s =>
      match (if lvl = 1 then s.takeUnit vi else s.takePage vi none) with
      | none => none
      | some (p, s) =>
        let size := levelBytes lvl
        let s := s.physWrite 0 p ((bs.drop (n * size)).take size)
        (State.putLeaves vi asid inst lvl [(va + n * size, leaf + p)] [] s).map Prod.snd

/-- LOAD_CODE. -/
def execLoadCode (c : Cmd) (s : State) : Out :=
  s.command 0x08 c {} fun s _ =>
    if !(c.a3.toNat < 64 && c.a4.toNat % 0x200000 = 0 && c.a6.toNat % 0x1000 = 0 && s.hasSpace c.tvi c.a5) then .fail s 2
    else if (tfind (s.vi c.tvi).tables.codes c.a3.toNat).isSome then .fail s 5
    else s.withBuf c c.a1 c.a2.toNat fun bs s =>
      if !objOk s.stepping bs then .fail s 8
      else if !objLives bs then .fail s 9
      else
        let asid : BitVec 16 := c.a5.setWidth 16
        let f := objField bs
        let pages := fun (n : Nat) => (n + 0xFFF) / 0x1000
        let units := (f 0x10 + 0x1FFFFF) / 0x200000
        let ro := c.a6.toNat
        let da := ro + 0x1000 * pages (f 0x14)
        let bss := da + 0x1000 * pages (f 0x18)
        let n := pages (f 0x14) + pages (f 0x18) + pages (f 0x1C)
        let part := fun (off len : Nat) => (bs.drop (objText bs + off)).take len
        if !(rangeOk c.a4 units 0x200000 && rangeOk c.a6 n 0x1000) then .fail s 2
        else if !(s.unmapped c.tvi asid true 1 c.a4.toNat units && s.unmapped c.tvi asid false 0 ro n) then .fail s 5
        else
          let place := fun (inst : Bool) (lvl leaf va : Nat) (bs : List Byte) (n : Nat) (s : Option State) =>
            s.bind (State.placeSection c.tvi asid inst lvl leaf va bs n)
          let t := place true 1 codeLeaf c.a4.toNat (part 0 (f 0x10)) units (some s)
          let t := place false 0 codeLeaf ro (part (f 0x10) (f 0x14)) (pages (f 0x14)) t
          let t := place false 0 (codeLeaf + 32) da (part (f 0x10 + f 0x14) (f 0x18)) (pages (f 0x18)) t
          match place false 0 (codeLeaf + 32) bss [] (pages (f 0x1C)) t with
          | none => .fail s 0x10
          | some t =>
            let o : CodeObj :=
              { nhandler := BitVec.ofNat 16 (f 0x0C / 2 ^ 16), nkernel := BitVec.ofNat 16 (f 0x0C), remgen := BitVec.ofNat 8 (f 8 / 2 ^ 16),
                stepmask := BitVec.ofNat 8 (f 8 / 2 ^ 8), lifeclass := BitVec.ofNat 8 (f 8), textsize := BitVec.ofNat 32 (f 0x10),
                text := c.a4, handler := f 0x0C / 2 ^ 16 != 0 }
            .done 0 (some c.a4) (t.modVi c.tvi fun v =>
              { v with tables := { v.tables with codes := tset v.tables.codes c.a3.toNat o }, log := v.log ++ [sha384 bs] })

/-! ## ASSIGN_MEM (R428) and SET_POOL (R458) -/

/-- Backed DRAM outside firmware's: the range lies in one die, or in the interleaved window. -/
def assignable (pa len : Nat) : Bool :=
  if pa < 0x4000000000 then pa % 2 ^ 35 + len ≤ 0x770000000
  else pa < 0x7C00000000 && (pa - 0x4000000000 + len) / 8 ≤ 0x770000000

/-- Every valid leaf below a table of a level, as its level and entry. -/
def State.leavesOf (s : State) : Nat → Nat → List (Nat × Nat)
  | 0, base => ((List.range 512).map fun k => s.physWord (base + 8 * k)).filterMap fun e => if ebit e 0 then some (0, e) else none
  | lvl + 1, base => (List.range 512).flatMap fun (k : Nat) =>
    let e := s.physWord (base + 8 * k)
    if !ebit e 0 then [] else if ebit e 1 then s.leavesOf lvl (eppn e * 4096) else [(lvl + 1, e)]

/-- A leaf of the VI maps a byte of the ranges. -/
def State.mapsInto (s : State) (vi : Nat) (xs : List (Nat × Nat)) : Bool :=
  (s.vi vi).spaces.any fun (a : Nat × Space) => [a.2.droot, a.2.iroot].any fun r =>
    (s.leavesOf 4 (r.toNat * 4096)).any fun l =>
      let n := leafPages l.1 l.2
      meets xs (spans ((eppn l.2 - eppn l.2 % n) * 4096) (n * 4096))

/-- Save areas, context-pool units and the table pool of a VI. -/
def Vi.reserves (v : Vi) : List (Nat × Nat) :=
  spans v.trap.saves.toNat (v.trap.nsave * saveAreaSize) ++ spans v.trap.pool.toNat (v.trap.npool * 0x80000) ++
    spans v.poolBase v.poolLen

/-- ASSIGN_MEM. -/
def execAssignMem (c : Cmd) (s : State) : Out :=
  s.command 0x20 c { pf := true } fun s _ =>
    let xs := spans c.a1.toNat c.a2.toNat
    if !(c.a1.toNat % 0x200000 = 0 && c.a2.toNat % 0x200000 = 0 && c.a3.toNat < 2 && assignable c.a1.toNat c.a2.toNat) then .fail s 2
    else if s.fw.assigned.any fun r => r.2.2 != c.tvi && meets xs [(r.1, r.2.1)] then .fail s 5
    else if c.a3 == 0 then
      .done 0 none { s with fw := { s.fw with assigned := s.fw.assigned ++ xs.map fun x => (x.1, x.2, c.tvi) } }
    else if s.pinIn xs fun _ => true then .fail s 6
    else if s.mapsInto c.tvi xs || meets xs (s.vi c.tvi).reserves then .fail s 5
    else
      let cut := fun (r : Nat × Nat × Nat) =>
        if r.2.2 == c.tvi then (cutRange (r.1, r.2.1) xs).map fun y => (y.1, y.2, c.tvi) else [r]
      .done 0 none { s with fw := { s.fw with assigned := s.fw.assigned.flatMap cut } }

/-- SET_POOL. -/
def execSetPool (c : Cmd) (s : State) : Out :=
  s.command 0x21 c {} fun s _ =>
    let base := c.a1.toNat
    let len := c.a2.toNat
    if !(base % 0x200000 = 0 && len % 0x200000 = 0 && (len = 0 || s.ownsRange c.tvi base len)) then .fail s 2
    else if !((s.vi c.tvi).poolUsed.all fun u => meets (spans base len) [(u.1 * 0x1000, u.1 * 0x1000 + 1)]) then .fail s 5
    else .done 0 none (s.modVi c.tvi fun v => { v with poolBase := base, poolLen := len })

end Sys2Proof.Machine
end

