-- ==== Sys2Proof/Machine/CmdTables.lean ====
section
/-! DEFINITION. Commands on a VI's tables and shares (spec/19_host_device.md Table 19.4): queues, keys, shares, templates,
capabilities, acceleration structures, RDCWAYS, pins, handlers, budgets, the handle map and the trap configuration; and
the events OWNERSHIP_WRITE and RDCWAYS_WRITE. -/

namespace Sys2Proof.Machine

open Sys2Proof

/-! ## Ownership of lane memory and RDCWAYS (spec/08_memories.md R190, R202, R234) -/

/-- OWNERSHIP_WRITE. -/
def execOwnershipWrite (core block : Nat) (by_ : Writer) (v : BitVec 32) (s : State) : Out :=
  if 1024 ≤ core || 256 ≤ block then .fault .noSuchUnit
  else if s.copyUses core block then .next s
  else .next (s.writeOwner core block by_ v.toNat)

/-- RDCWAYS_WRITE. -/
def execRdcwaysWrite (die : Nat) (v : Word) (s : State) : Out :=
  if 8 ≤ die then .fault .noSuchUnit else .next (s.writeRdcways die v.toNat)

/-- SET_RDC. -/
def execSetRdc (c : Cmd) (s : State) : Out :=
  s.command 0x12 c { wide := true, pf := true } fun s _ =>
    if !(c.a1.toNat < 256 && c.a2.toNat ≤ 8) then .fail s 2
    else .done 0 none (((List.range 8).filter fun d => c.a1.getLsbD d).foldl (fun (s : State) d => s.writeRdcways d c.a2.toNat) s)

/-! ## CREATE_QUEUE and DESTROY_QUEUE (spec/15_tables.md R348) -/

/-- CREATE_QUEUE: words 0x00 and 0x08 within the fields of spec/11_queues_scheduling.md Table 11.1. -/
def execCreateQueue (c : Cmd) (s : State) : Out :=
  s.command 0x09 c {} fun s _ =>
    let w0 := c.a2
    let w1 := c.a3
    let ok := c.a1.toNat < 256 && bitsOf w0 11 5 == 0 && 1 ≤ bitsOf w0 4 0 && bitsOf w0 4 0 ≤ 16 && canonical (w0 &&& ~~~ 0xFFF#64) &&
      bitsOf w1 47 40 == 0 && bitsOf w1 31 29 == 0 && bitsOf w1 23 19 == 0 && bitsOf w1 15 11 == 0 && !w1.getLsbD 7 &&
      bitsOf w1 6 0 == c.tvi && 1 ≤ bitsOf w1 28 24 && bitsOf w1 28 24 ≤ 16 && 1 ≤ bitsOf w1 39 32 &&
      s.hasSpace c.tvi (w1.extractLsb' 48 16 |>.setWidth 64)
    let slots := (s.vi c.tvi).tables.slots
    if !ok then .fail s 2
    else match findBelow (fun k => (tfind s.queues k).isNone) 4096 with
      | none => .fail s 7
      | some n =>
        if 256 ≤ slots.length then .fail s 7
        else if (tfind slots c.a1.toNat).isSome then .fail s 5
        else
          let q : DevQueue :=
            { DevQueue.reset with vi := c.tvi, slot := c.a1.toNat, ring := w0 &&& ~~~ 0xFFF#64, logsize := bitsOf w0 4 0, die := bitsOf w1 10 8,
                                  prio := w1.extractLsb' 16 3, ceil := w1.extractLsb' 24 5, weight := bitsOf w1 39 32,
                                  asid := w1.extractLsb' 48 16, st := .active }
          .done 0 (some (BitVec.ofNat 64 n)) ((s.setQueue n q).modVi c.tvi fun v =>
            { v with tables := { v.tables with slots := tset v.tables.slots c.a1.toNat n } })

/-- Launches of a queue that is being destroyed retire, in order, when none of their instances is left; with none left the
queue goes. -/
def State.drainQueue (s : State) (n : Nat) : State :=
  let js := (s.queue n).table.map fun l => l.index
  let s := js.foldl (fun (s : State) j =>
    match (s.queue n).table.find? fun l => l.index == j with
    | some l => if l.placed = l.cut && l.retired = l.placed && (l.placed != 0 || (s.queue n).permits l) then s.endLaunch n l else s
    | none => s) s
  let q := s.queue n
  if (tfind s.queues n).isSome && q.table.isEmpty then
    let s := s.modVi q.vi fun v => { v with tables := { v.tables with slots := v.tables.slots.filter fun e => e.2 != n } }
    { s with queues := tdel s.queues n }
  else s

/-- DESTROY_QUEUE: the unplaced instances are removed at once; it waits for the others. -/
def execDestroyQueue (c : Cmd) (s : State) : Out :=
  s.command 0x0A c {} fun s begun =>
    match if c.a1.toNat < 256 then s.slotQueue c.tvi c.a1.toNat else none with
    | none => if begun then .done 0 none s else .fail s 2
    | some n =>
      let q := s.queue n
      if begun && !q.dying then .done 0 none s
      else if q.dying then .wait s
      else
        let s := s.setQueue n { q with st := .disabled, dying := true }
        let s := (q.table.foldl (fun (s : State) l => (s.cancelLaunch n l.index).2) s).drainQueue n
        if (tfind s.queues n).isNone then .done 0 none s else .wait s

/-! ## Keys (R433, spec/14_translation.md R342) -/

/-- Every line held under a key slot is written back and dropped. -/
def State.dropKey (s : State) (k : Nat) : State :=
  let lines := s.phys.tags.filter fun e => e.2 == some (BitVec.ofNat 10 k)
  let s := lines.foldl (fun (s : State) e => s.retag e.1 none) s
  { s with dies := s.dies.map fun (d : Nat × Die) => (d.1, { d.2 with rdc := d.2.rdc.filter fun e => e.1 % 2048 != k + 1 }) }

/-- SET_KEY: a key is replaced once the lines under the old one are written back. For a TDI in state RUN it needs an SPDM session
with it. -/
def execSetKey (c : Cmd) (s : State) : Out :=
  s.command 0x0B c {} fun s _ =>
    if !(c.a1.toNat < 1024) then .fail s 2 else
    if (s.vi c.tvi).tdiRun && !isPf c.tvi && (s.vi c.tvi).spdm != .session then .fail s 4 else
    match tfind s.fw.keys c.a1.toNat with
    | some k => if k.vi != c.tvi then .fail s 5 else
      s.withBuf c c.a2 64 fun bs s =>
        let s := s.dropKey c.a1.toNat
        .done 0 none { s with fw := { s.fw with keys := tset s.fw.keys c.a1.toNat { vi := c.tvi, bytes := bs } } }
    | none => s.withBuf c c.a2 64 fun bs s =>
        .done 0 none { s with fw := { s.fw with keys := tset s.fw.keys c.a1.toNat { vi := c.tvi, bytes := bs } } }

/-- A key slot given up. -/
def State.clearKey (s : State) (k : Nat) : State :=
  let s := s.dropKey k
  { s with fw := { s.fw with keys := tdel s.fw.keys k } }

/-- CLEAR_KEY. -/
def execClearKey (c : Cmd) (s : State) : Out :=
  s.command 0x0C c {} fun s _ =>
    if !(c.a1.toNat < 1024) then .fail s 2 else
    match tfind s.fw.keys c.a1.toNat with
    | some k => if k.vi == c.tvi then .done 0 none (s.clearKey c.a1.toNat) else .fail s 0x0D
    | none => .fail s 0x0D

/-! ## SET_SHARE (R457) -/

/-- Fields of an argument that is used. -/
def shareOk (s : State) (c : Cmd) : Bool :=
  let a := c.a1
  let b := c.a2
  (!a.getLsbD 63 || ((a.getLsbD 62 || !a.getLsbD 61) && bitsOf a 60 42 == 0 && bitsOf a 31 16 == 0 && bitsOf a 7 0 ≤ bitsOf a 15 8)) &&
  (!b.getLsbD 63 || (bitsOf b 62 48 == 0 && bitsOf b 39 37 == 0 && bitsOf b 31 27 == 0 && bitsOf b 23 8 == 0 &&
    1 ≤ bitsOf b 47 40 && 1 ≤ bitsOf b 36 32 && bitsOf b 36 32 ≤ 16 && (s.slotQueue c.tvi (bitsOf b 7 0)).isSome)) &&
  (!c.a3.getLsbD 63 || (bitsOf c.a3 62 25 == 0 && 1000 ≤ bitsOf c.a3 24 0 && bitsOf c.a3 24 0 ≤ 2 ^ 24)) &&
  (!c.a4.getLsbD 63 || (bitsOf c.a4 62 32 == 0 && 1 ≤ bitsOf c.a4 31 0))

/-- The weight of a queue in the rounds under way on the cores: a change waits for the next round (spec/11_queues_scheduling.md
R265). -/
def State.keepWeight (s : State) (n : Nat) : State :=
  let w := max 1 (s.queue n).weight
  let keep := fun (c : Core) => { c with weights := c.serving.foldl (fun t e =>
    if (tfind t (4096 * e.1 + n)).isSome then t else tset t (4096 * e.1 + n) w) c.weights }
  { s with cores := s.cores.map fun c => (c.1, keep c.2) }

/-- SET_SHARE: a change of ownership waits for probed accesses. -/
def execSetShare (c : Cmd) (s : State) : Out :=
  s.command 0x0D c { pf := true } fun s _ =>
    if !shareOk s c then .fail s 2 else
    let core := bitsOf c.a1 41 32
    let first := bitsOf c.a1 7 0
    let blocks := if c.a1.getLsbD 63 then (List.range (bitsOf c.a1 15 8 + 1 - first)).map (· + first) else []
    if blocks.any fun b => s.copyUses core b then .wait s else
    let v := c.a1.getLsbD 62
    let o : Owner := { exp := c.a1.getLsbD 61, v := v, vi := if v then BitVec.ofNat 7 c.tvi else 0 }
    let s := blocks.foldl (fun (s : State) b => s.setOwner core b o) s
    let s := match if c.a2.getLsbD 63 then s.slotQueue c.tvi (bitsOf c.a2 7 0) else none with
      | some n => (s.keepWeight n).modQueue n fun q =>
        { q with weight := bitsOf c.a2 47 40, ceil := c.a2.extractLsb' 32 5, prio := c.a2.extractLsb' 24 3 }
      | none => s
    .done 0 none (s.modVi c.tvi fun y =>
      { y with reclaimWin := if c.a3.getLsbD 63 then bitsOf c.a3 24 0 else y.reclaimWin,
               preemptDel := if c.a4.getLsbD 63 then bitsOf c.a4 31 0 else y.preemptDel })

/-! ## Templates, capabilities and acceleration structures (spec/15_tables.md R351, R355, spec/16_rays.md R361) -/

/-- A slot of a template record. -/
def tmplSlot (w : Word) : TmplSlot :=
  { mode := w.extractLsb' 40 2, gbase := w.extractLsb' 32 8, param := w.extractLsb' 0 24 }

/-- A slot within the limits of Table 15.2. -/
def tmplOk (w : Word) : Bool :=
  let p := bitsOf w 23 0
  bitsOf w 63 42 == 0 && bitsOf w 31 24 == 0 &&
    (match bitsOf w 41 40 with
      | 0 => p == 0 && bitsOf w 39 32 == 0
      | 1 => 1 ≤ p
      | 2 => 1 ≤ p && p ≤ 256
      | _ => p == 0)

/-- CREATE_GROUP_TEMPLATE. -/
def execCreateGroupTemplate (c : Cmd) (s : State) : Out :=
  s.command 0x0F c {} fun s _ =>
    let k := c.a1.toNat
    if !(k < 256) then .fail s 2
    else if s.queues.any fun (q : Nat × DevQueue) => q.2.vi == c.tvi && q.2.table.any fun l => l.tmpl == some k then .fail s 5
    else s.withBuf c c.a2 64 fun bs s =>
      let w := wordsOf bs
      let x := fun (k : Nat) => w.getD k 0
      if !((w.take 4).all tmplOk && x 4 == 0 && x 5 == 0 && x 6 == 0 && bitsOf (x 7) 63 1 == 0) then .fail s 0x0A
      else .done 0 none (s.modVi c.tvi fun v =>
        let ts := if (x 7).getLsbD 0 then tset v.tables.tmpls k ((w.take 4).map tmplSlot) else tdel v.tables.tmpls k
        { v with tables := { v.tables with tmpls := ts } })

/-- CREATE_CAP. -/
def execCreateCap (c : Cmd) (s : State) : Out :=
  s.command 0x10 c {} fun s _ =>
    let v := s.vi c.tvi
    let revoke := c.a2.getLsbD 0
    let rotated := c.a2.getLsbD 1
    if !(c.a1 &&& ~~~ 0xFF0F#64 == 0 && c.a2.toNat < 4) then .fail s 2
    else if v.serialnext == BitVec.allOnes 24 then .fail s 0x0B
    else if revoke || rotated then
      let (f, s) := s.draw
      .done 0 (some 0) (s.modVi c.tvi fun y =>
        { y with serialfloor := if revoke then y.serialnext else y.serialfloor, capKey := if rotated then f else y.capKey })
    else
      .done 0 (some (issueCap v.capKey c.tvi (bitsOf c.a1 3 0) (bitsOf c.a1 15 8) v.serialnext.toNat))
        (s.modVi c.tvi fun y => { y with serialnext := y.serialnext + 1 })

/-- CREATE_ASTRUCT: the list holds physical page numbers of the VI's DRAM, 8 bytes each (notes/assumptions/75.md). -/
def execCreateAstruct (c : Cmd) (s : State) : Out :=
  s.command 0x11 c {} fun s _ =>
    let k := c.a1.toNat
    if !(k < 4096 && c.a2.toNat < 2 && c.a4.toNat < 2 ^ 32) then .fail s 2
    else if ((s.vi c.tvi).as k).v then .fail s 5
    else if c.a4 == 0 then .fail s 0x10
    else s.withBuf c c.a3 (8 * c.a4.toNat) fun bs s =>
      let ps := (wordsOf bs).map fun w => w.toNat
      let others := (s.vi c.tvi).tables.ases.flatMap fun e => e.2.pool
      if !(ps.all fun p => p < 2 ^ 36 && s.ownsRange c.tvi (p * 4096) 4096 && !others.contains p) || ps.eraseDups.length != ps.length then
        .fail s 2
      else .done 0 none (s.modVi c.tvi fun v =>
        v.setAs k { AsEntry.none with v := true, kind := c.a2 == 1, total := ps.length, pool := ps })

/-! ## Pins, budgets and the handle map (spec/08_memories.md R207, R208, spec/15_tables.md R350) -/

/-- Every pin of a VI released. -/
def State.releasePins (s : State) (vi : Nat) : State :=
  { s with phys := { s.phys with pins := s.phys.pins.filter fun p => p.2.vi != vi } }

/-- PIN_QUOTA. -/
def execPinQuota (c : Cmd) (s : State) : Out :=
  s.command 0x13 c { pf := true } fun s _ =>
    if !(c.a1.toNat < 2 ^ 32) then .fail s 2 else
    let s := if c.a1 == 0 then s.releasePins c.tvi else s
    .done 0 none (s.modVi c.tvi fun v => { v with pinquota := c.a1.toNat })

/-- SET_BUDGET. -/
def execSetBudget (c : Cmd) (s : State) : Out :=
  s.command 0x15 c {} fun s _ =>
    if !(1 ≤ c.a1.toNat && c.a1.toNat ≤ 1024) then .fail s 2
    else .done 0 none (s.modVi c.tvi fun v => { v with hbudget := c.a1.toNat })

/-- A handle entry that SET_QMAP may write for a VI. -/
def State.qmapOk (s : State) (vi : Nat) (w : Word) : Bool :=
  let e := QEntry.ofWord w
  w &&& crReserved 0x090 == 0 && e.fits &&
    (if e.kind == 1 then (match tfind s.queues e.index.toNat with
        | some q => q.vi == vi
        | none => false)
     else if e.kind == 0 then true else (portKind e.kind.toNat e.index.toNat).isSome)

/-- SET_QMAP. -/
def execSetQmap (c : Cmd) (s : State) : Out :=
  s.command 0x1E c {} fun s _ =>
    if !(c.a1.toNat < 16 && s.qmapOk c.tvi c.a2) then .fail s 2 else
    let old := regAt (s.vi c.tvi).tables.handles c.a1.toNat QEntry.word
    .done 0 (some old) (s.modVi c.tvi fun v =>
      { v with tables := { v.tables with handles := vmod v.tables.handles c.a1.toNat fun _ => QEntry.ofWord c.a2 } })

/-! ## INSTALL_HANDLERS (spec/15_tables.md R358) -/

/-- Region entry n of a region table; none: V = 0. -/
def regionOf (w : Nat) : Option Region :=
  if w.testBit 31 then some { len := w / 2 ^ 16 % 2 ^ 15, base := w % 2 ^ 14 } else none

/-- A region entry within its limits. -/
def regionOk (w : Nat) : Bool :=
  match regionOf w with
  | none => true
  | some r => r.len % 64 == 0 && r.len ≤ 16384 && w / 2 ^ 14 % 4 == 0 && r.base % 64 == 0 && r.base + r.len ≤ 16384

/-- Regions that share a byte. -/
def Region.meets (a b : Region) : Bool := a.base < b.base + b.len && b.base < a.base + a.len && a.len != 0 && b.len != 0

/-- The scratch of a region zeroed in every slice. -/
def State.zeroScratch (s : State) (r : Region) : State :=
  { s with slices := s.slices.map fun (k : Nat × Slice) =>
      (k.1, { k.2 with scratch := k.2.scratch.zero r.base r.len,
                       sPoison := k.2.sPoison.filter fun e => e.1 < r.base / 8 || (r.base + r.len) / 8 ≤ e.1 }) }

/-- What waits for a place is a message of the VI. -/
def Entry.sentBy (e : Entry) (vi : Nat) : Bool := match e.post with
  | .send _ m => m.vi == vi
  | _ => false

/-- INSTALL_HANDLERS: it waits until every queued activation of the VI has run to completion. -/
def execInstallHandlers (c : Cmd) (s : State) : Out :=
  s.command 0x14 c {} fun s _ =>
    if !(c.a1.toNat < 64) then .fail s 2 else
    match tfind (s.vi c.tvi).tables.codes c.a1.toNat with
    | none => .fail s 8
    | some o =>
      if !o.handler then .fail s 8 else
      s.withBuf c c.a2 1024 fun bs t =>
        let ws := (List.range 256).map fun n => leNat ((bs.drop (4 * n)).take 4)
        let rs : Tab Region := ws.zipIdx.filterMap fun w => (regionOf w.1).map fun r => (w.2, r)
        if !(ws.all regionOk) then .fail t 2
        else if t.vis.any fun v => v.1 != c.tvi && v.2.tables.regions.any fun r => rs.any fun x => x.2.meets r.2 then .fail t 0x0C
        else if t.slices.any fun k => k.2.msgs.any (fun m => m.vi == c.tvi) || k.2.reply.any (fun m => m.msg.vi == c.tvi) then .wait s
        else if s.net.entries.any (fun e => e.sentBy c.tvi) then .wait s
        else
          let old := (t.vi c.tvi).tables.regions
          let t := rs.foldl (fun (t : State) r => if tfind old r.1 == some r.2 then t else t.zeroScratch r.2) t
          .done 0 none (t.modVi c.tvi fun v =>
            { v with tables := { v.tables with image := some (o.text, o.textsize.toNat), regions := rs } })

/-! ## SET_TRAP (spec/18_traps.md R419) -/

/-- The number that item k of an array has in a new array; none: it is left out. -/
def renumber (oldBase newBase size count k : Nat) : Option Nat :=
  let a := oldBase + size * k
  if newBase ≤ a && (a - newBase) % size = 0 && (a - newBase) / size < count then some ((a - newBase) / size) else none

/-- SET_TRAP's limits. -/
def State.trapConfOk (s : State) (c : Cmd) : Bool :=
  c.a1.toNat % 16 = 0 && c.a2 &&& crReserved 0x047 == 0 && c.a3.toNat % 4096 = 0 && c.a5.toNat % 0x80000 = 0 &&
    (c.a4 == 0 || s.ownsRange c.tvi c.a3.toNat (c.a4.toNat * saveAreaSize)) &&
    (c.a6 == 0 || s.ownsRange c.tvi c.a5.toNat (c.a6.toNat * 0x80000))

/-- A context's save area under its new number. -/
def Hart.renumber (x : Hart) (f : Nat → Option Nat) : Hart := { x with who := { x.who with area := x.who.area.bind f } }

/-- SET_TRAP: areas and units in use keep their places. -/
def execSetTrap (c : Cmd) (s : State) : Out :=
  s.command 0x1F c {} fun s _ =>
    let t := (s.vi c.tvi).trap
    let area := fun (k : Nat) => renumber t.saves.toNat c.a3.toNat saveAreaSize c.a4.toNat k
    let unitNo := fun (k : Nat) => renumber t.pool.toNat c.a5.toNat 0x80000 c.a6.toNat k
    if !s.trapConfOk c then .fail s 2
    else if !(t.used.all (fun k => (area k).isSome) && t.units.all fun k => (unitNo k).isSome) then .fail s 5
    else
      let n : TrapConf :=
        { vector := c.a1, tdeleg := c.a2, saves := c.a3, nsave := c.a4.toNat, pool := c.a5, npool := c.a6.toNat,
          used := t.used.filterMap area, units := t.units.filterMap unitNo }
      let s := { s with harts := s.harts.map fun (h : Nat × Hart) =>
        (h.1, if h.2.core.st != HState.free && h.2.who.vi.toNat == c.tvi then h.2.renumber area else h.2) }
      .done 0 none (s.modVi c.tvi fun v =>
        { v with trap := n,
                 ctxs := v.ctxs.map fun (e : SavedCtx) => { e with unit := (unitNo e.unit).getD e.unit, hart := e.hart.renumber area },
                 claims := v.claims.map fun (e : SavedClaim) => { e with unit := (unitNo e.unit).getD e.unit } })

end Sys2Proof.Machine
end

