-- ==== Sys2Proof/Machine/CmdModule.lean ====
section
/-! DEFINITION. Commands on the module (spec/19_host_device.md Table 19.4): IDENTIFY, ATTEST, RESET_VI, counters, traces,
errors, the boot record, debug, power caps and sheet groups; and the events SPDM_OVER_DOE, VF_ENABLE, VF_DISABLE and
REGISTER_WRITE. -/

namespace Sys2Proof.Machine

open Sys2Proof

/-! ## IDENTIFY (R456) and ATTEST (R432) -/

/-- The words of a VI's entry of spec/15_tables.md Table 15.1. -/
def State.viEntry (s : State) (v : Nat) : List Nat :=
  let y := s.vi v
  [v + (if y.active then 2 ^ 7 else 0) + y.serialfloor.toNat * 2 ^ 8 + y.serialnext.toNat * 2 ^ 32, qtBase v, gtBase v, ttBase v,
   astBase v, if y.tables.image.isSome then hiBase v else 0, y.pinquota % 2 ^ 32 + y.hbudget * 2 ^ 32, y.tables.slots.length]

/-- The 8 KiB of Table 19.8. -/
def State.identity (s : State) (v : Nat) : List Byte :=
  let st := match s.stepping with
    | .a0 => 0
    | .b0 => 1
  let num := match s.fw.sheets.head? with
    | some c => c.number
    | none => 2 ^ 64 - 1
  [st, Config.serial.toNat, num].flatMap (leBytes 8) ++ List.replicate 40 0 ++ (s.viEntry v).flatMap (leBytes 8) ++
    List.replicate 3968 0 ++ (List.range 1024).flatMap fun n => leBytes 4 (lifetimeEntry n)

/-- IDENTIFY. -/
def execIdentify (c : Cmd) (s : State) : Out :=
  s.command 0x01 c { safe := true } fun s _ =>
    s.endBuf c c.a1 (s.identity c.tvi) (some (match s.stepping with
      | .a0 => 0
      | .b0 => 1)) fun s => s

/-- The 64 bytes of Table 19.6. -/
def BootRecord.bytes (b : BootRecord) : List Byte :=
  leBytes 8 (b.boots.toNat + b.laststep.toNat * 2 ^ 32 + (if b.recovery then 2 ^ 40 else 0)) ++
    (b.steps.toList.flatMap fun e => leBytes 2 (e.2.2.toNat + (if e.2.1 then 4 else 0) + e.1.toNat * 256)) ++ List.replicate 28 0

/-- The measurements of a VI by their index: the ROM, the firmware image, the boot record, and the VI's log. -/
def State.measurements (s : State) (vi : Nat) : List (Nat × List Byte) :=
  [(1, (List.range 48).map Config.romByte), (2, s.fw.log.headD []), (3, sha384 s.fw.boot.bytes)] ++
    (s.vi vi).log.zipIdx.map fun x => (16 + x.2, x.1)

/-- The block of a measurement (SPDM 1.3; notes/assumptions/77.md): its index, the DMTF form, and a digest with its kind. -/
def measurementBlock (m : Nat × List Byte) : List Byte :=
  leBytes 1 m.1 ++ [1] ++ leBytes 2 (3 + m.2.length) ++ leBytes 1 (if m.1 = 1 then 0 else if m.1 = 3 then 3 else 1) ++
    leBytes 2 m.2.length ++ m.2

/-- The response code of each request that R432 names (SPDM 1.3). -/
def spdmCode (code : Nat) : Option Byte :=
  tfind [(0x84, 0x04#8), (0xE1, 0x61), (0xE3, 0x63), (0x81, 0x01), (0x82, 0x02), (0x83, 0x03), (0xE0, 0x60), (0xE4, 0x64), (0xE5, 0x65)] code

/-- An ERROR response. -/
def spdmError (code data : Byte) : List Byte := [0x13, 0x7F, code, data]

/-- So many bytes that nothing fixes, from a fresh number and a place on. -/
def spdmFree (f at_ n : Nat) : List Byte := (List.range n).map fun k => Config.spdmByte f (at_ + k)

/-- The measurements that a GET_MEASUREMENTS names: how many there are, every one, or that of an index; none: there is none. -/
def spdmMeasured (ms : List (Nat × List Byte)) (op : Nat) : Option (List (Nat × List Byte)) :=
  if op = 0 then some [] else if op = 0xFF then some ms else (ms.filter fun m => m.1 == op).head?.map fun m => [m]

/-- The response to a request of an exchange, with what the exchange then is: an ERROR for one that R432 does not name, that is out
of its turn, or that the device turns away; otherwise the code that answers it, and the measurements it asks for. The other bytes
are free. -/
def spdmReply (f : Nat) (ms : List (Nat × List Byte)) (st : Spdm) (req : List Byte) : List Byte × Spdm :=
  let code := (req.getD 1 0).toNat
  match spdmCode code with
  | none => (spdmError 0x07 (req.getD 1 0), st)
  | some c =>
    if code == 0xE5 && st != .keyed then (spdmError 0x04 0, st)
    else if Config.freeBit f then (spdmError (Config.spdmByte f 0) (Config.spdmByte f 1), st)
    else if code == 0xE0 then
      match spdmMeasured ms (req.getD 3 0).toNat with
      | none => (spdmError 0x01 0, st)
      | some l =>
        let total := if (req.getD 3 0) == 0 then BitVec.ofNat 8 ms.length else 0
        let blocks := l.flatMap measurementBlock
        ([0x13, c, total, 0] ++ leBytes 1 l.length ++ leBytes 3 blocks.length ++ blocks ++ spdmFree f 0 32 ++ leBytes 2 0 ++
          (if (req.getD 2 0).getLsbD 0 then spdmFree f 32 64 else []), st)
    else
      ([if code == 0x84 then 0x10 else 0x13, c] ++ spdmFree f 0 (Config.spdmLength f),
        if code == 0xE4 then .keyed else if code == 0xE5 then .session else st)

/-- ATTEST. -/
def execAttest (c : Cmd) (s : State) : Out :=
  s.command 0x02 c {} fun s _ =>
    s.withBuf c c.a1 c.a2.toNat fun req s =>
      let (f, s) := s.draw
      let (r, st) := spdmReply f (s.measurements c.tvi) (s.vi c.tvi).spdm req
      if c.a4.toNat < r.length then .fail s 0x10
      else s.endBuf c c.a3 r (some (BitVec.ofNat 64 r.length)) fun s => s.modVi c.tvi fun v => { v with spdm := st }

/-- SPDM_OVER_DOE (R432): the response waits in the port's mailbox. Within a session of the port, messages of IDE and TDISP key
management may move its TDIs into or out of state RUN and bind streams to them, which is free, as the response then is
(notes/assumptions/77.md). -/
def execSpdmOverDoe (port : Nat) (request : List Byte) (s : State) : Out :=
  if 2 ≤ port then .fault .noSuchUnit else
  if !(s.fw.ready && s.portUp (64 * port)) then .next s else
  let (f, s) := s.draw
  let st := tget .idle s.fw.spdm port
  let put := fun (s : State) (r : List Byte) (st : Spdm) =>
    { s with fw := { s.fw with doe := tset s.fw.doe port r, spdm := tset s.fw.spdm port st } }
  if st == .session && (spdmCode (request.getD 1 0).toNat).isNone then
    let run := fun (v : Nat × Vi) =>
      (v.1, if v.1 / 64 == port && !isPf v.1 then
          { v.2 with tdiRun := (Config.freeByte f v.1).getLsbD 0, ide := (Config.freeByte f v.1).getLsbD 1 }
        else v.2)
    .next (put { s with vis := s.vis.map run } (spdmFree f 0 (Config.spdmLength f)) st)
  else
    let (r, st) := spdmReply f (s.measurements (64 * port)) st request
    .next (put s r st)

/-! ## RESET_VI (R427, spec/15_tables.md R347) -/

/-- The contexts of a VI on harts. -/
def State.hartsOfVi (s : State) (vi : Nat) : List Nat :=
  (s.tasks.filter fun (h : Nat × Hart) => h.2.core.st != HState.free && h.2.who.vi.toNat == vi).map Prod.fst

/-- The contexts of a VI can be stopped now: copies have landed, and nothing that they wait for is in flight but a pop, which
is given up as an interrupt would. -/
def State.canStop (s : State) (vi : Nat) : Bool :=
  (s.hartsOfVi vi).all fun h => (s.hart h).copiesDone && ((s.cancelPop h).hart h).landAll.isSome && s.acked && !s.atmsOpen (s.hart h).who.uid

/-- A VI's work on agents, slices and networks is gone. -/
def State.dropWork (s : State) (vi : Nat) : State :=
  let wait := s.net.entries.filter fun e => s.entryLive e && !e.sentBy vi
  let mcmds := s.net.mcmds.filter fun m => m.vi.toNat != vi
  let replies := s.net.replies.filter fun r => r.msg.vi != vi
  { s with
    dies := s.dies.map fun (d : Nat × Die) =>
      (d.1, { d.2 with ports := d.2.ports.filter fun p => p.1 / 4096 != vi, dist := tdel d.2.dist vi, repr := tdel d.2.repr vi,
                       builder := tdel d.2.builder vi, nextSeq := d.2.nextSeq.filter fun q => q.1 / 2 ^ 32 != vi }),
    slices := s.slices.map fun (k : Nat × Slice) =>
      (k.1, { k.2 with msgs := k.2.msgs.filter fun m => m.vi != vi, reply := k.2.reply.filter fun r => r.msg.vi != vi,
                       blend := k.2.blend.filter fun t => t.vi != vi }),
    net := { s.net with mcmds := mcmds, replies := replies, entries := wait } }

/-- A VI's matrix claims and lane-memory blocks released. -/
def State.dropCores (s : State) (vi : Nat) : State :=
  s.cores.foldl (fun (s : State) (c : Nat × Core) =>
    let s := s.modCore c.1 fun y =>
      { y with mat := { y.mat with claim := y.mat.claim.filter fun q => q.vi.toNat != vi } }
    ((c.2.owners.filter fun o => o.2.v && o.2.vi.toNat == vi).map Prod.fst).foldl (fun (s : State) b => s.setOwner c.1 b Owner.reset) s) s

/-- RESET_VI's effect on a VI whose contexts can be stopped; its command queues, measurement log, SPDM exchange and TDISP state stay. -/
def State.resetVi (s : State) (vi : Nat) : State :=
  let hs := s.hartsOfVi vi
  let s := hs.foldl (fun (s : State) h => (s.releaseGrant h).dropHart h) s
  let s := (s.vi vi).ctxs.foldl (fun (s : State) c => s.unreserve c.core (.ctx c.hart.who.uid)) s
  let s := s.dropSaved vi fun _ => true
  let mine := (s.queues.filter fun q => q.2.vi == vi).map Prod.fst
  let s := s.endWaiting fun q _ _ => mine.contains q
  let s := { s with queues := s.queues.filter fun q => q.2.vi != vi }
  let s := ((s.dropWork vi).dropCores vi).releasePins vi
  let s := ((s.fw.keys.filter fun k => k.2.vi == vi).map Prod.fst).foldl (fun (s : State) k => s.clearKey k) s
  let (f, s) := s.draw
  s.modVi vi fun v =>
    { Vi.created f with cmdqs := v.cmdqs, log := v.log, tdiRun := v.tdiRun, ide := v.ide, spdm := v.spdm, errs := { counts := [], ring := [], seq := v.errs.seq } }

/-- RESET_VI. -/
def execResetVi (c : Cmd) (s : State) : Out :=
  s.command 0x16 c { reset := true } fun s _ =>
    if s.canStop c.tvi then .done 0 none (s.resetVi c.tvi)
    else .wait (s.modVi c.tvi fun v => { v with active := false })

/-! ## Virtual functions (R428) -/

/-- The VI of virtual function n of a port. -/
def vfVi (port n : Nat) : Nat := 64 * port + n

/-- VF_ENABLE. -/
def execVfEnable (port n : Nat) (s : State) : Out :=
  if 2 ≤ port || n = 0 || 64 ≤ n then .fault .noSuchUnit
  else if (s.vi (vfVi port n)).exists_ || !s.portUp (64 * port) then .next s
  else
    let (f, s) := s.draw
    .next (s.setVi (vfVi port n) (Vi.created f))

/-- VF_DISABLE: RESET_VI, and then the entry goes. -/
def execVfDisable (port n : Nat) (s : State) : Out :=
  if 2 ≤ port || n = 0 || 64 ≤ n then .fault .noSuchUnit
  else if !(s.vi (vfVi port n)).exists_ || !s.portUp (64 * port) then .next s
  else if s.canStop (vfVi port n) then
    let s := s.resetVi (vfVi port n)
    .next { s with vis := tdel s.vis (vfVi port n) }
  else .next (s.modVi (vfVi port n) fun v => { v with active := false })

/-! ## Counters and traces (spec/17_counters_debug.md R389, R391) -/

/-- A core mask: bit c is core c (notes/assumptions/76.md). -/
def coreMask (bs : List Byte) : List Nat := (List.range 1024).filter fun c => (leNat bs).testBit c

/-- READ_COUNTERS: the selectors are set for the VI, and then the four counters of each core are copied. -/
def execReadCounters (c : Cmd) (s : State) : Out :=
  s.command 0x17 c {} fun s _ =>
    if !((List.range 4).all fun k => bitsOf c.a3 (16 * k + 15) (16 * k + 8) == 0) then .fail s 2 else
    s.withBuf c c.a2 128 fun bs s =>
      let cores := coreMask bs
      let at_ := fun (k : Nat) => 0x101000 + 128 * (k % 128)
      let sel := fun (k : Nat) => BitVec.ofNat 64 (bitsOf c.a3 (16 * k + 7) (16 * k) + c.tvi * 2 ^ 16 + 2 ^ 23)
      let t := cores.foldl (fun (t : State) k =>
        (List.range 4).foldl (fun (t : State) j => t.windowPut (dieOfCore k) (at_ k + 8 * j) (sel j)) t) s
      let (ws, t) := (cores.flatMap fun k => (List.range 4).map fun j => (dieOfCore k, at_ k + 32 + 8 * j)).foldl
        (fun (a : List Word × State) p =>
          let (w, u) := a.2.windowValue p.1 p.2 none
          (a.1 ++ [w], u)) ([], t)
      match t.bufWrite c.vi c.a1 (ws.flatMap fun w => leBytes 8 w.toNat) with
      | none => .fail s.draw.2 3
      | some t => .done 0 (some (BitVec.ofNat 64 (8 * ws.length))) t

/-- The selectors of the traced cores are set to values that no rule gives: they are free (R389). -/
def State.freeSelectors (s : State) (cores : List Nat) : State :=
  cores.foldl (fun s k => (List.range 4).foldl (fun (s : State) j =>
    let (f, s) := s.draw
    s.windowPut (dieOfCore k) (0x101000 + 128 * (k % 128) + 8 * j) (Config.freeWord f)) s) s

/-- TRACE_START. -/
def execTraceStart (c : Cmd) (s : State) : Out :=
  s.command 0x18 c {} fun s _ =>
    if !(12 ≤ c.a2.toNat && c.a2.toNat ≤ 30 && 1 ≤ c.a5.toNat && c.a5.toNat ≤ 2 ^ 20) then .fail s 2
    else if (s.vi c.tvi).trace.isSome then .fail s 5
    else s.withBuf c c.a3 128 fun bs s =>
      s.endBuf c c.a1 (leBytes 8 0) none fun s =>
        let t : Trace := { owner := c.vi, buf := c.a1, logb := c.a2.toNat, cores := coreMask bs, kinds := c.a4, period := c.a5.toNat, widx := 0 }
        let s := { s with cores := s.cores.map fun (k : Nat × Core) => (k.1, { k.2 with sampled := tdel k.2.sampled c.tvi }) }
        (s.freeSelectors t.cores).modVi c.tvi fun v => { v with trace := some t }

/-- TRACE_STOP. -/
def execTraceStop (c : Cmd) (s : State) : Out :=
  s.command 0x19 c {} fun s _ =>
    .done 0 ((s.vi c.tvi).trace.map fun t => t.widx) (s.modVi c.tvi fun v => { v with trace := none })

/-! ## Errors, debug and the boot record (spec/17_counters_debug.md R397-R399, R430) -/

/-- The 2,112 bytes of an error block. -/
def ErrBlock.bytes (e : ErrBlock) : List Byte :=
  ((List.range 8).flatMap fun c => leBytes 8 (tget 0 e.counts c).toNat) ++
    (List.range 64).flatMap fun k => match tfind e.ring k with
      | some r => (List.range 4).flatMap fun j => leBytes 8 (r.word j)
      | none => List.replicate 32 0

/-- A die's identity and its 1,024 records. -/
def State.dieRecords (s : State) (d : Nat) : List Byte :=
  (((List.range 8).map fun k => 8 * k) ++ (List.range 4096).map fun k => 0x1000 + 8 * k).flatMap fun off =>
    leBytes 8 (s.windowValue d off none).1.toNat

/-- READ_ERRORS. -/
def execReadErrors (c : Cmd) (s : State) : Out :=
  s.command 0x1D c {} fun s _ =>
    if !(c.a2.toNat < 4 && (!c.a2.getLsbD 1 || c.a3.toNat < 8)) then .fail s 2
    else if c.a2.getLsbD 1 then
      if !isPf c.vi then .fail s 4 else s.endBuf c c.a1 (s.dieRecords c.a3.toNat) (some 32832) fun s => s
    else s.endBuf c c.a1 (s.vi c.tvi).errs.bytes (some 2112) fun s =>
      if c.a2.getLsbD 0 then s.modVi c.tvi fun v => { v with errs := { v.errs with counts := [], ring := [] } } else s

/-- DEBUG. -/
def execDebug (c : Cmd) (s : State) : Out :=
  s.command 0x1C c { wide := true, pf := true } fun s _ =>
    if !(c.a1.toNat < 8192) then .fail s 2 else
    let q := (s.hart c.a1.toNat).irq
    .done 0 (some ((if q.stopReg then 1 else 0) + (if q.stepReg then 2 else 0))) (s.writeStop c.a1.toNat c.a2)

/-- BOOT_RECORD. -/
def execBootRecord (c : Cmd) (s : State) : Out :=
  s.command 0x1B c { wide := true, safe := true } fun s _ =>
    if !(c.a2.toNat < 2) then .fail s 2
    else if c.a2 == 1 && !isPf c.vi then .fail s 4
    else s.endBuf c c.a1 s.fw.boot.bytes none fun s =>
      if c.a2 == 1 then
        let b := { s.fw.boot with recovery := false, steps := Vector.replicate 14 (0, false, 0) }
        { s with fw := { s.fw with boot := b, flash := b } }
      else s

/-! ## Power caps and sheet groups (R435, R438) -/

/-- SET_POWER_CAP: a per-die value of 0 gives the die its share of the module cap (notes/assumptions/78.md). -/
def execSetPowerCap (c : Cmd) (s : State) : Out :=
  s.command 0x0E c { wide := true, pf := true } fun s _ =>
    if !(600 ≤ c.a1.toNat && c.a1.toNat ≤ 2100) then .fail s 2 else
    let s := (List.range 8).foldl (fun (s : State) d =>
      let w := bitsOf c.a2 (8 * d + 7) (8 * d)
      s.modDie d fun y => { y with cap := if w = 0 then none else some (2 * w) }) s
    .done 0 (some c.a1) { s with fw := { s.fw with modCap := c.a1.toNat } }

/-- A copy has elements still to land at sheet addresses. -/
def Copy.onSheet (c : Copy) : Bool :=
  (List.range c.desc.total).any fun e => !c.landed.contains e &&
    ((c.desc.srcSide == .va && isSheet (c.desc.srcAt e)) || (c.desc.dstSide == .va && isSheet (c.desc.dstAt e)))

/-- Sheet traffic of the module is in flight: a copy, or one that waits for its channel. Other sheet accesses are performed within
one step. -/
def State.sheetBusy (s : State) : Bool :=
  (s.harts.any fun (x : Nat × Hart) => x.2.eng.chans.toList.any fun ch => ch.copies.any Copy.onSheet) ||
    s.net.entries.any fun e => match e.post with
      | .copy _ c => c.onSheet
      | _ => false

/-- SHEET_CONFIG. -/
def execSheetConfig (c : Cmd) (s : State) : Out :=
  s.command 0x1A c { wide := true, pf := true } fun s _ =>
    if !(c.a1.toNat < 64) then .fail s 2
    else if s.sheetBusy then .fail s 5 else
    s.withBuf c c.a2 128 fun bs s =>
      let routes := (List.range 64).map fun k => BitVec.ofNat 16 (leNat ((bs.drop (2 * k)).take 2))
      let x : SheetConf := { number := c.a1.toNat, routes := routes, base := c.a3, length := c.a4, vi := c.tvi }
      .done 0 none { s with fw := { s.fw with sheets := x :: s.fw.sheets.filter fun y => y.vi != c.tvi } }

/-! ## Registers written from outside the harts (R423, spec/08_memories.md Table 08.5) -/

/-- What a read of a function's BAR0 gives (R423): a listed register at 8 aligned bytes, 0 at other offsets, and all ones for
another size or where the access is not taken. Tail notify and doorbell registers give the tail held (notes/assumptions/161.md). -/
def State.barRead (s : State) (vi off size : Nat) : Nat × State :=
  let v := s.vi vi
  if size != 8 || off % 8 != 0 || !v.exists_ then (2 ^ (8 * size) - 1, s) else
  let (ok, s) := s.heard vi
  if !ok then (2 ^ 64 - 1, s) else
  let q := v.cmdq ((off - 0x1000) / 0x20)
  (if off < 0x800 then (match tfind v.tables.slots (off / 8) with
      | some q => (s.queue q).tail.toNat
      | none => 0)
    else if off < 0x820 then (v.cmdq ((off - 0x800) / 8)).tail.toNat
    else if off < 0x1000 || 0x1080 ≤ off then 0
    else if off % 0x20 = 0 then q.base.toNat
    else if off % 0x20 = 8 then q.cpl.toNat
    else if off % 0x20 = 16 then q.vector.toNat
    else 0, s)

/-- REGISTER_WRITE: CPLBASE and VECTOR of a command queue, or a register of a window by a writer that may write it. Registers
whose write does more have events of their own. -/
def execRegisterWrite (t : RegTarget) (v : Word) (s : State) : Out :=
  match t with
  | .bar vi off size =>
    if 128 ≤ vi then .fault .noSuchUnit
    else if !(s.vi vi).exists_ || size != 8 || off % 8 != 0 || off < 0x1000 || 0x1080 ≤ off then .next s
    else
      let (ok, s) := s.heard vi
      if !ok then .next s else
      let k := (off - 0x1000) / 0x20
      if off % 0x20 = 8 then .next (s.modVi vi fun y => y.modCmdq k fun q => { q with cpl := v })
      else if off % 0x20 = 16 then .next (s.modVi vi fun y => y.modCmdq k fun q => { q with vector := v.setWidth 6 })
      else .next s
  | .window die off w =>
    if 8 ≤ die then .fault .noSuchUnit
    else if off == 0x100000 || (0x200000 ≤ off && off < 0x220000) then .next s
    else
    let go := fun (mo : Mode) (vi : Nat) => match s.windowWrite die (off / 8 * 8) mo vi v with
      | some s => Host.Outcome.next s
      | none => .next s
    match w with
    | .firmware => go Mode.m 0
    | .super vi => go Mode.s vi
    | .user vi => go Mode.u vi

end Sys2Proof.Machine
end

