-- ==== Sys2Proof/Machine/Power.lean ====
section
/-! DEFINITION. Power and reefing: POWER_INTERVAL and POWER_CAP_OVERRUN (spec/19_host_device.md R434, R435); the boot
sequence: POWER_ON_RESET (R429, R430). -/

namespace Sys2Proof.Machine

open Sys2Proof

/-! ## The power controller -/

/-- The island among those that match whose POWER is highest, or lowest; of equals, the lowest number. -/
def Die.pickIsland (d : Die) (high : Bool) (p : Nat → Island → Bool) : Option Nat :=
  ((List.range 32).filter fun n => p n (d.island n)).foldl (fun (m : Option Nat) n => match m with
    | none => some n
    | some k =>
      let a := (d.island k).power
      let b := (d.island n).power
      if (if high then decide (a < b) else decide (b < a)) then some n else some k) none

def Die.modIsland (d : Die) (n : Nat) (f : Island → Island) : Die := { d with islands := tset d.islands n (f (d.island n)) }

/-- One step down: REEF to 4, then FSTEP, then REEF to 1; none: the die is at its floor (notes/assumptions/78.md). held: the
islands that are held at step 0, whose FSTEP stays (spec/01_machine.md R27). -/
def Die.lower (d : Die) (held : Nat → Bool) : Option Die :=
  match d.pickIsland true fun _ i => 4 < i.reef.toNat with
  | some n => some (d.modIsland n fun i => { i with reef := i.reef - 1 })
  | none =>
    match d.pickIsland true fun n i => !held n && 0 < i.fstep.toNat with
    | some n => some (d.modIsland n fun i => { i with fstep := i.fstep - 1 })
    | none => (d.pickIsland true fun _ i => 1 < i.reef.toNat).map fun n => d.modIsland n fun i => { i with reef := i.reef - 1 }

/-- One step up, in the reverse order. -/
def Die.raise (d : Die) (held : Nat → Bool) : Die :=
  match d.pickIsland false fun _ i => i.reef.toNat < 4 with
  | some n => d.modIsland n fun i => { i with reef := i.reef + 1 }
  | none =>
    match d.pickIsland false fun n i => !held n && i.fstep.toNat < 15 with
    | some n => d.modIsland n fun i => { i with fstep := i.fstep + 1 }
    | none =>
      match d.pickIsland false fun _ i => i.reef.toNat < 16 with
      | some n => d.modIsland n fun i => { i with reef := i.reef + 1 }
      | none => d

/-- The measured power of a die and its cap, both in 1/8 W. -/
def Die.measured (d : Die) : Nat := (List.range 64).foldl (fun a n => a + (d.island n).power.toNat) 0
def State.capOf (s : State) (d : Nat) : Nat := match (s.die d).cap with
  | some w => 8 * w
  | none => s.fw.modCap - 580

/-- POWER_INTERVAL: the islands' POWER is refreshed, those whose lane groups are idle are gated (notes/assumptions/118.md), and the
die is adjusted by one step. -/
def execPowerInterval (die : Nat) (power : List Nat) (s : State) : Out :=
  if 8 ≤ die then .fault .noSuchUnit else
  let d := (List.range 64).foldl (fun (d : Die) n =>
    d.modIsland n fun i => { i with power := BitVec.ofNat 16 (min (power.getD n 0) 0xFFFF), gated := s.idle die n }) (s.die die)
  let now := d.measured
  let cap := s.capOf die
  let d := if cap < now then
      (match d.lower (s.heldLow die) with
        | some d => { d with overcap := 0 }
        | none => { d with overcap := d.overcap + 1 })
    else
      let d := { d with overcap := 0 }
      if 100 * now < 95 * cap then d.raise (s.heldLow die) else d
  .next (s.setDie die d)

/-- POWER_CAP_OVERRUN: 100 intervals at the floor above the cap. -/
def execPowerCapOverrun (die power : Nat) (s : State) : Out :=
  if 8 ≤ die then .fault .noSuchUnit
  else if (s.die die).overcap < 100 || power != (s.die die).measured then .next s
  else
    let s := s.logErr die none 9 (s.capOf die / 8) noHart 0 (BitVec.ofNat 64 power)
    let s := s.modDie die fun d => { d with overcap := 0 }
    .next { s with fw := { s.fw with msix := s.fw.msix ++ [(0, 31), (64, 31)] } }

/-! ## Boot (R429, R430) -/

/-- A step's entry: CODE, FALLBACK, FAILS. -/
def BootRecord.entry (b : BootRecord) (step : Nat) : Byte × Bool × BitVec 2 :=
  (b.steps.toList[step - 1]?).getD (0, false, 0)

def BootRecord.setEntry (b : BootRecord) (step : Nat) (e : Byte × Bool × BitVec 2) : BootRecord :=
  { b with steps := vmod b.steps (step - 1) fun _ => e }

/-- Step 11 is optional: after a failure it is skipped while FAILS ≠ 0. -/
def BootRecord.skips (b : BootRecord) (step : Nat) : Bool := step == 11 && (b.entry 11).2.2 != 0

/-- A start begins. -/
def BootRecord.begin (b : BootRecord) : BootRecord := { b with boots := b.boots + 1 }

/-- Steps 1 to n succeed. -/
def BootRecord.pass (b : BootRecord) (n : Nat) : BootRecord :=
  (List.range n).foldl (fun (b : BootRecord) k =>
    let e := b.entry (k + 1)
    if b.skips (k + 1) then b else b.setEntry (k + 1) (e.1, e.2.1, 0)) b

/-- A step fails. -/
def BootRecord.fail (b : BootRecord) (step : Nat) (code : Byte) : BootRecord :=
  let b := b.pass (step - 1)
  let n := min 3 ((b.entry step).2.2.toNat + 1)
  let b := b.setEntry step (code, true, BitVec.ofNat 2 n)
  { b with laststep := BitVec.ofNat 8 step, recovery := b.recovery || (step != 11 && n == 3) }

/-- The starts of a power-on: each failure named ends one start and the module restarts, until a start passes every step or
the module is in recovery mode (notes/assumptions/79.md). -/
def BootRecord.run (b : BootRecord) : List BootFailure → BootRecord
  | [] => if b.recovery then b.begin else b.begin.pass 14
  | f :: fs =>
    if b.recovery then b.begin
    else if f.step < 1 || 14 < f.step || b.skips f.step then b.begin.pass 14
    else
      (b.begin.fail f.step f.code).run fs

/-- A die is left with no link. -/
def State.lonely (s : State) : Bool :=
  (List.range 8).any fun d => (s.net.links.toList.zip linkPairs).all fun l => !l.1.up || (l.2.1 != d && l.2.2 != d)

/-- The failures of the starts when step 9 fails at the next one that comes to it. -/
def failNine (code : Byte) : List BootFailure → List BootFailure
  | [] => [{ step := 9, code := code }]
  | f :: fs => if f.step < 9 then f :: failNine code fs else { step := 9, code := code } :: f :: fs

/-- The copy of the boot record that step 2 reads: the one with the higher BOOTS, and after a failure of that step the one in flash. -/
def Firmware.record (w : Firmware) : BootRecord :=
  if (w.boot.entry 2).2.1 || w.boot.boots.toNat < w.flash.boots.toNat then w.flash else w.boot

/-- The PCIe ports after step 10, of which one trains at least: the rate and width that each trains at, the first 32 GT/s at most
after a failure of the step, is free (notes/assumptions/161.md). -/
def trained (f : Nat) (slow : Bool) : List PciePort :=
  let w := Config.freeWord f
  let both := w.getLsbD 0
  (List.range 2).map fun p =>
    let n := bitsOf w (8 * p + 9) (8 * p + 2)
    let rate := 2 ^ (6 - n % 4)
    { up := both || w.getLsbD 1 == (p == 1), rate := if slow then min 32 rate else rate, lanes := 2 ^ (3 - n / 4 % 4) }

/-- A port works at less than its full rate or width, or not at all. -/
def reduced (ps : List PciePort) : Bool := ps.any fun p => !p.up || p.rate < 64 || p.lanes < 8

/-- A reduction is recorded in the entry of step 10, in CODE. -/
def BootRecord.note (b : BootRecord) (f : Nat) (ps : List PciePort) : BootRecord :=
  if reduced ps then b.setEntry 10 (Config.freeByte f 0, (b.entry 10).2) else b

/-- The module after a boot with this record: what Table 19.5 says of each step whose FALLBACK is set. hostA, hostB, the boot
record and the module's stepping outlive a reset. -/
def State.booted (s : State) (b : BootRecord) : State :=
  let fb := fun (k : Nat) => (b.entry k).2.1
  let (f, s) := s.draw
  let (k0, s) := s.draw
  let (k1, s) := s.draw
  let slow : Tab Island := (List.range 64).map fun n => (n, { if n < 32 then Island.coreReset else Island.reset with fstep := 8 })
  let dies := if fb 4 then (List.range 8).map fun d => (d, { Die.reset with islands := slow }) else []
  let links := Net.reset.links.map fun l => { l with half := fb 5 }
  let down := s.net.links.toList.any fun l => !l.up
  let links := if !fb 9 then links
    else if down then links.zipWith (fun l old => { l with up := old.up }) s.net.links
    else vmod links ((Config.freeWord f).toNat % 10) fun l => { l with up := false }
  let (p, s) := s.draw
  let ports := trained p (fb 10)
  let b := if b.recovery then b else b.note p ports
  { harts := [], cores := [], dies := dies, slices := [], vis := [(0, Vi.created k0), (64, Vi.created k1)], queues := [],
    phys := { Phys.reset with hostA := s.phys.hostA, hostB := s.phys.hostB },
    net := { Net.reset with congested := s.net.congested, links := links },
    fw := { Firmware.reset with boot := b, flash := b, pcie := ports, log := [imageDigest (if fb 3 then 1 else 0)], modCap := if fb 12 then 1200 else 2100,
                                ports := if b.skips 11 then 0 else BitVec.allOnes 12, nextUid := s.fw.nextUid },
    stepping := s.stepping, agenda := s.agenda, cur := s.cur, fresh := s.fresh }

/-- POWER_ON_RESET. -/
def execPowerOnReset (fails : List BootFailure) (s : State) : Out :=
  let (f, s) := s.draw
  let fails := if s.lonely then failNine (Config.freeByte f 0) fails else fails
  .next (s.booted (s.fw.record.run fails))

end Sys2Proof.Machine
end

