-- ==== Sys2Proof/Machine/Dispatch.lean ====
section
/-! DEFINITION. The meaning of every instruction and event, one arm per constructor. -/

namespace Sys2Proof.Machine

open Sys2Proof

def exec (i : Instr) (s : State) : Host.Outcome State Fault Refusal :=
  match i with
  | .nop => Sys2Proof.Machine.execNop s
  | .li d imm => Sys2Proof.Machine.execLi d imm s
  | .mov d a => Sys2Proof.Machine.execMov d a s
  | .add d a b => Sys2Proof.Machine.execAdd d a b s
  | .addi d a imm => Sys2Proof.Machine.execAddi d a imm s
  | .sub d a b => Sys2Proof.Machine.execSub d a b s
  | .mul d a b => Sys2Proof.Machine.execMul d a b s
  | .mulh d a b => Sys2Proof.Machine.execMulh d a b s
  | .mulhz d a b => Sys2Proof.Machine.execMulhz d a b s
  | .div d a b la => Sys2Proof.Machine.execDiv d a b la s
  | .divz d a b la => Sys2Proof.Machine.execDivz d a b la s
  | .rem d a b la => Sys2Proof.Machine.execRem d a b la s
  | .remz d a b la => Sys2Proof.Machine.execRemz d a b la s
  | .and d a b => Sys2Proof.Machine.execAnd d a b s
  | .andi d a imm => Sys2Proof.Machine.execAndi d a imm s
  | .or d a b => Sys2Proof.Machine.execOr d a b s
  | .ori d a imm => Sys2Proof.Machine.execOri d a imm s
  | .xor d a b => Sys2Proof.Machine.execXor d a b s
  | .xori d a imm => Sys2Proof.Machine.execXori d a imm s
  | .andn d a b => Sys2Proof.Machine.execAndn d a b s
  | .shl d a b => Sys2Proof.Machine.execShl d a b s
  | .shli d a sh => Sys2Proof.Machine.execShli d a sh s
  | .shr d a b => Sys2Proof.Machine.execShr d a b s
  | .shri d a sh => Sys2Proof.Machine.execShri d a sh s
  | .sra d a b => Sys2Proof.Machine.execSra d a b s
  | .srai d a sh => Sys2Proof.Machine.execSrai d a sh s
  | .rotl d a b => Sys2Proof.Machine.execRotl d a b s
  | .rotr d a b => Sys2Proof.Machine.execRotr d a b s
  | .clz d a => Sys2Proof.Machine.execClz d a s
  | .ctz d a => Sys2Proof.Machine.execCtz d a s
  | .popc d a => Sys2Proof.Machine.execPopc d a s
  | .min d a b => Sys2Proof.Machine.execMin d a b s
  | .max d a b => Sys2Proof.Machine.execMax d a b s
  | .umin d a b => Sys2Proof.Machine.execUmin d a b s
  | .umax d a b => Sys2Proof.Machine.execUmax d a b s
  | .slt d a b => Sys2Proof.Machine.execSlt d a b s
  | .slo d a b => Sys2Proof.Machine.execSlo d a b s
  | .seq d a b => Sys2Proof.Machine.execSeq d a b s
  | .sel d a b c => Sys2Proof.Machine.execSel d a b c s
  | .sext d a n => Sys2Proof.Machine.execSext d a n s
  | .zext d a n => Sys2Proof.Machine.execZext d a n s
  | .bfx sg d a pos len => Sys2Proof.Machine.execBfx sg d a pos len s
  | .bfi d a pos len => Sys2Proof.Machine.execBfi d a pos len s
  | .lea d a b sh imm => Sys2Proof.Machine.execLea d a b sh imm s
  | .bswap d a => Sys2Proof.Machine.execBswap d a s
  | .fadd f rm d a b => Sys2Proof.Machine.execFadd f rm d a b s
  | .fsub f rm d a b => Sys2Proof.Machine.execFsub f rm d a b s
  | .fmul f rm d a b => Sys2Proof.Machine.execFmul f rm d a b s
  | .fma f rm d a b c => Sys2Proof.Machine.execFma f rm d a b c s
  | .fms f rm d a b c => Sys2Proof.Machine.execFms f rm d a b c s
  | .fnma f rm d a b c => Sys2Proof.Machine.execFnma f rm d a b c s
  | .fdiv f rm d a b la => Sys2Proof.Machine.execFdiv f rm d a b la s
  | .fsqrt f rm d a la => Sys2Proof.Machine.execFsqrt f rm d a la s
  | .fmin f d a b => Sys2Proof.Machine.execFmin f d a b s
  | .fmax f d a b => Sys2Proof.Machine.execFmax f d a b s
  | .fcmp f k d a b => Sys2Proof.Machine.execFcmp f k d a b s
  | .fcvt f rm sf d a => Sys2Proof.Machine.execFcvt f rm sf d a s
  | .fcvti f rm ty d a => Sys2Proof.Machine.execFcvti f rm ty d a s
  | .icvtf f rm ty d a => Sys2Proof.Machine.execIcvtf f rm ty d a s
  | .fclass f d a => Sys2Proof.Machine.execFclass f d a s
  | .fsgn f k d a b => Sys2Proof.Machine.execFsgn f k d a b s
  | .frnd f rm d a => Sys2Proof.Machine.execFrnd f rm d a s
  | .jmp imm => Sys2Proof.Machine.execJmp imm s
  | .jr a imm => Sys2Proof.Machine.execJr a imm s
  | .br k a b imm => Sys2Proof.Machine.execBr k a b imm s
  | .bz a imm => Sys2Proof.Machine.execBz a imm s
  | .bnz a imm => Sys2Proof.Machine.execBnz a imm s
  | .bvf k imm => Sys2Proof.Machine.execBvf k imm s
  | .call imm => Sys2Proof.Machine.execCall imm s
  | .callr a imm => Sys2Proof.Machine.execCallr a imm s
  | .ret => Sys2Proof.Machine.execRet s
  | .loop a n => Sys2Proof.Machine.execLoop a n s
  | .exit => Sys2Proof.Machine.execExit s
  | .ld w sx d a b imm la => Sys2Proof.Machine.execLd w sx d a b imm la s
  | .st w d a b imm la => Sys2Proof.Machine.execSt w d a b imm la s
  | .ldAcq w sx sc d a b imm la => Sys2Proof.Machine.execLdAcq w sx sc d a b imm la s
  | .stRel w sc d a b imm la => Sys2Proof.Machine.execStRel w sc d a b imm la s
  | .amo op w cmb d a b sc acq rel imm la => Sys2Proof.Machine.execAmo op w cmb d a b sc acq rel imm la s
  | .cas w d a b c sc acq rel imm la => Sys2Proof.Machine.execCas w d a b c sc acq rel imm la s
  | .ldP w sx d a b imm la => Sys2Proof.Machine.execLdP w sx d a b imm la s
  | .stP w d a b imm la => Sys2Proof.Machine.execStP w d a b imm la s
  | .ldL w sx d a b imm la => Sys2Proof.Machine.execLdL w sx d a b imm la s
  | .stL w d a b imm la => Sys2Proof.Machine.execStL w d a b imm la s
  | .pf l2 a b imm la => Sys2Proof.Machine.execPf l2 a b imm la s
  | .cflush a b imm la => Sys2Proof.Machine.execCflush a b imm la s
  | .cinv a b imm la => Sys2Proof.Machine.execCinv a b imm la s
  | .cpin d a b imm la => Sys2Proof.Machine.execCpin d a b imm la s
  | .cunpin d a b imm la => Sys2Proof.Machine.execCunpin d a b imm la s
  | .setvl keep d a ew grp => Sys2Proof.Machine.execSetvl keep d a ew grp s
  | .vcfg which d a ew grp sc rm => Sys2Proof.Machine.execVcfg which d a ew grp sc rm s
  | .vmpush c inv => Sys2Proof.Machine.execVmpush c inv s
  | .vmelse => Sys2Proof.Machine.execVmelse s
  | .vmpop => Sys2Proof.Machine.execVmpop s
  | .vmall => Sys2Proof.Machine.execVmall s
  | .forkLanes d imm => Sys2Proof.Machine.execForkLanes d imm s
  | .joinLanes => Sys2Proof.Machine.execJoinLanes s
  | .vclaim => Sys2Proof.Machine.execVclaim s
  | .vadd d a b m => Sys2Proof.Machine.execVadd d a b m s
  | .vsub d a b m => Sys2Proof.Machine.execVsub d a b m s
  | .vadc d a b c => Sys2Proof.Machine.execVadc d a b c s
  | .vmadc d a b c => Sys2Proof.Machine.execVmadc d a b c s
  | .vsbc d a b c => Sys2Proof.Machine.execVsbc d a b c s
  | .vmsbc d a b c => Sys2Proof.Machine.execVmsbc d a b c s
  | .vmul d a b m => Sys2Proof.Machine.execVmul d a b m s
  | .vmulh d a b m => Sys2Proof.Machine.execVmulh d a b m s
  | .vmulhz d a b m => Sys2Proof.Machine.execVmulhz d a b m s
  | .vmacc d a b m => Sys2Proof.Machine.execVmacc d a b m s
  | .vdiv d a b m la => Sys2Proof.Machine.execVdiv d a b m la s
  | .vdivz d a b m la => Sys2Proof.Machine.execVdivz d a b m la s
  | .vrem sg d a b m la => Sys2Proof.Machine.execVrem sg d a b m la s
  | .vand d a b m => Sys2Proof.Machine.execVand d a b m s
  | .vor d a b m => Sys2Proof.Machine.execVor d a b m s
  | .vxor d a b m => Sys2Proof.Machine.execVxor d a b m s
  | .vshl d a b m => Sys2Proof.Machine.execVshl d a b m s
  | .vshr d a b m => Sys2Proof.Machine.execVshr d a b m s
  | .vsra d a b m => Sys2Proof.Machine.execVsra d a b m s
  | .vmin d a b m => Sys2Proof.Machine.execVmin d a b m s
  | .vmax d a b m => Sys2Proof.Machine.execVmax d a b m s
  | .vumin d a b m => Sys2Proof.Machine.execVumin d a b m s
  | .vumax d a b m => Sys2Proof.Machine.execVumax d a b m s
  | .vcmp k d a b m => Sys2Proof.Machine.execVcmp k d a b m s
  | .vsel d a b c inv => Sys2Proof.Machine.execVsel d a b c inv s
  | .vmov d b m => Sys2Proof.Machine.execVmov d b m s
  | .vid d m => Sys2Proof.Machine.execVid d m s
  | .vcvti sg sat sw d a m => Sys2Proof.Machine.execVcvti sg sat sw d a m s
  | .vpopc d a m => Sys2Proof.Machine.execVpopc d a m s
  | .vfirst d a m => Sys2Proof.Machine.execVfirst d a m s
  | .vlast d a m => Sys2Proof.Machine.execVlast d a m s
  | .vsadd sg d a b m => Sys2Proof.Machine.execVsadd sg d a b m s
  | .vssub sg d a b m => Sys2Proof.Machine.execVssub sg d a b m s
  | .vfadd f rm d a b m => Sys2Proof.Machine.execVfadd f rm d a b m s
  | .vfsub f rm d a b m => Sys2Proof.Machine.execVfsub f rm d a b m s
  | .vfmul f rm d a b m => Sys2Proof.Machine.execVfmul f rm d a b m s
  | .vfma f rm d a b m => Sys2Proof.Machine.execVfma f rm d a b m s
  | .vfms f rm d a b m => Sys2Proof.Machine.execVfms f rm d a b m s
  | .vfnma f rm d a b m => Sys2Proof.Machine.execVfnma f rm d a b m s
  | .vfdiv f rm d a b m la => Sys2Proof.Machine.execVfdiv f rm d a b m la s
  | .vfsqrt f rm d a m la => Sys2Proof.Machine.execVfsqrt f rm d a m la s
  | .vfrsqe f d a m => Sys2Proof.Machine.execVfrsqe f d a m s
  | .vfrece f d a m => Sys2Proof.Machine.execVfrece f d a m s
  | .vfmin f d a b m => Sys2Proof.Machine.execVfmin f d a b m s
  | .vfmax f d a b m => Sys2Proof.Machine.execVfmax f d a b m s
  | .vfcmp f k d a b m => Sys2Proof.Machine.execVfcmp f k d a b m s
  | .vfcvt f rm sf d a m => Sys2Proof.Machine.execVfcvt f rm sf d a m s
  | .vfcvti f rm u d a m => Sys2Proof.Machine.execVfcvti f rm u d a m s
  | .vicvtf f rm u d a m => Sys2Proof.Machine.execVicvtf f rm u d a m s
  | .vfclass f d a m => Sys2Proof.Machine.execVfclass f d a m s
  | .vfsgn f k d a b m => Sys2Proof.Machine.execVfsgn f k d a b m s
  | .vfrnd f rm d a m => Sys2Proof.Machine.execVfrnd f rm d a m s
  | .vslideup d a off pair m => Sys2Proof.Machine.execVslideup d a off pair m s
  | .vslidedn d a off pair m => Sys2Proof.Machine.execVslidedn d a off pair m s
  | .vgatherR d a b pair m => Sys2Proof.Machine.execVgatherR d a b pair m s
  | .vcompress d a pair m => Sys2Proof.Machine.execVcompress d a pair m s
  | .vexpand d a pair m => Sys2Proof.Machine.execVexpand d a pair m s
  | .vredadd sg d a b m => Sys2Proof.Machine.execVredadd sg d a b m s
  | .vredmax sg d a b m => Sys2Proof.Machine.execVredmax sg d a b m s
  | .vredmin sg d a b m => Sys2Proof.Machine.execVredmin sg d a b m s
  | .vfredadd f rm tree d a b m => Sys2Proof.Machine.execVfredadd f rm tree d a b m s
  | .vfredmax f d a b m => Sys2Proof.Machine.execVfredmax f d a b m s
  | .vfredmin f d a b m => Sys2Proof.Machine.execVfredmin f d a b m s
  | .vbfly f rm d a dist m => Sys2Proof.Machine.execVbfly f rm d a dist m s
  | .vextr sg d a b => Sys2Proof.Machine.execVextr sg d a b s
  | .vinsr d a b => Sys2Proof.Machine.execVinsr d a b s
  | .vld d a b imm m la => Sys2Proof.Machine.execVld d a b imm m la s
  | .vst d a b imm m la => Sys2Proof.Machine.execVst d a b imm m la s
  | .vlds d a b imm m la => Sys2Proof.Machine.execVlds d a b imm m la s
  | .vsts d a b imm m la => Sys2Proof.Machine.execVsts d a b imm m la s
  | .vldx d a b iw scale m la => Sys2Proof.Machine.execVldx d a b iw scale m la s
  | .vstx d a b iw scale m la => Sys2Proof.Machine.execVstx d a b iw scale m la s
  | .vldL d a b imm m la => Sys2Proof.Machine.execVldL d a b imm m la s
  | .vstL d a b imm m la => Sys2Proof.Machine.execVstL d a b imm m la s
  | .vldxL d a b iw scale m la => Sys2Proof.Machine.execVldxL d a b iw scale m la s
  | .vstxL d a b iw scale m la => Sys2Proof.Machine.execVstxL d a b iw scale m la s
  | .vpgather d b f m la => Sys2Proof.Machine.execVpgather d b f m la s
  | .vpscatter d b f m la => Sys2Proof.Machine.execVpscatter d b f m la s
  | .vstP d a b imm m la => Sys2Proof.Machine.execVstP d a b imm m la s
  | .vamo op cmb d a b iw scale acq rel m la => Sys2Proof.Machine.execVamo op cmb d a b iw scale acq rel m la s
  | .vldxM d a b iw scale f m la => Sys2Proof.Machine.execVldxM d a b iw scale f m la s
  | .mclr t => Sys2Proof.Machine.execMclr t s
  | .mldT f t a b sp imm la => Sys2Proof.Machine.execMldT f t a b sp imm la s
  | .mstT f rm sat t a b sp imm la => Sys2Proof.Machine.execMstT f rm sat t a b sp imm la s
  | .mldW slot panel form scl a b sp imm la => Sys2Proof.Machine.execMldW slot panel form scl a b sp imm la s
  | .mma f sat t a slot panel row0 la => Sys2Proof.Machine.execMma f sat t a slot panel row0 la s
  | .mvt toTile d a row0 => Sys2Proof.Machine.execMvt toTile d a row0 s
  | .mcmd trap d a b c la => Sys2Proof.Machine.execMcmd trap d a b c la s
  | .mwait => Sys2Proof.Machine.execMwait s
  | .dtabLd n a sp imm la => Sys2Proof.Machine.execDtabLd n a sp imm la s
  | .vcvtQ q d a b m => Sys2Proof.Machine.execVcvtQ q d a b m s
  | .vcvtDq q sat d a m => Sys2Proof.Machine.execVcvtDq q sat d a m s
  | .vscl q sat d a b tab m => Sys2Proof.Machine.execVscl q sat d a b tab m s
  | .vhadq q d a b n m => Sys2Proof.Machine.execVhadq q d a b n m s
  | .cpStart ch a sp imm la => Sys2Proof.Machine.execCpStart ch a sp imm la s
  | .cpSeal d la => Sys2Proof.Machine.execCpSeal d la s
  | .cpWait n => Sys2Proof.Machine.execCpWait n s
  | .sbind out d ch => Sys2Proof.Machine.execSbind out d ch s
  | .sunbind d => Sys2Proof.Machine.execSunbind d s
  | .qPush qh a n la => Sys2Proof.Machine.execQPush qh a n la s
  | .qPop try_ qh d a la => Sys2Proof.Machine.execQPop try_ qh d a la s
  | .qNotify what qh a la => Sys2Proof.Machine.execQNotify what qh a la s
  | .qCancel qh d a la => Sys2Proof.Machine.execQCancel qh d a la s
  | .msgSend mode d a b c qh la => Sys2Proof.Machine.execMsgSend mode d a b c qh la s
  | .hret a => Sys2Proof.Machine.execHret a s
  | .gangForm d a b size => Sys2Proof.Machine.execGangForm d a b size s
  | .gangSplit => Sys2Proof.Machine.execGangSplit s
  | .rastSetup sl d a b => Sys2Proof.Machine.execRastSetup sl d a b s
  | .rastCover sl d a m => Sys2Proof.Machine.execRastCover sl d a m s
  | .rastAttr what sl d a m => Sys2Proof.Machine.execRastAttr what sl d a m s
  | .vsample d a b m la => Sys2Proof.Machine.execVsample d a b m la s
  | .vsampleM d a b f m la => Sys2Proof.Machine.execVsampleM d a b f m la s
  | .rqInit q d a b m la => Sys2Proof.Machine.execRqInit q d a b m la s
  | .rqStep q d n m la => Sys2Proof.Machine.execRqStep q d n m la s
  | .rqGet fld q cand d m => Sys2Proof.Machine.execRqGet fld q cand d m s
  | .rqCommit q m => Sys2Proof.Machine.execRqCommit q m s
  | .rqEnd q => Sys2Proof.Machine.execRqEnd q s
  | .bldCmd d a la => Sys2Proof.Machine.execBldCmd d a la s
  | .fence kind sc => Sys2Proof.Machine.execFence kind sc s
  | .wait k w d a b c sp imm => Sys2Proof.Machine.execWait k w d a b c sp imm s
  | .bar slot => Sys2Proof.Machine.execBar slot s
  | .grpRed op d a slot => Sys2Proof.Machine.execGrpRed op d a slot s
  | .grpBcast d a slot root => Sys2Proof.Machine.execGrpBcast d a slot root s
  | .crr d cr => Sys2Proof.Machine.execCrr d cr s
  | .crw d a cr => Sys2Proof.Machine.execCrw d a cr s
  | .crset d a cr => Sys2Proof.Machine.execCrset d a cr s
  | .crclr d a cr => Sys2Proof.Machine.execCrclr d a cr s
  | .ecall n => Sys2Proof.Machine.execEcall n s
  | .sret => Sys2Proof.Machine.execSret s
  | .brk n => Sys2Proof.Machine.execBrk n s
  | .wfi => Sys2Proof.Machine.execWfi s
  | .icinv all a imm => Sys2Proof.Machine.execIcinv all a imm s
  | .tlbinv kind space a b => Sys2Proof.Machine.execTlbinv kind space a b s
  | .vmld t a b imm la => Sys2Proof.Machine.execVmld t a b imm la s
  | .vmst t a b imm la => Sys2Proof.Machine.execVmst t a b imm la s
  | .bmsk d a m => Sys2Proof.Machine.execBmsk d a m s
  | .mmaS48 sat t a slot panel row0 la => Sys2Proof.Machine.execMmaS48 sat t a slot panel row0 la s
  | .rqSort q d m la => Sys2Proof.Machine.execRqSort q d m la s
  | .waitConditionMet h => Sys2Proof.Machine.execWaitConditionMet h s
  | .waitTimeout h => Sys2Proof.Machine.execWaitTimeout h s
  | .longLatencyComplete h k how => Sys2Proof.Machine.execLongLatencyComplete h k how s
  | .trapEntry h bound => Sys2Proof.Machine.execTrapEntry h bound s
  | .cycleMatch h => Sys2Proof.Machine.execCycleMatch h s
  | .stopTaken h bound => Sys2Proof.Machine.execStopTaken h bound s
  | .stopRegisterWrite h v => Sys2Proof.Machine.execStopRegisterWrite h v s
  | .migrationPlace h => Sys2Proof.Machine.execMigrationPlace h s
  | .matrixClaimGrant h => Sys2Proof.Machine.execMatrixClaimGrant h s
  | .laneReclaim h ceil whom => Sys2Proof.Machine.execLaneReclaim h ceil whom s
  | .reclaimWindowExpiry h late => Sys2Proof.Machine.execReclaimWindowExpiry h late s
  | .fullSwitch h => Sys2Proof.Machine.execFullSwitch h s
  | .contextResume vi unit => Sys2Proof.Machine.execContextResume vi unit s
  | .sequencerRound core => Sys2Proof.Machine.execSequencerRound core s
  | .tailNotifyWrite vi slot x => Sys2Proof.Machine.execTailNotifyWrite vi slot x s
  | .dispatcherConsume q => Sys2Proof.Machine.execDispatcherConsume q s
  | .recordReread q => Sys2Proof.Machine.execRecordReread q s
  | .dispatch q => Sys2Proof.Machine.execDispatch q s
  | .preemptDelayExpiry q => Sys2Proof.Machine.execPreemptDelayExpiry q s
  | .instanceRetire h => Sys2Proof.Machine.execInstanceRetire h s
  | .launchRetire q j => Sys2Proof.Machine.execLaunchRetire q j s
  | .gangFormed h => Sys2Proof.Machine.execGangFormed h s
  | .gangFormTimeout h => Sys2Proof.Machine.execGangFormTimeout h s
  | .copyBegin h ch => Sys2Proof.Machine.execCopyBegin h ch s
  | .copyElementLand h ch e err => Sys2Proof.Machine.execCopyElementLand h ch e err s
  | .pageWalk h inst va => Sys2Proof.Machine.execPageWalk h inst va s
  | .homeAccess k => Sys2Proof.Machine.execHomeAccess k s
  | .rdcInvalidate die line => Sys2Proof.Machine.execRdcInvalidate die line s
  | .peerAccessArrive k lost => Sys2Proof.Machine.execPeerAccessArrive k lost s
  | .atmCombine y x => Sys2Proof.Machine.execAtmCombine y x s
  | .replySplit k => Sys2Proof.Machine.execReplySplit k s
  | .escapeMove die router => Sys2Proof.Machine.execEscapeMove die router s
  | .linkRetrain link flits half => Sys2Proof.Machine.execLinkRetrain link flits half s
  | .linkDown link performed => Sys2Proof.Machine.execLinkDown link performed s
  | .routeRecompute link => Sys2Proof.Machine.execRouteRecompute link s
  | .sheetPortDown port => Sys2Proof.Machine.execSheetPortDown port s
  | .sheetAccessArrive vi asid addr req => Sys2Proof.Machine.execSheetAccessArrive vi asid addr req s
  | .dramScrub die line found => Sys2Proof.Machine.execDramScrub die line found s
  | .handlerActivation slice => Sys2Proof.Machine.execHandlerActivation slice s
  | .handlerReplyPush slice => Sys2Proof.Machine.execHandlerReplyPush slice s
  | .msgReplyArrive h k lost => Sys2Proof.Machine.execMsgReplyArrive h k lost s
  | .remoteMclr k => Sys2Proof.Machine.execRemoteMclr k s
  | .remoteMldT k => Sys2Proof.Machine.execRemoteMldT k s
  | .remoteMstT k => Sys2Proof.Machine.execRemoteMstT k s
  | .remoteMldW k => Sys2Proof.Machine.execRemoteMldW k s
  | .mma16 k => Sys2Proof.Machine.execMma16 k s
  | .mcmdStatusArrive k lost => Sys2Proof.Machine.execMcmdStatusArrive k lost s
  | .primitiveRecord die vi => Sys2Proof.Machine.execPrimitiveRecord die vi s
  | .distributorSetup die vi => Sys2Proof.Machine.execDistributorSetup die vi s
  | .distributorFlush die vi => Sys2Proof.Machine.execDistributorFlush die vi s
  | .distributorFence die vi => Sys2Proof.Machine.execDistributorFence die vi s
  | .distributorFenceCount die vi => Sys2Proof.Machine.execDistributorFenceCount die vi s
  | .distributorClose die vi => Sys2Proof.Machine.execDistributorClose die vi s
  | .bufferFullResume die vi => Sys2Proof.Machine.execBufferFullResume die vi s
  | .tilePost die vi tx ty => Sys2Proof.Machine.execTilePost die vi tx ty s
  | .passEnd die vi => Sys2Proof.Machine.execPassEnd die vi s
  | .reprojectionSetup die vi => Sys2Proof.Machine.execReprojectionSetup die vi s
  | .blockRequest die vi => Sys2Proof.Machine.execBlockRequest die vi s
  | .blendRequest die vi => Sys2Proof.Machine.execBlendRequest die vi s
  | .ticketCommit slice vi ticket => Sys2Proof.Machine.execTicketCommit slice vi ticket s
  | .build die vi k => Sys2Proof.Machine.execBuild die vi k s
  | .refit die vi k => Sys2Proof.Machine.execRefit die vi k s
  | .rebalance die vi k => Sys2Proof.Machine.execRebalance die vi k s
  | .publish die vi k => Sys2Proof.Machine.execPublish die vi k s
  | .retire die vi k => Sys2Proof.Machine.execRetire die vi k s
  | .query die vi k => Sys2Proof.Machine.execQuery die vi k s
  | .powerInterval die power => Sys2Proof.Machine.execPowerInterval die power s
  | .powerCapOverrun die power => Sys2Proof.Machine.execPowerCapOverrun die power s
  | .powerOnReset fails => Sys2Proof.Machine.execPowerOnReset fails s
  | .vfEnable port n => Sys2Proof.Machine.execVfEnable port n s
  | .vfDisable port n => Sys2Proof.Machine.execVfDisable port n s
  | .commandDoorbell vi cq tail => Sys2Proof.Machine.execCommandDoorbell vi cq tail s
  | .cqbaseWrite vi cq v => Sys2Proof.Machine.execCqbaseWrite vi cq v s
  | .rdcwaysWrite die v => Sys2Proof.Machine.execRdcwaysWrite die v s
  | .ownershipWrite core block by_ v => Sys2Proof.Machine.execOwnershipWrite core block by_ v s
  | .registerWrite t v => Sys2Proof.Machine.execRegisterWrite t v s
  | .identify c => Sys2Proof.Machine.execIdentify c s
  | .attest c => Sys2Proof.Machine.execAttest c s
  | .createAs c => Sys2Proof.Machine.execCreateAs c s
  | .destroyAs c => Sys2Proof.Machine.execDestroyAs c s
  | .map c => Sys2Proof.Machine.execMap c s
  | .unmap c => Sys2Proof.Machine.execUnmap c s
  | .migrate c => Sys2Proof.Machine.execMigrate c s
  | .loadCode c => Sys2Proof.Machine.execLoadCode c s
  | .createQueue c => Sys2Proof.Machine.execCreateQueue c s
  | .destroyQueue c => Sys2Proof.Machine.execDestroyQueue c s
  | .setKey c => Sys2Proof.Machine.execSetKey c s
  | .clearKey c => Sys2Proof.Machine.execClearKey c s
  | .setShare c => Sys2Proof.Machine.execSetShare c s
  | .setPowerCap c => Sys2Proof.Machine.execSetPowerCap c s
  | .createGroupTemplate c => Sys2Proof.Machine.execCreateGroupTemplate c s
  | .createCap c => Sys2Proof.Machine.execCreateCap c s
  | .createAstruct c => Sys2Proof.Machine.execCreateAstruct c s
  | .setRdc c => Sys2Proof.Machine.execSetRdc c s
  | .pinQuota c => Sys2Proof.Machine.execPinQuota c s
  | .installHandlers c => Sys2Proof.Machine.execInstallHandlers c s
  | .setBudget c => Sys2Proof.Machine.execSetBudget c s
  | .resetVi c => Sys2Proof.Machine.execResetVi c s
  | .readCounters c => Sys2Proof.Machine.execReadCounters c s
  | .traceStart c => Sys2Proof.Machine.execTraceStart c s
  | .traceStop c => Sys2Proof.Machine.execTraceStop c s
  | .sheetConfig c => Sys2Proof.Machine.execSheetConfig c s
  | .bootRecord c => Sys2Proof.Machine.execBootRecord c s
  | .debug c => Sys2Proof.Machine.execDebug c s
  | .readErrors c => Sys2Proof.Machine.execReadErrors c s
  | .setQmap c => Sys2Proof.Machine.execSetQmap c s
  | .setTrap c => Sys2Proof.Machine.execSetTrap c s
  | .assignMem c => Sys2Proof.Machine.execAssignMem c s
  | .setPool c => Sys2Proof.Machine.execSetPool c s
  | .hostHold vi slot hold => Sys2Proof.Machine.execHostHold vi slot hold s
  | .spdmOverDoe port request => Sys2Proof.Machine.execSpdmOverDoe port request s

end Sys2Proof.Machine
end

