-- ==== Sys2Proof/Machine/Fetch.lean ====
section
/-! DEFINITION. Instruction fetch and the front-end (spec/02_encoding.md R47-R50, spec/01_machine.md R35), the vector
instruction queue (spec/01_machine.md Table 01.2), and the errors and interrupts that come before an instruction (R58,
spec/18_traps.md R402). -/

namespace Sys2Proof.Machine

open Sys2Proof

/-- A line through a core's instruction cache: a copy that differs from memory may answer, or may have been dropped (R50). -/
def State.icRead (s : State) (core : Nat) (x : Xlat) (p : Place) : Got × State :=
  let key := p.lineKey x.tag
  let (g, s) := s.netRead (dieOfCore core) x p.lineStart 128
  let now := lineBits g.1
  let fill := fun (s : State) =>
    if g.2 then s.modCore core fun c => { c with icache := tdel c.icache key }
    else
      let (t, s) := s.fillWay 8 l1Set (s.core core).icache key now
      s.modCore core fun c => { c with icache := t }
  match tfind (s.core core).icache key with
  | some old =>
    if old = now && !g.2 then ((bitsBytes old 0 128, false), s)
    else
      let (f, s) := s.draw
      if Config.freeBit f then ((bitsBytes old 0 128, false), s)
      else ((bitsBytes now 0 128, g.2), fill s)
  | none => ((bitsBytes now 0 128, g.2), fill s)

/-- The words of a fetch line from an instruction address in the space of a hart to the line's end; IFETCH_PAGE when the line
cannot be fetched, the ACCESS of a register window that refuses the fetch (spec/14_translation.md R336), and LINK_LOST when the
line is lost on a link (spec/12_engines_handlers.md R298). -/
def State.fetch (s : State) (h : Nat) (pc : Word) : Except Cause (List (BitVec 128)) × State :=
  let w := s.who h
  let (r, s) := s.xlate w true .fetch pc
  match r with
  | .error c => (.error c, s)
  | .ok x =>
    let p := place (x.page * 4096 + pc.toNat % 4096)
    match p with
    | .dram _ | .host _ _ =>
      let k := p.offInLine / 16
      let (l, s) := s.lostTo w (.mem x p)
      match l with
      | some b => (.error .linkLost, s.linkErr w p.addr b)
      | none =>
      let (g, s) := s.icRead w.core x p
      if g.2 then (.error .dataEcc, s)
      else (.ok ((List.range' k (8 - k)).map fun i => wordOfBytes ((g.1.drop (16 * i)).take 16)), s)
    | .window .. => (.error .access, s)
    | _ => (.error .ifetchPage, s)

/-! ## The vector instruction queue (R49) -/

/-- The class of a word: bits 9 to 6 of its OPC (Table 02.6). -/
def classOf (w : BitVec 128) : Nat := w.toNat % 1024 / 64

/-- Classes whose words are placed in the VIQ: 0x4 to 0xB, 0xE and 0xF. -/
def viqClass (c : Nat) : Bool := (4 ≤ c && c ≤ 0xB) || 0xE ≤ c

def viqWord (w : BitVec 128) : Bool := viqClass (classOf w)

/-- The words fetched for a hart that it has not executed, from its pc on. -/
def Hart.ahead (x : Hart) : List (Word × BitVec 128) := x.fetched.dropWhile fun e => e.1 != x.core.pc

/-- The words fetched for a hart, or by the leader of its gang for every member, that it has not executed. -/
def State.aheadOf (s : State) (h : Nat) : List (Word × BitVec 128) :=
  let x := s.hart h
  match x.gang with
  | none => x.ahead
  | some g => (s.hart (g.members.headD h)).fetched.dropWhile fun e => e.1 != x.core.pc

/-- VIQ entries that a hart holds: words fetched for it that have not issued, and its instructions that wait for a place
(spec/01_machine.md Table 01.4). -/
def State.viqOf (s : State) (h : Nat) : Nat :=
  ((s.aheadOf h).filter fun e => viqWord e.2).length + (s.net.entries.filter fun e => e.hart == h && s.entryLive e).length

/-- Table 01.2: the VIQ entries that a hart may hold, as the 128 of its core and the 8 guaranteed to each other hart
allow, at most 64. -/
def State.viqShare (s : State) (h : Nat) : Nat :=
  min 64 (128 - (((hartsOf (coreOf h)).filter (· != h)).map fun k => max 8 (s.viqOf k)).sum)

/-- The VIQ entries that may still be filled for a hart: a gang's leader fetches for every member. -/
def State.viqRoom (s : State) (h : Nat) : Nat :=
  (match (s.hart h).gang with
    | none => [h]
    | some g => g.members).foldl (fun n k => min n (s.viqShare k - s.viqOf k)) 64

/-- Words placed for a hart until its share of the VIQ is full. -/
def viqFit : Nat → List (Word × BitVec 128) → List (Word × BitVec 128)
  | _, [] => []
  | room, e :: es =>
    if viqWord e.2 then (match room with
      | 0 => []
      | r + 1 => e :: viqFit r es)
    else e :: viqFit room es

/-! ## What follows `bvf` (spec/05_scalar_isa.md R120) -/

/-- The instruction writes VFLAGS. -/
def setsVflags : Instr → Bool
  | .vcmp .. | .vfcmp .. | .vmadc .. | .vmsbc .. | .vmpush .. | .vmelse | .vpgather .. | .vpscatter .. | .vldxM .. |
    .vsampleM .. | .rqStep .. => true
  | .crw _ _ cr | .crset _ _ cr | .crclr _ _ cr => cr == 0x00C
  | _ => false

/-- Words up to a `bvf` that waits for VFLAGS; pending: an earlier instruction that writes them has not completed. -/
def untilBvf : Bool → List (Word × BitVec 128) → List (Word × BitVec 128)
  | _, [] => []
  | pending, e :: es =>
    match decode e.2 with
    | .ok (.bvf ..) => if pending then [e] else e :: untilBvf pending es
    | .ok i => e :: untilBvf (pending || setsVflags i) es
    | _ => e :: untilBvf pending es

/-- A window of the hart will write VFLAGS. -/
def Hart.flagsOpen (x : Hart) : Bool := x.windows.any fun w => w.sets

/-- Words that the front-end may hold for a hart. -/
def Hart.untilBvf (x : Hart) (l : List (Word × BitVec 128)) : List (Word × BitVec 128) := Machine.untilBvf x.flagsOpen l

/-- The front-end fetches nothing past a `bvf` of the hart. -/
def Hart.bvfWaits (x : Hart) : Bool :=
  let l := x.ahead
  (match (x.untilBvf l).getLast? with
    | some e => (match decode e.2 with
      | .ok (.bvf ..) => Machine.untilBvf x.flagsOpen (l ++ [(e.1 + 16, 0)]) == x.untilBvf l
      | _ => false)
    | none => false)

/-! ## Turns of the front-end (R35) -/

/-- The front-end fetches for a hart: it runs instructions of its own, and does not follow a gang's leader. -/
def State.fetches (s : State) (h : Nat) : Bool :=
  let x := s.hart h
  (match x.core.st with
    | .running => true
    | .trapped => !(x.core.mode == .m)
    | _ => false) && (match x.gang with
    | some g => g.members.head? == some h
    | none => true)

/-- One fetch line for a hart: that of its pc, or the one after what it holds. -/
def State.fetchLineFor (s : State) (h : Nat) : Except Cause Unit × State :=
  let x := s.hart h
  let l := x.ahead
  let pc := match l.getLast? with
    | some e => e.1 + 16
    | none => x.core.pc
  let (r, s) := s.fetch h pc
  match r with
  | .error c => (.error c, s)
  | .ok ws =>
    let new := ws.zipIdx.map fun e => (pc + BitVec.ofNat 64 (16 * e.2), e.1)
    (.ok (), s.modHart h fun x => { x with fetched := x.untilBvf (l ++ viqFit (s.viqRoom h) new) })

/-- The harts of a core in the order of their turns: firmware harts ahead of the others, which follow round robin. -/
def State.frontOrder (s : State) (c : Nat) : List Nat :=
  let k := (s.core c).front % 8
  let hs := ((hartsOf c).drop k) ++ (hartsOf c).take k
  hs.filter isFirmwareHart ++ hs.filter fun h => !isFirmwareHart h

/-- A hart takes a turn: it gets a line unless its share of the VIQ is full or its `bvf` waits, and the next hart follows. -/
def State.frontTurn (s : State) (h : Nat) : Except Cause Unit × State :=
  let (r, s) := if s.viqRoom h = 0 || (s.hart h).bvfWaits then (.ok (), s) else s.fetchLineFor h
  (r, s.modCore (coreOf h) fun c => { c with front := (h + 1) % 8 })

/-- The front-end of a core serves its next hart. -/
def State.front (s : State) (c : Nat) : State :=
  match (s.frontOrder c).find? s.fetches with
  | none => s
  | some h => (s.frontTurn h).2

/-- A hart has executed what was fetched for it: the harts before it take their turns, and then it takes its own. -/
def State.serve (s : State) (h : Nat) : Except Cause Unit × State :=
  let first := ((s.frontOrder (coreOf h)).takeWhile (· != h)).filter s.fetches
  (first.foldl (fun s k => (s.frontTurn k).2) s).frontTurn h

/-- The front-end fetches the line of an address ahead for a hart into the instruction cache (R50). -/
def State.fetchAhead (s : State) (h : Nat) (va : Word) : State :=
  if s.fetches h && !(s.hart h).bvfWaits then (s.fetch h va).2 else s

/-- The error that a long-latency instruction without a destination reports: at the instruction that waits for it (R58). -/
def Hart.dueError (x : Hart) : Option Poison :=
  x.pendErr <|> if x.counted then none else (x.windows.filter fun w => w.left == 0 && w.await == .nothing).findSome? fun w => w.err

/-- What a hart meets before its next instruction: an error, or an interrupt. -/
def State.before (s : State) (h : Nat) : Option State :=
  let x := s.hart h
  match x.dueError with
  | some p => some (s.takeTrap h { cause := p.cause.toCause, tval := p.addr } false false id)
  | none =>
    match x.nextIntr, x.irq.split with
    | some i, none => some (s.takeIntr h i)
    | _, _ => none

end Sys2Proof.Machine
end

