-- ==== Sys2Proof/Machine/Turn.lean ====
section
/-! DEFINITION. A hart's turn: one instruction fetched, decoded and executed, alone or in a gang, and the strips of a
sequencer round. -/

namespace Sys2Proof.Machine

open Sys2Proof

/-! ## Issue arbitration (spec/01_machine.md R36, R37) -/

/-- DEF of a queue on a core while the charge of an instruction is measured. -/
def measureDef : Nat := 2 ^ 40

/-- An instruction executed with its charge measured: what it answers, and the charge, which is not taken off DEF. -/
def State.measured (s : State) (i : Instr) : Nat × Out :=
  let c := coreOf s.cur
  let q := s.me.who.queue.toNat
  let d := tget 0 (s.core c).deficit q
  match exec i (s.modCore c fun y => { y with deficit := tset y.deficit q (d + measureDef) }) with
  | .next t =>
    let n := d + measureDef - tget 0 (t.core c).deficit q
    (n, .next (t.modCore c fun y => { y with deficit := (s.core c).deficit }))
  | o => (0, o)

/-- Before an instruction issues, the windows that it waits for have landed; a waiting instruction has been counted already
(R55). none: it goes on waiting. -/
def Hart.counting (x : Hart) : Option Hart :=
  if x.counted then some x else x.openIssue.map fun y => { y with counted := true }

/-- The instruction, of a class, may access memory, ports, engines or other harts: those of classes 0x3 and 0x8 to 0xE, and
`call`, `callr` and `ret`, which use the stack (spec/05_scalar_isa.md R122, R123). -/
def accesses (i : Instr) (c : Nat) : Bool := match i with
  | .call .. | .callr .. | .ret .. => true
  | _ => c = 3 || (8 ≤ c && c ≤ 0xE)

/-- An atomic of the hart on its way, or a pop that waits, holds back what comes after it: an acquire, every access
(spec/09_consistency.md R217, R221); any atomic, the accesses of the stack and of units that could meet its location unseen
(R214; notes/assumptions/143.md). -/
def State.atomicHolds (s : State) (i : Instr) (c : Nat) : Bool :=
  accesses i c && ((s.me.windows.any fun w => w.acq && w.await != .nothing) ||
    (c != 3 && c != 8 && s.atmsOpen s.me.who.uid))

/-- A strip that is ready in the VIQ. -/
structure Strip where
  hart   : Nat
  queue  : Nat
  prio   : Nat
  charge : Nat
  deriving DecidableEq, Repr

/-- The next word of a hart that follows its own fetch. -/
def Hart.nextWord (x : Hart) : Option (BitVec 128) := x.ahead.head?.map Prod.snd

/-- The strip of a hart other than the current one: it is RUNNING or in a handler, nothing comes before its next instruction,
which is in the VIQ and can issue. -/
def State.readyStrip (s : State) (h : Nat) : Option Strip :=
  let x := s.hart h
  let runs := match x.core.st with
    | .running => true
    | .trapped => !x.served
    | _ => false
  let (lead, granted) := match x.gang with
    | some g => (g.members.headD h, g.granted.any fun e => e.1 == h)
    | none => (h, false)
  if !runs || granted || isFirmwareHart h || (s.before h).isSome then none else
  match (s.hart lead).fetched.find? fun e => e.1 == x.core.pc with
  | none => none
  | some (_, w) =>
    match decode w, viqWord w, x.counting with
    | .ok i, true, some y =>
      let t := { s.setHart h y with cur := h }
      let (n, _) := t.measured i
      if n = 0 || t.atomicHolds i (classOf w) then none else some { hart := h, queue := x.who.queue.toNat, prio := x.who.prio.toNat, charge := n }
    | _, _, _ => none

/-- The strips of a queue in turn: round robin from its rotor. -/
def Core.inTurn (c : Core) (q : Nat) (l : List Strip) : List Strip :=
  let k := tget 0 c.rotor q
  let l := l.filter fun e => e.queue == q
  (l.filter fun e => k ≤ e.hart) ++ l.filter fun e => e.hart < k

/-- The strip that a queue may issue with what its DEF covers. -/
def Core.affords (c : Core) (q : Nat) (l : List Strip) : Option Strip :=
  (c.inTurn q l).find? fun e => e.charge ≤ tget 0 c.deficit q

/-- The queue is visited in a round of a priority: DEF gains its weight. -/
def Core.visit (c : Core) (p q weight : Nat) : Core :=
  { c with deficit := tset c.deficit q ((tget 0 c.deficit q + weight * 128) % 2 ^ 32), serving := tset c.serving p q }

/-- The queue visited last at a priority has no ready hart: its DEF is 0. -/
def Core.quit (c : Core) (p : Nat) (qs : List Nat) : Core :=
  match tfind c.serving p with
  | some q => if qs.contains q then c else { c with deficit := tdel c.deficit q }
  | none => c

/-- The round of a priority ends: the next begins at the lowest queue, with the weights as they are then. -/
def Core.endRound (c : Core) (p : Nat) : Core :=
  { c with serving := tdel c.serving p, weights := c.weights.filter fun e => e.1 / 4096 != p }

/-- WEIGHT of a queue in the round of a priority: a change waits for the next round (spec/11_queues_scheduling.md R265). -/
def Core.weightIn (c : Core) (p : Nat) (weight : Nat → Nat) (q : Nat) : Nat := (tfind c.weights (4096 * p + q)).getD (weight q)

/-- No hart has a strip ready: no round goes on. -/
def Core.idle (c : Core) : Core :=
  { c with deficit := c.deficit.filter fun d => !c.serving.any fun e => e.2 == d.1, serving := [], weights := [] }

/-- The first queue of a list that, visited, can issue a strip. -/
def Core.visits (c : Core) (p : Nat) (weight : Nat → Nat) (l : List Strip) : List Nat → Option (Strip × Core)
  | [] => none
  | q :: qs =>
    let d := (c.visit p q (c.weightIn p weight q)).quit p (l.map fun e => e.queue)
    match d.affords q l with
    | some e => some (e, d)
    | none => d.visits p weight l qs

/-- The highest priority of the ready strips. -/
def topPrio (l : List Strip) : Nat := l.foldl (fun m e => max m e.prio) 0

/-- The strip that issues next (R36) among the ready ones, with the arbitration after it: of the highest priority, and of the
queue being served while its DEF covers one; otherwise of the queues above it in this round, and, when wrap lets the next
round begin, from the lowest. The round of a lower priority stands where it was. -/
def Core.nextStrip (c : Core) (weight : Nat → Nat) (l : List Strip) (wrap : Bool) : Option (Strip × Core) :=
  let p := topPrio l
  let l := l.filter fun e => e.prio == p
  let qs := (l.map fun e => e.queue).eraseDups.mergeSort
  let c := c.quit p qs
  let at_ := match tfind c.serving p with
    | some q => if qs.contains q then (c.affords q l).map fun e => (e, c) else none
    | none => none
  match at_ with
  | some r => some r
  | none =>
    let later := match tfind c.serving p with
      | some q => qs.filter fun k => q < k
      | none => qs
    match c.visits p weight l later with
    | some r => some r
    | none => if wrap then (c.endRound p).visits p weight l qs else none

/-- The strip has issued: its queue is charged, and its next hart follows. -/
def Core.issued (c : Core) (e : Strip) : Core :=
  { c with deficit := tset c.deficit e.queue (tget 0 c.deficit e.queue - e.charge),
           rotor := tset c.rotor e.queue (e.hart + 1) }

/-- WEIGHT of a launch queue, 1 to 255 (spec/11_queues_scheduling.md Table 11.1). -/
def State.weightOf (s : State) (q : Nat) : Nat := max 1 (s.queue q).weight

/-- The sequencer of its core lets a hart issue a strip of this charge now: the core's arbitration after it. -/
def State.grant (s : State) (h charge : Nat) : Option Core :=
  let x := s.hart h
  let own : Strip := { hart := h, queue := x.who.queue.toNat, prio := x.who.prio.toNat, charge := charge }
  let others := ((hartsOf (coreOf h)).filter (· != h)).filterMap s.readyStrip
  match (s.core (coreOf h)).nextStrip s.weightOf (own :: others) true with
  | some (e, c) => if e.hart = h then some (c.issued e) else none
  | none => none

/-- The arbitration of a core. -/
def State.setArbiter (s : State) (core : Nat) (c : Core) : State :=
  s.modCore core fun y => { y with deficit := c.deficit, serving := c.serving, weights := c.weights, rotor := c.rotor }

/-- A window that has let all its instructions issue awaits a pop (spec/11_queues_scheduling.md R269), or a command that
`mwait` waits for (spec/07_matrix_isa.md R181): the hart is WAITING. -/
def State.waitDue (s : State) (i : Instr) : Bool := s.me.windows.any fun w => w.left == 0 && match w.await with
  | .entry k => s.net.entries.any fun e => e.isPop && e.id == k
  | .mcmd _ => i == .mwait
  | _ => false

/-- The register fields of an instruction. -/
def regField (w : BitVec 128) (at_ : Nat) : Reg := w.extractLsb' at_ 6

/-- A hart x that is y once it has completed an instruction of a class: whether the g register that it wrote depends on a read of
memory (spec/09_consistency.md R216, R219; notes/assumptions/158.md). -/
def Hart.depend (x y : Hart) (i : Instr) (cl : Nat) : Hart :=
  match encode i with
  | none => y
  | some w =>
    if y.core.pc == x.core.pc || y.frames.length != x.frames.length then y else
    let d := regField w 14
    let of := fun (at_ : Nat) => regField w at_ != 0 && x.deps.getLsbD (regField w at_).toNat
    let put := fun (b : Bool) =>
      let m : BitVec 64 := BitVec.ofNat 64 (2 ^ d.toNat)
      { y with deps := if b then y.deps ||| m else y.deps &&& ~~~m }
    match i with
    | .ld .. | .ldAcq .. | .amo .. | .cas .. => put true
    | _ => if cl ≤ 1 then put (of 20 || of 26 || of 32 || (cl == 1 && of 14))
      else if y.readG d == x.readG d then y else put true

/-- An instruction of the current hart has been executed. -/
def State.depend (s : State) (i : Instr) (cl : Nat) : Out → Out
  | .next t => .next (t.modHart s.cur fun y => s.me.depend y i cl)
  | o => o

/-- An instruction of a class issues: lookahead windows that end here complete first, with the error that one of them left
(R58). One that enters the vector unit issues when its core's sequencer comes to it, and stays in the VIQ until then. -/
def State.issue (s : State) (cl : Nat) (i : Instr) : Out :=
  match s.me.counting with
  | none => if s.waitDue i then s.waitPoll else s.stall
  | some x =>
    let s := s.setMe x
    match x.dueError with
    | some p => .next (s.takeTrap s.cur { cause := p.cause.toCause, tval := p.addr } false false id)
    | none =>
      if s.atomicHolds i cl then s.stall else
      if !viqClass cl then s.depend i cl (exec i s) else
      match s.measured i with
      | (0, o) => s.depend i cl o
      | (n, .next t) =>
        (match s.grant s.cur n with
          | some c => s.depend i cl (.next (t.setArbiter (coreOf s.cur) c))
          | none => s.stall)
      | (_, o) => o

/-- Checks 1 to 3 of spec/02_encoding.md Table 02.2, and then the instruction. -/
def State.runWord (s : State) (w : BitVec 128) : Out :=
  match decode w with
  | .illegal => s.trap .illegal (w.setWidth 64)
  | .reserved => s.trap .rsvdField (w.setWidth 64)
  | .ok i => s.issue (classOf w) i

/-- The word at the pc, fetched when it has to be; none: it cannot be placed before an entry of the VIQ is free. -/
def State.nextWord (s : State) : Option (Except Cause (BitVec 128)) × State :=
  match s.me.nextWord with
  | some w => (some (.ok w), s)
  | none =>
    let (r, s) := s.serve s.cur
    match r with
    | .error c => (some (.error c), s)
    | .ok _ => (s.me.nextWord.map .ok, s)

/-- One instruction of a hart outside a gang. -/
def State.runOne (s : State) : Out :=
  let pc := s.me.core.pc
  if pc.toNat % 16 ≠ 0 then s.trap .ifetchAlign pc else
  let (r, s) := s.nextWord
  match r with
  | none => s.stall
  | some (.error c) => s.trap c pc
  | some (.ok w) => s.runWord w

/-! ## Gangs (spec/01_machine.md R32, R33, spec/11_queues_scheduling.md R273) -/

/-- The instruction only moves the pc or the loop: the leader decides it. -/
def leaderDecides : Instr → Bool
  | .jmp .. | .jr .. | .br .. | .bz .. | .bnz .. | .bvf .. | .loop .. => true
  | _ => false

/-- A member may complete the instruction before the others: it stores nothing, and a member that it is taken back from does it
again. Any other completes in all of them at once. -/
def completesAlone : Instr → Bool
  | .wait .. | .wfi | .bar .. | .grpRed .. | .grpBcast .. | .fence .. | .tlbinv .. | .icinv .. => true
  | _ => false

/-- The instruction in one member, once its core's sequencer has come to it. -/
def State.memberDo (s : State) (cl : Nat) (i : Instr) (lead m : Nat) : Out :=
  let s := { s with cur := m }
  match (s.hart m).core.st with
  | .running | .waiting .poll | .trapped =>
    let s := s.modMe Hart.resume
    if leaderDecides i && m != lead then s.done id
    else s.depend i cl (if viqClass cl then (s.measured i).2 else exec i s)
  | _ => .next s

/-- The instruction in a member that has left the gang by it: it does it as a hart in no gang (R33). -/
def State.aloneDo (s : State) (cl : Nat) (i : Instr) (m : Nat) : Out :=
  match s.quitGang m with
  | none => .next s
  | some s => ({ s with cur := m }.modMe Hart.resume).issue cl i

/-- Before an instruction issues in the members, the windows that it waits for complete in each; and whether they have. -/
def State.gangCount (s : State) (i : Instr) (ms : List Nat) : State × Bool :=
  ms.foldl (fun (r : State × Bool) m => match (r.1.hart m).counting with
    | some x => (r.1.setHart m x, r.2)
    | none => (if { r.1 with cur := m }.waitDue i then r.1.modHart m fun x => x.setSt (.waiting .poll) else r.1, false)) (s, true)

/-- The sequencer of a member's core has come to the gang's instruction. -/
def State.gangGrant (s : State) (g : Gang) (m n : Nat) : State :=
  g.members.foldl (fun s k => s.modHart k fun y => { y with gang := y.gang.map fun g => { g with granted := (m, n) :: g.granted } }) s

/-- The sequencers of the members' cores come to the instruction, where it issues (R273); and whether all of them have. A
member that it does not issue in, for a trap or a wait, needs none. -/
def State.gangGrants (s : State) (i : Instr) (g : Gang) (ms : List Nat) : State × Bool :=
  ms.foldl (fun (r : State × Bool) m =>
    if ((r.1.hart m).gang.getD g).granted.any fun e => e.1 == m then r else
      match ({ r.1 with cur := m }.measured i).1 with
      | 0 => r
      | n => match r.1.grant m n with
        | some c => ((r.1.setArbiter (coreOf m) c).gangGrant g m n, r.2)
        | none => (r.1, false)) (s, true)

/-- The instruction in each of the members in turn; at the end, with keep, those that have completed it wait for the others,
and otherwise, unless all have, none has. -/
def State.gangEach (cl : Nat) (i : Instr) (lead : Nat) (keep : Bool) (s0 : State) (all : List Nat) : List Nat → State → Out
  | [], s =>
    if keep || all.all fun m => !(s.hart m).counted then .next s
    else .next (all.foldl (fun t m => if (s.hart m).counted then t.setHart m (s.hart m) else t) s0)
  | m :: ms, s =>
    match s.memberDo cl i lead m with
    | .next t =>
      if (t.hart m).gang.isNone then s0.aloneDo cl i m
      else State.gangEach cl i lead keep s0 all ms (if keep && !(t.hart m).counted then t.gangDone m (s.hart m) else t)
    | o => o

/-- Every member has completed the instruction. -/
def State.gangSync (s : State) (lead : Nat) : State :=
  match (s.hart lead).gang with
  | none => s
  | some g => if g.members.all fun m => g.finished.contains m || !(s.hart m).counted then s.gangNext lead else s

/-- The instruction in the members that have not completed it. An error that is due in one is taken first (R58). -/
def State.gangRun (s : State) (cl : Nat) (i : Instr) (lead : Nat) (g : Gang) (todo : List Nat) : Out :=
  let (s, ready) := s.gangCount i todo
  match todo.findSome? fun m => (s.hart m).dueError.map fun p => (m, p) with
  | some (m, p) => .next (s.takeTrap m { cause := p.cause.toCause, tval := p.addr } false false id)
  | none =>
    if !ready || todo.any fun m => { s with cur := m }.atomicHolds i cl then .next s else
    let (s, ready) := if viqClass cl then s.gangGrants i g todo else (s, true)
    if !ready then .next s else
    match State.gangEach cl i lead (completesAlone i) s todo todo s with
    | .next t => .next (t.gangSync lead)
    | o => o

/-- gang.split enters the vector unit of every member's core (R273): it issues when all their sequencers have come to it. -/
def State.gangLeave (s : State) (members : List Nat) : Out :=
  let cs := members.filterMap fun m => (s.grant m (s.hart m).G).map fun c => (coreOf m, c)
  if cs.length < members.length then s.stall else
  match exec .gangSplit s with
  | .next t => .next (if (t.hart s.cur).gang.isNone then cs.foldl (fun t e => t.setArbiter e.1 e.2) t else t)
  | o => o

/-- A turn taken as another hart. -/
def State.as (s : State) (h : Nat) (f : State → Out) : Out :=
  match f { s with cur := h } with
  | .next t => .next { t with cur := s.cur }
  | o => o

/-- The word of a gang's current instruction, as the leader fetched it. -/
def State.gangWord (s : State) (lead : Nat) (pc : Word) : Option (Except Cause (BitVec 128)) × State :=
  match (s.hart lead).fetched.find? fun e => e.1 == pc with
  | some e => (some (.ok e.2), s)
  | none =>
    if (s.hart lead).core.pc == pc then s.nextWord else
      let (r, s) := s.fetch lead pc
      (match r with
        | .ok ws => ws.head?.map .ok
        | .error c => some (.error c), s)

/-- A gang's turn: the leader's space is fetched from. -/
def State.gangTurn (s : State) (g : Gang) : Out :=
  let lead := g.members.headD s.cur
  let todo := g.members.filter fun m => !g.finished.contains m
  let pc := (s.hart (todo.headD lead)).core.pc
  if todo.isEmpty then .next (s.gangNext lead) else
  s.as lead fun s =>
    let (r, s) := s.gangWord lead pc
    match r with
    | none => s.stall
    | some (.error c) => s.trap c pc
    | some (.ok w) =>
      match decode w with
      | .illegal => s.trap .illegal (w.setWidth 64)
      | .reserved => s.trap .rsvdField (w.setWidth 64)
      | .ok .gangSplit => s.gangLeave g.members
      | .ok i => s.gangRun (classOf w) i lead g todo

/-! ## Turns -/

/-- A stop inside the instruction that has been asked for is asked for no longer. -/
def unsplit (h : Nat) : Out → Out
  | .next s => .next (s.modHart h fun x => { x with irq := { x.irq with split := none } })
  | o => o

/-- The hart's next instruction, or what it does while it waits. -/
def State.proceed (s : State) : Out :=
  let x := s.me
  match x.core.st with
  | .free | .migrating => .next s
  | .waiting .wfi => .next (if s.irqPending s.cur then s.endWfi s.cur else s)
  | .waiting .poll | .running | .trapped =>
    (match x.gang with
      | some g => s.gangTurn g
      | none =>
        if x.irq.split.isSome then unsplit s.cur (s.modMe Hart.resume).runOne
        else if x.core.st == x.runSt then s.runOne else (s.modMe Hart.resume).runOne)
  | .waiting _ => .next s

/-- A turn of the current hart. A firmware hart runs ROM text, which the spec does not give: its jobs are events
(notes/assumptions/7.md). -/
def State.turn (s : State) : Out :=
  let x := s.me
  if x.core.st == .free || isFirmwareHart s.cur then .next s
  else if x.served then .next (s.firmware s.cur)
  else match s.before s.cur with
    | some t => .next t
    | none => s.proceed

/-! ## Strips (spec/01_machine.md R36) -/

/-- The next strip of a core's sequencer round issues, and the round goes on; with none left it has ended. -/
def State.strip (s : State) (core : Nat) : Out :=
  let c := s.core core
  match c.nextStrip s.weightOf ((hartsOf core).filterMap s.readyStrip) false with
  | none =>
    let l := (hartsOf core).filterMap s.readyStrip
    let p := topPrio l
    .next (s.setArbiter core (if l.isEmpty then c.idle else (c.quit p (l.map fun e => e.queue)).endRound p))
  | some (e, _) =>
    match State.turn { s with cur := e.hart } with
    | .next t =>
      let d := t.core core
      let moved := d.deficit != c.deficit || d.serving != c.serving || d.rotor != c.rotor
      .next { t with cur := s.cur, agenda := if moved then .strip core :: t.agenda else t.agenda }
    | o => o

/-! ## The agenda -/

/-- One entry of the agenda. An instruction that a hart fetches is not an event: it does nothing here. -/
def State.act (s : State) : Act → Out
  | .turn h => if 8192 ≤ h then .fault .noSuchUnit else State.turn { s with cur := h }
  | .ev i => if (encode i).isSome then .next s else exec i s
  | .elapse h n => if 8192 ≤ h then .fault .noSuchUnit else .next (s.elapse h n)
  | .front core => if 1024 ≤ core then .fault .noSuchUnit else .next (s.front core)
  | .ahead h va => if 8192 ≤ h then .fault .noSuchUnit else .next (s.fetchAhead h va)
  | .strip core => if 1024 ≤ core then .fault .noSuchUnit else s.strip core
  | .badCommand vi cq => .next (s.endBad vi cq)
  | .congestion on => .next { s with net := { s.net with congested := on } }
  | .enterQueue k => .next (s.enterQueue k)
  | .store k => .next (s.performStore k)
  | .ecc site bad met => .next (s.ecc site bad met)
  | .host w => .next (s.hostWrite w)
  | .occur h code n => .next (s.occur h code n)
  | .tally die off n => .next (s.tally die off n)
  | .traceWriter core busy =>
    if 1024 ≤ core then .fault .noSuchUnit else .next (s.modCore core fun c => { c with busyWriter := busy })

/-! ## A program placed for the next step -/

/-- Where readyToRun puts the instruction, the tables that map it and their leaf: die-local addresses of die 0. -/
def runPc : Nat := 0x200000
def runTables : Nat := 0x100000

/-- Table pointers and the leaf of 2 MiB that map virtual 0x200000-0x3FFFFF to itself, readable and for mode U
(spec/14_translation.md R336 allows no WR in an instruction space). -/
def runEntries : List (Nat × Nat) :=
  let ptr := fun (t : Nat) => 3 + t
  [(runTables, ptr (runTables + 0x1000)), (runTables + 0x1000, ptr (runTables + 0x2000)),
   (runTables + 0x2000, ptr (runTables + 0x3000)), (runTables + 0x3008, 0x200000 + 0xD1 + 2 ^ 50 + 2 ^ 51)]

/-- A word where hart cur's next fetch finds it: the hart runs with one lane group in VI 0, at an address that its instruction
space maps, and nothing else acts first. -/
def State.readyToRun (s : State) (w : BitVec 128) : State :=
  let h := s.cur
  let ws := runEntries.map fun e => (e.1, leBytes 8 e.2)
  let dram := (ws ++ [(runPc, bytesOfWord w)]).foldl (fun m e => Memory.writeN m e.1 e.2) s.phys.dram
  let s := { s with phys := { s.phys with dram := dram }, agenda := [],
                    fw := { s.fw with assigned := (0, 0x40000000, 0) :: s.fw.assigned } }
  s.modHart h fun x =>
    { x with
      fetched := [], counted := false,
      core := { x.core with st := .running, pc := BitVec.ofNat 64 runPc, mode := .u },
      lanes := { x.lanes with grant := [(0, 0)] },
      sys := { x.sys with space := { iroot := BitVec.ofNat 36 (runTables / 4096), droot := BitVec.ofNat 36 (runTables / 4096), asid := 0 } } }

end Sys2Proof.Machine
end

