-- ==== Sys2Proof/Machine/Step.lean ====
section
/-! DEFINITION. One step of the module, and placing an instruction where the next step fetches it. -/

namespace Sys2Proof.Machine

open Sys2Proof

/-- One step: what the agenda names, or a turn of the current hart when it names nothing (notes/assumptions/1.md). -/
def step (s : State) : Host.Outcome State Fault Refusal :=
  match s.agenda with
  | [] => s.turn
  | a :: rest => State.act { s with agenda := rest } a

/-- The state with an instruction of nbits bits w (the bits above them 0) at the pc of its current hart, and that hart
running it next (notes/assumptions/12.md). -/
def State.withFetchWord (s : State) (nbits w : Nat) : State := s.readyToRun (BitVec.ofNat 128 (w % 2 ^ nbits))

end Sys2Proof.Machine
end

