-- ==== Sys2Proof/Safety.lean ====
section
/-! DEFINITION. What a safe run is, and what statements say of one instruction: statements are made in these terms. -/

namespace Sys2Proof.Safety

open Sys2Proof Sys2Proof.Machine

/-! ## Runs -/

/-- A state reached from another by steps that each answer a next state. -/
inductive Reaches : State → State → Prop where
  | refl (s : State) : Reaches s s
  | tail {s t u : State} : Reaches s t → step t = .next u → Reaches s u

/-- No step of a run from s faults or is refused. -/
def Safe (s : State) : Prop := ∀ t, Reaches s t → ∃ u, step t = .next u

/-- The agenda names only units that the module has, and no step that the model lacks. -/
def Proper (s : State) : Prop := ∃ u, step s = .next u

/-! ## Invariants -/

/-- Every memory of the module is in its canonical form: rising addresses, and no byte listed that is 0. -/
structure Canonical (s : State) : Prop where
  dram  : s.phys.dram.wf = true
  hostA : s.phys.hostA.wf = true
  hostB : s.phys.hostB.wf = true
  lane  : ∀ e ∈ s.cores, e.2.lane.wf = true
  slice : ∀ e ∈ s.slices, e.2.scratch.wf = true

/-! ## What an instruction changes -/

/-- t is s but for the current hart and for what the event counters of the cores have counted. -/
structure OnlyMe (s t : State) : Prop where
  harts : ∀ h, h ≠ s.cur → t.hart h = s.hart h
  cores : ∀ c, { t.core c with events := (s.core c).events } = s.core c
  rest  : { t with harts := s.harts, cores := s.cores } = s

/-- The outcome is a next state in which the current hart is x, and nothing else of s has changed. -/
def Gives (o : Out) (s : State) (x : Hart) : Prop := ∃ t, o = .next t ∧ t.me = x ∧ OnlyMe s t

/-- The outcome is a next state in which the current hart is x, and P holds. -/
def Ends (o : Out) (x : Hart) (P : State → Prop) : Prop := ∃ t, o = .next t ∧ t.me = x ∧ P t

/-- The outcome is a next state, and P holds in it. -/
def Becomes (o : Out) (P : State → Prop) : Prop := ∃ t, o = .next t ∧ P t

/-- The outcome is a next state in which hart h is x, and nothing else of s has changed. -/
def Sets (o : Out) (s : State) (h : Nat) (x : Hart) : Prop :=
  ∃ t, o = .next t ∧ t.hart h = x ∧ (∀ k, k ≠ h → t.hart k = s.hart k) ∧ { t with harts := s.harts } = s

/-- The instruction completes with the hart y as its result: the pc moves on and the hart runs on
(spec/05_scalar_isa.md R124). -/
def Completes (o : Out) (s : State) (y : Hart) : Prop := Gives o s y.advance.retire

/-- The instruction completes with the hart y as its result, and the hart goes on at t. -/
def CompletesAt (o : Out) (s : State) (t : Word) (y : Hart) : Prop := Gives o s (y.goto t).retire

/-- What a long-latency instruction at pc leaves of its results (spec/02_encoding.md R54, R55): they are written at once with
LA = 0, and held by a new window otherwise. acc: the instruction is an access, which a fence waits for
(spec/10_memory_isa.md R245). -/
def results (x : Hart) (pc : Word) (la : BitVec 4) (gw : List (Reg × Word × Option Poison)) (vw : List VWrite)
    (fl : BitVec 5) (acc : Bool := true) : Hart :=
  let w : Window := { pc := pc, left := la.toNat, gw := gw, vw := vw, fl := fl, await := .nothing, acc := acc }
  if la == 0 then x.land w else { x with windows := x.windows ++ [w] }

/-- The trace records of the hart's VI are off (spec/17_counters_debug.md R391). -/
def Untraced (s : State) : Prop := (s.vi s.me.who.vi.toNat).trace = none

/-- The outcome is a next state in which the current hart has gone on at t with the result y; but for a trace record,
nothing else of s has changed. -/
def Branches (o : Out) (s : State) (t : Word) (y : Hart) : Prop :=
  ∃ u, o = .next u ∧ u.me = (y.goto t).retire ∧ (Untraced s → OnlyMe s u)

/-- The outcome is the trap c with this TVAL (spec/18_traps.md R403). -/
def Traps (o : Out) (s : State) (c : Cause) (tval : Word) : Prop := o = .next (s.takeTrap s.cur { cause := c, tval := tval } false false id)

/-- The hart is in no gang, or has not yet completed its gang's current instruction (spec/01_machine.md R33). -/
def AtInstr (x : Hart) (h : Nat) : Prop := ∀ g, x.gang = some g → ∀ b ∈ g.before, b.hart ≠ h

/-- None of the registers is poisoned in the hart, and none holds the status of a command that failed its capability. -/
def Clean (x : Hart) (rs : List Reg) : Prop :=
  x.gPoisonOf rs = none ∧ ∀ c ∈ x.caps, ∀ r ∈ rs, r.toNat ≠ c.1

/-! ## Vector instructions -/

/-- The vector unit of the hart can issue at once: not frozen by a trap, every register landed, no stream bound, no poisoned
element, no stop part-way asked for, and VL and G within their limits (spec/01_machine.md R21, R22). -/
structure VReady (x : Hart) : Prop where
  claimed : x.frozen = false
  landed  : x.core.vs.landed = BitVec.allOnes 1024
  unbound : x.core.vs.binds = []
  sound   : x.core.vs.vPoison = []
  unsplit : x.irq.split = none
  vl      : x.vl ≤ x.vlmax
  groups  : x.G ≤ 16

/-- Register r begins a group of elements of width w (spec/02_encoding.md R46, spec/06_vector_isa.md R128). -/
def GroupOk (x : Hart) (r : Reg) (w : Nat) : Prop := x.core.vs.cfg.aligned r.toNat w = true

/-- The registers of a mask operand exist (spec/06_vector_isa.md R129). -/
def MaskOk (x : Hart) (m : Mask) : Prop := ∀ c ∈ maskRegs m, c.toNat + x.core.vs.cfg.p ≤ 64

/-- The second operand can be read: a group, a g register that is not poisoned, or an immediate that fits (R130). -/
def SecondOk (x : Hart) (b : VSrc) (float : Bool) : Prop :=
  match b with
  | .vec r => GroupOk x r x.ew
  | .gpr r => Clean x [r]
  | .imm _ => immFits float x.ew b = true

/-- Writing elements of group d leaves every later element of group r alone: they are one group, or share no register. -/
def Clear (x : Hart) (d : Reg) (dw : Nat) (r : Reg) (w : Nat) : Prop :=
  (r = d ∧ w = dw) ∨ overlaps r.toNat (x.core.vs.cfg.groupSize w) d.toNat (x.core.vs.cfg.groupSize dw) = false

/-- y is x after a vector instruction that changes elements of one group: element i is what upd names and all others stay,
VSTART is 0, the flags fl are raised and VFLAGS is vf. Nothing else differs. -/
structure VecEffect (x y : Hart) (d : Reg) (w : Nat) (upd : Nat → Option Nat) (fl : BitVec 5) (vf : VFlags) : Prop where
  elems : ∀ i, d.toNat + i / x.perReg w < 64 → y.elem d.toNat w i = (upd i).getD (x.elem d.toNat w i)
  regs  : ∀ r, r < d.toNat ∨ d.toNat + x.core.vs.cfg.groupSize w ≤ r → y.core.vs.reg r = x.core.vs.reg r
  rest  : y = { x with core := { x.core with fflags := x.core.fflags ||| fl,
                                             vs := { x.core.vs with vstart := 0, flags := vf, v := y.core.vs.v } } }

/-- A kind E instruction (spec/06_vector_isa.md R131): the active elements from VSTART to VL − 1 become f's values and the
others stay; flags are gathered by OR. With LA ≠ 0 a window holds the results. -/
def Elementwise (s : State) (o : Out) (d : Reg) (w : Nat) (m : Mask) (la : BitVec 4) (f : Nat → Nat × Flags) : Prop :=
  let x := s.me
  let on := fun i => decide (x.vstart ≤ i) && decide (i < x.vl) && x.active m i
  let fl := (List.range x.vl).foldl (fun (a : Flags) i => if on i then a ||| (f i).2 else a) 0
  let upd := fun i => if on i then some ((f i).1 % 2 ^ w) else none
  (la = 0 → ∃ y, Completes o (s.charge x.beats) y ∧ VecEffect x y d w upd fl x.core.vs.flags) ∧
  (la ≠ 0 → ∃ win : Window, win.left = la.toNat ∧ win.fl = fl ∧ win.gw = [] ∧ win.await = .nothing ∧
    Completes o (s.charge x.beats)
      { x.modVs (fun v => { v with vstart := 0 }) with windows := x.windows ++ [win] })

/-- A kind M instruction (R133, R134): with VSTART below VL, each active element below VL becomes all ones or zero; VFLAGS
says whether none, some or all of them are true. -/
def MaskResult (s : State) (o : Out) (d : Reg) (m : Mask) (f : Nat → Bool × Flags) : Prop :=
  let x := s.me
  let on := fun i => decide (x.vstart < x.vl) && decide (i < x.vl) && x.active m i
  let es := (List.range x.vl).filter on
  let upd := fun i => if on i then some (if (f i).1 then 2 ^ x.ew - 1 else 0) else none
  let some_ := es.any fun i => (f i).1
  ∃ y, Completes o (s.charge x.beats) y ∧
    VecEffect x y d x.ew upd (es.foldl (fun (a : Flags) i => a ||| (f i).2) 0)
      { n := !some_, s := some_, a := !es.isEmpty && es.all fun i => (f i).1 }

/-- A kind S instruction (R133): g[D] becomes v, the flags fl are raised and VSTART is 0. -/
def ScalarResult (s : State) (o : Out) (d : Reg) (v : Nat) (fl : Flags) : Prop :=
  Completes o (s.charge s.me.beats)
    (((s.me.writeG d (BitVec.ofNat 64 v)).raise fl).modVs fun v => { v with vstart := 0 })

/-- The active elements below VL of an instruction that is never split: none when VSTART ≥ VL (R133). -/
def actives (x : Hart) (m : Mask) : List Nat :=
  (List.range x.vl).filter fun i => decide (x.vstart < x.vl) && x.active m i

/-- The active units of an element move: elements, or with PAIR = 1 runs of 32 codes (spec/06_vector_isa.md R152). -/
def moveUnits (x : Hart) (m : Mask) (pair : Bool) : List Nat :=
  if pair then (List.range (x.vl / 32)).filter fun n => decide (x.vstart < x.vl) && x.active m (32 * n) else actives x m

/-- An element move (R150, R152): upd names, for each unit of v[D], that it stays, becomes zero or becomes a unit of v[A]. With
PAIR = 1 a unit is 32 codes and the scale word of the register that follows. -/
def Moves (s : State) (o : Out) (d a : Reg) (pair : Bool) (upd : Nat → Option (Option Nat)) : Prop :=
  let x := s.me
  let p := x.core.vs.cfg.p
  let cell := fun (w : Nat) (r : Nat) (k n : Nat) (src : Option Nat) => match src with
    | some j => x.elem r w (n * j + k)
    | none => 0
  ∃ y, Completes o (s.charge x.beats) y ∧
    (pair = false → VecEffect x y d x.ew (fun i => (upd i).map (cell x.ew a.toNat 0 1)) 0 x.core.vs.flags) ∧
    (pair = true →
      (∀ u < x.vlmax / 32, ∀ k < 32, y.elem d.toNat 8 (32 * u + k) =
        ((upd u).map (cell 8 a.toNat k 32)).getD (x.elem d.toNat 8 (32 * u + k))) ∧
      (∀ u < x.vlmax / 32, y.elem (d.toNat + p) 32 u =
        ((upd u).map (cell 32 (a.toNat + p) 0 1)).getD (x.elem (d.toNat + p) 32 u)) ∧
      (∀ r, r < d.toNat ∨ d.toNat + 2 * p ≤ r → y.core.vs.reg r = x.core.vs.reg r) ∧
      y = { x with core := { x.core with vs := { x.core.vs with vstart := 0, v := y.core.vs.v } } })

/-! ## Vector accesses and the matrix unit -/

/-- The state in which a vector instruction performs its accesses: its strip is charged. -/
def issued (s : State) : State := (s.setMe s.me).charge s.me.beats

/-- No atomic or store of the hart is on its way to its home (spec/12_engines_handlers.md R295). -/
def NoAtomic (s : State) : Prop := s.atmsOpen s.me.who.uid = false

/-- The probe of the elements of a vector access that take part (spec/10_memory_isa.md R239); idx: an indexed element translates
through the TLB bank of its lane group (R240). -/
def probed (s : State) (sp : VSpace) (k : AKind) (idx : Bool) (m : Mask) (addr : Nat → Word) : List Probed × State :=
  let x := s.me
  let r := (issued s).probeElems sp k x.core.vs.cfg.ew.bytes (fun i => if idx then some (x.groupOf x.ew i) else none) {}
    (((List.range x.vl).filter fun i => decide (x.vstart ≤ i) && x.active m i).map fun i => (i, addr i))
  (r.1, r.2.2)

/-- The operand that a list of elements combines to (spec/09_consistency.md R224). -/
def combined (op : AmoOp) (n : Nat) (v : Nat → Nat) : List Nat → Nat
  | [] => 0
  | e :: es => es.foldl (fun a i => amoNew op n a (v i)) (v e)

/-- The requests of a vector atomic one after another: each element with the value it reads. -/
def amoRequests (s : State) (op : AmoOp) (n : Nat) (v : Nat → Nat) :
    List (List Probed) → List (Nat × Nat × Option Poison) × State
  | [] => ([], s)
  | g :: gs =>
    let es := g.map Prod.fst
    match g with
    | (_, _, .ok (.data t)) :: _ =>
      let A := s.amoTarget (s.who s.cur) t n fun o => some (amoNew op n o (combined op n v es))
      let old := A.1.1
      let now := es.zipIdx.map fun e => (e.1, if e.2 = 0 then old else amoNew op n old (combined op n v (es.take e.2)), A.1.2)
      let R := amoRequests A.2 op n v gs
      (now ++ R.1, R.2)
    | _ => amoRequests s op n v gs

/-- An element of a vector access waits for an access that comes before it: one of the hart that is on its way to those bytes
(spec/09_consistency.md R214), a copy's to a block whose ownership the element would change (spec/10_memory_isa.md R234), or an
atomic of the core that is on its way to the same home (spec/12_engines_handlers.md R292). -/
def Behind (s : State) (k : AKind) (P : List Probed × State) : Prop :=
  P.1.any (P.2.heldElem ((issued s).who s.cur) k true s.me.core.vs.cfg.ew.bytes) = true

/-- A vector load whose elements all pass the probe and hold no poison: each becomes the value at its address (R239, R240), unless
one of them waits. -/
def Loads (s : State) (o : Out) (sp : VSpace) (idx : Bool) (d : Reg) (m : Mask) (la : BitVec 4) (addr : Nat → Word) : Prop :=
  let x := s.me
  let P := probed s sp .load idx m addr
  let L := P.2.loadElems x.core.vs.cfg.ew.bytes P.1
  (∀ p ∈ P.1, faultOf p = none) → (Behind s .load P → o = .next s) ∧ (¬Behind s .load P → (∀ e ∈ L.1, e.2.2 = none) →
    (la = 0 → ∃ y, Completes o L.2 y ∧
      VecEffect L.2.me y d x.ew (fun i => (L.1.find? fun e => e.1 == i).map fun e => e.2.1 % 2 ^ x.ew) 0 x.core.vs.flags) ∧
    (la ≠ 0 → ∃ win : Window, win.left = la.toNat ∧ win.fl = 0 ∧ win.gw = [] ∧ win.await = .nothing ∧
      Completes o L.2 { L.2.me.modVs (fun v => { v with vstart := 0 }) with windows := L.2.me.windows ++ [win] }))

/-- A vector store whose elements all pass the probe: the walker sets D, and each element is written at its address, in
ascending order, unless one of them waits. -/
def Stores (s : State) (o : Out) (sp : VSpace) (idx send : Bool) (d : Reg) (m : Mask) (la : BitVec 4) (addr : Nat → Word) :
    Prop :=
  let x := s.me
  let P := probed s sp .store idx m addr
  let u := (P.2.dirtyElems P.1).storeElems send x.core.vs.cfg.ew.bytes (fun i => x.elem d.toNat x.ew i) P.1
  (∀ p ∈ P.1, faultOf p = none) → (Behind s .store P → o = .next s) ∧
    (¬Behind s .store P → Completes o u (results (u.me.modVs fun v => { v with vstart := 0 }) u.me.core.pc la [] [] 0))

/-- The core's matrix claim is free, or the hart's instance holds it (spec/07_matrix_isa.md R158). -/
def CanClaim (s : State) : Prop :=
  (s.matrix (coreOf s.cur)).claim = none ∨ (s.matrix (coreOf s.cur)).claim = some s.me.who.claim

/-- The state with the matrix unit claimed by the hart's instance. -/
def held (s : State) : State :=
  if (s.matrix (coreOf s.cur)).claim.isSome then s else s.giveClaim (coreOf s.cur) s.me.who.claim

/-- The elements of a vsample one after another, walks of earlier ones serving later ones; none: one of them stops it
(spec/13_raster_shading.md R331). -/
def sampledRun (s : State) (desc : Sampler) (d b : Reg) (m : Mask) (memo : Walks) : List Nat → Option State
  | [] => some s
  | i :: is =>
    if (s.me.samplePoison b m i).isSome then none
    else if s.me.active m i = false then sampledRun s desc d b m memo is
    else match s.sampleElem desc b memo i with
      | (.ok (cs, fl, p), memo, t) => sampledRun
          (t.modMe fun y => (y.modVs fun v => (y.sampleWrites d i cs p).foldl VState.landV v).raise fl) desc d b m memo is
      | _ => none

/-! ## Commands -/

/-- A command at its turn that passes every check made before its own (spec/19_host_device.md R423, R427, R430): it is the
first of its queue, no earlier command acts on one of its objects (R424), its function may name its TVI and issue it, the
module offers it, and the VI takes it. -/
structure Issued (s : State) (op : Nat) (c : Cmd) (k : CmdSort) (begun : Bool) : Prop where
  vi    : c.vi < 128
  cq    : c.cq < 4
  first : ∃ q, ((s.vi c.vi).cmdq c.cq).todo.head? = some q ∧ q.cmd = some (op, c) ∧ q.begun = begun ∧
    s.outrun (cmdObjects op c) q.turn = false
  names : s.cmdNames c k.wide = true
  sane  : s.fw.boot.recovery = false ∨ k.safe = true
  may   : k.pf = false ∨ isPf c.vi = true
  taken : k.reset = true ∨ ((s.vi c.vi).active = true ∧ (k.wide = true ∨ (s.vi c.tvi).active = true))

/-- The command completes with this status and, when one is given, this RESULT; P holds of the module at its completion. -/
def Answers (o : Out) (c : Cmd) (status : Nat) (r : Option Word) (P : State → Prop) : Prop :=
  ∃ u, P u ∧ o = .next (u.complete c.vi c.cq c.tag status r)

/-- The command completes with this status and has had no effect. -/
def Refuses (o : Out) (s : State) (c : Cmd) (status : Nat) : Prop :=
  Answers o c status none fun u => { u with fresh := s.fresh } = s

/-- The command waits: the module is as it was but for what P says. -/
def Waits (o : Out) (s : State) (P : State → Prop) : Prop :=
  ∃ t, P t ∧ t.fw.lastDone = s.fw.lastDone ∧ o = .next t

end Sys2Proof.Safety
end

