-- ==== Sys2Proof/Certificates/Slice0/Obligations.lean ====
section
/-! DEFINITION. The statements for the provers, in the order of OBLIGATIONS.json. -/

open Sys2Proof Sys2Proof.Machine Sys2Proof.Safety

/-- From R108, Table 05.1: each instruction completes, writes the result of its row to g[D] and changes nothing else.
Arithmetic wraps, and a shift by register takes bits [5:0] of g[B]. -/
def Obligations.ScalarIntegerResults : Prop :=
  ∀ (s : State) (d a b c : Reg) (imm : Word) (n : BitVec 6) (k : BitVec 3),
    let x := s.me
    let A := x.readG a
    let B := x.readG b
    let C := x.readG c
    let sh := B.toNat % 64
    let w := fun (i : Instr) (src : List Reg) (v : Word) => Clean x src → Completes (exec i s) s (x.writeG d v)
    Completes (exec .nop s) s x ∧ w (.li d imm) [] imm ∧ w (.mov d a) [a] A ∧
    w (.add d a b) [a, b] (A + B) ∧ w (.addi d a imm) [a] (A + imm) ∧ w (.sub d a b) [a, b] (A - B) ∧
    w (.mul d a b) [a, b] (A * B) ∧ w (.lea d a b k imm) [a, b] (A + B <<< k.toNat + imm) ∧
    w (.and d a b) [a, b] (A &&& B) ∧ w (.andi d a imm) [a] (A &&& imm) ∧ w (.or d a b) [a, b] (A ||| B) ∧
    w (.ori d a imm) [a] (A ||| imm) ∧ w (.xor d a b) [a, b] (A ^^^ B) ∧ w (.xori d a imm) [a] (A ^^^ imm) ∧
    w (.andn d a b) [a, b] (A &&& ~~~B) ∧
    w (.shl d a b) [a, b] (A <<< sh) ∧ w (.shli d a n) [a] (A <<< n.toNat) ∧ w (.shr d a b) [a, b] (A >>> sh) ∧
    w (.shri d a n) [a] (A >>> n.toNat) ∧ w (.sra d a b) [a, b] (A.sshiftRight sh) ∧
    w (.srai d a n) [a] (A.sshiftRight n.toNat) ∧
    w (.rotl d a b) [a, b] (A <<< sh ||| A >>> (64 - sh)) ∧ w (.rotr d a b) [a, b] (A >>> sh ||| A <<< (64 - sh)) ∧
    w (.min d a b) [a, b] (if A.toInt ≤ B.toInt then A else B) ∧
    w (.max d a b) [a, b] (if A.toInt ≤ B.toInt then B else A) ∧
    w (.umin d a b) [a, b] (if A.toNat ≤ B.toNat then A else B) ∧
    w (.umax d a b) [a, b] (if A.toNat ≤ B.toNat then B else A) ∧
    w (.slt d a b) [a, b] (if A.toInt < B.toInt then 1 else 0) ∧
    w (.slo d a b) [a, b] (if A.toNat < B.toNat then 1 else 0) ∧
    w (.seq d a b) [a, b] (if A = B then 1 else 0) ∧
    w (.sel d a b c) [a, b, c] (if C ≠ 0 then A else B)

/-- From R108, R109, Table 05.2: products are exact, and the quotient and remainder satisfy A = q B + r with the quotient
rounded toward zero; by zero the quotient is all ones and the remainder the dividend, and the most negative number by −1
gives itself and 0. Results of a division come with its window. From R108, R110: bit counts, extensions, bit fields and the
byte swap, each by what every bit of its result is. -/
def Obligations.MultiplyAndBitFields : Prop :=
  (∀ (s : State) (d a b : Reg) (la : BitVec 4),
    let x := s.me
    let A := x.readG a
    let B := x.readG b
    let w := fun (i : Instr) (p : Word → Prop) => ∃ v, p v ∧ Completes (exec i s) s (x.writeG d v)
    let l := fun (i : Instr) (p : Word → Prop) =>
      ∃ v, p v ∧ Completes (exec i s) s (results x x.core.pc la [(d, v, none)] [] 0 false)
    Clean x [a, b] →
      w (.mulh d a b) (fun v => v.toInt = A.toInt * B.toInt / 2 ^ 64) ∧
      w (.mulhz d a b) (fun v => v.toNat = A.toNat * B.toNat / 2 ^ 64) ∧
      l (.div d a b la) (fun v => (B = 0 → v = BitVec.allOnes 64) ∧
        (B ≠ 0 → v = BitVec.ofInt 64 (A.toInt.tdiv B.toInt))) ∧
      l (.divz d a b la) (fun v => (B = 0 → v = BitVec.allOnes 64) ∧ (B ≠ 0 → v.toNat = A.toNat / B.toNat)) ∧
      l (.rem d a b la) (fun v => (B = 0 → v = A) ∧ (B ≠ 0 → v.toInt = A.toInt.tmod B.toInt)) ∧
      l (.remz d a b la) (fun v => (B = 0 → v = A) ∧ (B ≠ 0 → v.toNat = A.toNat % B.toNat))) ∧
  (∀ (s : State) (d a : Reg) (n : BitVec 7) (pos : BitVec 6) (len : BitVec 7),
    let x := s.me
    let A := x.readG a
    let D := x.readG d
    let w := fun (i : Instr) (p : Word → Prop) => ∃ v, p v ∧ Completes (exec i s) s (x.writeG d v)
    Clean x [d, a] →
      w (.clz d a) (fun v => v.toNat ≤ 64 ∧ (∀ j < v.toNat, A.getLsbD (63 - j) = false) ∧
        (v.toNat < 64 → A.getLsbD (63 - v.toNat) = true)) ∧
      w (.ctz d a) (fun v => v.toNat ≤ 64 ∧ (∀ j < v.toNat, A.getLsbD j = false) ∧
        (v.toNat < 64 → A.getLsbD v.toNat = true)) ∧
      w (.popc d a) (fun v => v.toNat = (List.range 64).countP fun j => A.getLsbD j) ∧
      w (.bswap d a) (fun v => ∀ j < 8, v.extractLsb' (8 * j) 8 = A.extractLsb' (56 - 8 * j) 8) ∧
      ((Instr.zext d a n).wf = true →
        w (.zext d a n) fun v => ∀ j < 64, v.getLsbD j = (decide (j < n.toNat) && A.getLsbD j)) ∧
      ((Instr.sext d a n).wf = true →
        w (.sext d a n) fun v => ∀ j < 64, v.getLsbD j = A.getLsbD (min j (n.toNat - 1))) ∧
      ((Instr.bfx .z d a pos len).wf = true →
        w (.bfx .z d a pos len) fun v => ∀ j < 64, v.getLsbD j = (decide (j < len.toNat) && A.getLsbD (pos.toNat + j))) ∧
      ((Instr.bfx .s d a pos len).wf = true →
        w (.bfx .s d a pos len) fun v => ∀ j < 64, v.getLsbD j = A.getLsbD (pos.toNat + min j (len.toNat - 1))) ∧
      ((Instr.bfi d a pos len).wf = true →
        w (.bfi d a pos len) fun v => ∀ j < 64, v.getLsbD j =
          if pos.toNat ≤ j ∧ j < pos.toNat + len.toNat then A.getLsbD (j - pos.toNat) else D.getLsbD j))

/-- From R107, R108: writing a g register gives it the value and leaves the others; g0 reads 0 and a write to it is
discarded. From R386, R396: completing an instruction leaves the hart running, counts it in INSTRET outside a trap handler,
and changes no register, no vector state and no trap register. -/
def Obligations.RegisterAndRetireFrame : Prop :=
  (∀ (x : Hart) (r q : Reg) (v : Word),
    (x.writeG r v).readG q = (if q = 0 then 0 else if q = r then v else x.readG q) ∧
    x.writeG 0 v = x ∧
    (x.writeG r v).core.pc = x.core.pc ∧ (x.writeG r v).core.mode = x.core.mode ∧
    (x.writeG r v).core.fflags = x.core.fflags ∧ (x.writeG r v).core.vs = x.core.vs ∧
    (x.writeG r v).core.loop = x.core.loop ∧ (x.writeG r v).sys = x.sys ∧ (x.writeG r v).lanes = x.lanes ∧
    (x.writeG r v).windows = x.windows ∧ (x.writeG r v).eng = x.eng) ∧
  (∀ (x : Hart),
    x.retire.core.st = (if x.frames = [] then .running else .trapped) ∧
    x.retire.sys.time.instret = x.sys.time.instret + (if x.frames = [] then 1 else 0) ∧
    x.retire.core.g = x.core.g ∧ x.retire.core.pc = x.core.pc ∧ x.retire.core.mode = x.core.mode ∧
    x.retire.core.vs = x.core.vs ∧ x.retire.core.loop = x.core.loop ∧ x.retire.core.fflags = x.core.fflags ∧
    x.retire.sys.strap = x.sys.strap ∧ x.retire.sys.mtrap = x.sys.mtrap ∧ x.retire.sys.space = x.sys.space ∧
    x.retire.lanes = x.lanes ∧ x.retire.windows = x.windows ∧ x.retire.eng = x.eng ∧ x.retire.who = x.who)

/-- From R111, R112, R115: each scalar float instruction completes; its result, computed from the low bits of its sources
that the format names, goes to g[D] with zeros above, and its flags are ORed into FFLAGS. The rounding mode is the
instruction's, or VCFG.RM. From R86, Table 04.2: a magnitude m rounded to a multiple of 2^n: truncated by RTZ; the nearest,
ties to even, by RNE; the nearest, ties away, by RMM; and towards the side named by RDN and RUP. It is inexact exactly when
the multiple differs. Where the rules leave a point open it states the choice of the model: notes/assumptions/132.md. -/
def Obligations.ScalarFloatRule : Prop :=
  (∀ (s : State) (d a b c : Reg) (f g : Fmt) (rm : RmF) (k : FCond) (ty : IntTy) (op : SgnOp) (la : BitVec 4),
    let x := s.me
    let r := RMode.ofField rm x.core.vs.cfg.rm
    let A := (x.readG a).toNat % 2 ^ f.k.width
    let B := (x.readG b).toNat % 2 ^ f.k.width
    let C := (x.readG c).toNat % 2 ^ f.k.width
    let signed := ty = .s64 ∨ ty = .s32
    let n := if ty = .s64 ∨ ty = .u64 then 64 else 32
    let w := fun (i : Instr) (v : Nat × Flags) =>
      Completes (exec i s) s ((x.writeG d (BitVec.ofNat 64 v.1)).raise v.2)
    let l := fun (i : Instr) (v : Nat × Flags) =>
      Completes (exec i s) s (results x x.core.pc la [(d, BitVec.ofNat 64 v.1, none)] [] v.2 false)
    Clean x [a, b, c] →
      w (.fadd f rm d a b) (fAdd f.k r A B) ∧ w (.fsub f rm d a b) (fSub f.k r A B) ∧
      w (.fmul f rm d a b) (fMul f.k r A B) ∧
      w (.fma f rm d a b c) (fFma f.k r false false A B C) ∧ w (.fms f rm d a b c) (fFma f.k r false true A B C) ∧
      w (.fnma f rm d a b c) (fFma f.k r true false A B C) ∧
      l (.fdiv f rm d a b la) (fDiv f.k r A B) ∧ l (.fsqrt f rm d a la) (fSqrt f.k r A) ∧
      w (.fmin f d a b) (fMinMax f.k false A B) ∧ w (.fmax f d a b) (fMinMax f.k true A B) ∧
      w (.fcmp f k d a b) (if (fCmp f.k k A B).1 then 2 ^ 64 - 1 else 0, (fCmp f.k k A B).2) ∧
      w (.fcvt f rm g d a) (fCvt f.k g.k r ((x.readG a).toNat % 2 ^ g.k.width)) ∧
      w (.fcvti f rm ty d a) (let v := fToInt f.k r signed n A; (ofSigned 64 v.1, v.2)) ∧
      w (.icvtf f rm ty d a)
        (intToF f.k r (if signed then toSigned n (x.readG a).toNat else ((x.readG a).toNat % 2 ^ n : Nat))) ∧
      w (.fclass f d a) (fClass f.k A, 0) ∧ w (.fsgn f op d a b) (fSgn f.k op A B, 0) ∧ w (.frnd f rm d a) (fRnd f.k r A)) ∧
  (∀ (rm : RMode) (neg : Bool) (m n : Nat) (e : Int),
    let r := roundTo rm neg m e false (e + n)
    let t := r.1
    (r.2 = true ↔ t * 2 ^ n ≠ m) ∧ t * 2 ^ n < m + 2 ^ n ∧ m < (t + 1) * 2 ^ n ∧
    match rm with
    | .rtz => t * 2 ^ n ≤ m
    | .rdn => if neg then m ≤ t * 2 ^ n else t * 2 ^ n ≤ m
    | .rup => if neg then t * 2 ^ n ≤ m else m ≤ t * 2 ^ n
    | .rne => 2 * (t * 2 ^ n) ≤ 2 * m + 2 ^ n ∧ 2 * m ≤ 2 * (t * 2 ^ n) + 2 ^ n ∧
        ((2 * (t * 2 ^ n) = 2 * m + 2 ^ n ∨ 2 * m = 2 * (t * 2 ^ n) + 2 ^ n) → t % 2 = 0)
    | .rmm => 2 * (t * 2 ^ n) ≤ 2 * m + 2 ^ n ∧ 2 * m < 2 * (t * 2 ^ n) + 2 ^ n)

/-- R113: fmin and fmax order −0 below +0, answer the other operand of a single NaN bit for bit and the canonical NaN for
two, and raise NV for a signalling operand and nothing else. -/
def Obligations.MinMaxRule : Prop :=
  ∀ (s : State) (d a b : Reg) (f : Fmt),
    let A := (s.me.readG a).toNat % 2 ^ f.k.width
    let B := (s.me.readG b).toNat % 2 ^ f.k.width
    let x := Fp.unpack f.k A
    let y := Fp.unpack f.k B
    let fl : Flags := if x.isSig || y.isSig then fNV else 0
    let below := cmpFp x y = .lt ∨ (cmpFp x y = .eq ∧ x.neg = true ∧ y.neg = false)
    let pick := fun (least : Bool) =>
      if x.isNan ∧ y.isNan then f.k.nan else if x.isNan then B else if y.isNan then A
      else if (below ↔ least = true) then A else B
    Clean s.me [a, b] →
      Completes (exec (.fmin f d a b) s) s ((s.me.writeG d (BitVec.ofNat 64 (pick true))).raise fl) ∧
      Completes (exec (.fmax f d a b) s) s ((s.me.writeG d (BitVec.ofNat 64 (pick false))).raise fl)

/-- R116: fclass sets exactly one bit of g[D], that of the operand's class, and raises no flag. -/
def Obligations.ClassifyRule : Prop :=
  ∀ (s : State) (d a : Reg) (f : Fmt),
    let A := (s.me.readG a).toNat % 2 ^ f.k.width
    let E := (A >>> f.k.f) % 2 ^ f.k.e
    let F := A % 2 ^ f.k.f
    let neg := A.testBit (f.k.e + f.k.f) = true
    let n : Nat :=
      if E = f.k.emax then (if F = 0 then (if neg then 0 else 7) else if F < 2 ^ (f.k.f - 1) then 8 else 9)
      else if E = 0 then (if F = 0 then (if neg then 3 else 4) else if neg then 2 else 5)
      else if neg then 1 else 6
    Clean s.me [a] → Completes (exec (.fclass f d a) s) s (s.me.writeG d (BitVec.ofNat 64 (2 ^ n)))

/-- From R118, R119, R47: outside an active loop, jumps and taken branches go on at their target when it is a multiple of 16
and trap IFETCH_ALIGN there otherwise; a branch that is not taken goes on at the next instruction and checks nothing. bvf
does so once the earlier instructions that set VFLAGS have completed, and waits for them until then. From R124: loop names
the body that follows it and goes past it when its count is 0; at the last instruction of the body the count falls by 1 and
the body runs again until it is 0. Elsewhere an instruction that completes goes on 16 bytes further. -/
def Obligations.BranchesAndLoops : Prop :=
  (∀ (s : State) (a b : Reg) (imm : Word) (k : Cond) (v : VfCond),
    let x := s.me
    let A := x.readG a
    let B := x.readG b
    let goes := fun (u : State) (i : Instr) (T : Word) (taken : Prop) =>
      (taken → T.toNat % 16 = 0 → Branches (exec i s) u T u.me) ∧
      (taken → T.toNat % 16 ≠ 0 → Traps (exec i s) u .ifetchAlign T) ∧
      (¬taken → Completes (exec i s) u u.me)
    let go := fun (i : Instr) (src : List Reg) (T : Word) (taken : Prop) => Clean x src → goes s i T taken
    x.loopActive = false →
      go (.jmp imm) [] (x.core.pc + imm) True ∧ go (.jr a imm) [a] (A + imm) True ∧
      go (.br k a b imm) [a, b] (x.core.pc + imm) (match k with
        | .eq => A = B
        | .ne => A ≠ B
        | .lt => A.toInt < B.toInt
        | .ge => B.toInt ≤ A.toInt
        | .lo => A.toNat < B.toNat
        | .hs => B.toNat ≤ A.toNat) ∧
      go (.bz a imm) [a] (x.core.pc + imm) (A = 0) ∧ go (.bnz a imm) [a] (x.core.pc + imm) (A ≠ 0) ∧
      (x.frozen = false → (x.landFlags = none → exec (.bvf v imm) s = .next s) ∧
        ∀ y, x.landFlags = some y → goes (s.setMe y) (.bvf v imm) (x.core.pc + imm) (match v with
          | .none => y.core.vs.flags.n = true
          | .some => y.core.vs.flags.s = true
          | .all => y.core.vs.flags.a = true
          | .notall => y.core.vs.flags.a = false))) ∧
  ((∀ (s : State) (a : Reg) (n : BitVec 4), s.me.loopActive = false → s.me.frozen = false → Clean s.me [a] →
    let x := s.me
    let first := x.core.pc + 16
    let last := first + BitVec.ofNat 64 (16 * n.toNat)
    CompletesAt (exec (.loop a n) s) s (if x.readG a = 0 then last else first)
      { x with core := { x.core with loop := { lpc := first, lcnt := x.readG a, lend := last } } }) ∧
  ∀ (x : Hart),
    let l := x.core.loop
    let atEnd := l.lcnt ≠ 0 ∧ x.frozen = false ∧ x.core.pc = l.lend - 16
    (atEnd → x.advance.core.loop = { l with lcnt := l.lcnt - 1 } ∧
      x.advance.core.pc = if l.lcnt = 1 then l.lend else l.lpc) ∧
    (¬atEnd → x.advance.core.loop = l ∧ x.advance.core.pc = x.core.pc + 16) ∧
    x.advance.core.g = x.core.g ∧ x.advance.core.mode = x.core.mode ∧ x.advance.core.vs = x.core.vs ∧
    x.advance.sys = x.sys ∧ x.advance.windows = x.windows)

/-- From R121, R122: with its stack accessible, a call stores the address of the next instruction and the vector-state word
at the 16 bytes below g63, makes g63 name them, saves EM on the mask stack and goes on at its target. From R123: ret goes on
at the address stored at g63, restores VCFG from the vector-state word with VL limited by VLMAX, takes EM from the
mask-stack entry that the word names and drops that entry and those above it, and frees the 16 bytes. Where the rules leave
a point open it states the choice of the model: notes/assumptions/133.md, notes/assumptions/143.md and
notes/assumptions/162.md. -/
def Obligations.CallAndReturn : Prop :=
  (∀ (s : State) (a : Reg) (imm : Word) (t1 t2 : Target),
    let x := s.me
    let me := s.who s.cur
    let sp := x.readG 63 - 16
    let v := x.core.vs
    let word : Word := v.cfg.vl.setWidth 64 ||| (BitVec.ofNat 64 v.cfg.ew.code <<< 16) ||| (v.cfg.grp.setWidth 64 <<< 18) |||
      (v.cfg.sc.setWidth 64 <<< 20) ||| (BitVec.ofNat 64 v.cfg.rm.code <<< 22) |||
      (BitVec.ofNat 64 v.mstack.length <<< 32)
    let P := s.probeStack .store sp
    let u := (((P.2.dirtyTarget me t1).dirtyTarget me t2).writeTarget me true t1 8 (x.core.pc + 16).toNat none).writeTarget me
      true t2 8 word.toNat none
    let called := fun (i : Instr) (T : Word) => T.toNat % 16 = 0 →
      Branches (exec i s) u T ((u.me.writeG 63 sp).modVs fun v => { v with mstack := v.em :: v.mstack })
    x.loopActive = false → x.frozen = false → v.mstack.length < 16 → sp.toNat % 16 = 0 →
    P.1 = .ok (t1, t2) →
      (Clean x [63] → called (.call imm) (x.core.pc + imm)) ∧
      (Clean x [a, 63] → called (.callr a imm) (x.readG a + imm))) ∧
  (∀ (s : State) (t1 t2 : Target) (ra : Nat) (w : Word) (rm : RMode),
    let x := s.me
    let me := s.whoBy s.cur [63]
    let sp := x.readG 63
    let P := s.probeStack .load sp
    let r1 := P.2.readTarget me true t1 8
    let r2 := r1.2.readTarget me true t2 8
    let m := (w.extractLsb' 32 8).toNat
    let n := x.core.vs.mstack.length
    x.loopActive = false → x.frozen = false → Clean x [63] → sp.toNat % 16 = 0 → P.1 = .ok (t1, t2) →
    r1.1 = (ra, none) → r2.1 = (w.toNat, none) → ra < 2 ^ 64 → ra % 16 = 0 →
    RMode.ofNat? (w.extractLsb' 22 3).toNat = some rm → w.extractLsb' 40 24 = 0 → w.extractLsb' 25 7 = 0 →
    m ≤ 15 → m < n →
      Branches (exec .ret s) r2.2 (BitVec.ofNat 64 ra) ((r2.2.me.writeG 63 (sp + 16)).modVs fun v =>
        { v with em := v.mstack.getD (n - (m + 1)) 0, mstack := v.mstack.drop (n - m),
                 cfg := { vl := BitVec.ofNat 16 (min (w.extractLsb' 0 16).toNat
                            (r2.2.me.G * 1024 * 2 ^ (w.extractLsb' 18 2).toNat / (Ew.ofBits (w.extractLsb' 16 2)).width)),
                          rm := rm, sc := w.extractLsb' 20 2, grp := w.extractLsb' 18 2,
                          ew := Ew.ofBits (w.extractLsb' 16 2) } }))

/-- From R228, R231: an aligned load whose probe passes completes; g[D] receives the bytes read, extended with zeros or with
the sign, and their poison. ld.acq also acquires at its scope. A load that an atomic of the hart on its way to its home
meets waits for it. From R228, R231, R217: an aligned store whose probe passes completes and writes the low bits of g[D]
that its width names, at once or, with the networks congested, when the store that is then on its way reaches its home. It
follows the hart's own requests to those bytes, and a probed access to a block whose ownership it would change; st.rel does
so once the hart's earlier accesses are performed, and until then it waits. Where the rules leave a point open it states the
choice of the model: notes/assumptions/139.md, notes/assumptions/143.md, notes/assumptions/158.md and
notes/assumptions/160.md. -/
def Obligations.LoadsAndStores : Prop :=
  (∀ (s : State) (w sc : BitVec 2) (sx : Bool) (d a b : Reg) (imm : Word) (la : BitVec 4) (t : Target),
    let x := s.me
    let me := s.whoBy s.cur [a, b]
    let n := 2 ^ w.toNat
    let addr := x.readG a + x.readG b + imm
    let p := s.probe me .load addr n
    let r := p.2.readTarget me true t n
    let met := p.2.targetMet me.uid t n
    Clean x [a, b] → addr.toNat % n = 0 → p.1 = .ok t →
      (met = true → exec (.ld w sx d a b imm la) s = .next p.2 ∧ exec (.ldAcq w sx sc d a b imm la) s = .next p.2) ∧
      (met = false → ∃ v : Word, (∀ j < 64, v.getLsbD j = if j < 8 * n then r.1.1.testBit j else (sx && r.1.1.testBit (8 * n - 1))) ∧
        Completes (exec (.ld w sx d a b imm la) s) r.2 (results r.2.me r.2.me.core.pc la [(d, v, r.1.2)] [] 0) ∧
        let u := r.2.acquire (coreOf r.2.cur) sc
        Completes (exec (.ldAcq w sx sc d a b imm la) s) u (results u.me u.me.core.pc la [(d, v, r.1.2)] [] 0))) ∧
  (∀ (s : State) (w sc : BitVec 2) (d a b : Reg) (imm : Word) (la : BitVec 4) (t : Target),
    let x := s.me
    let n := 2 ^ w.toNat
    let addr := x.readG a + x.readG b + imm
    let stored := fun (s : State) (o : Out) =>
      let me := s.who s.cur
      let p := s.probe me .store addr n
      let v := (x.readG d).toNat % 2 ^ (8 * n)
      let e := p.2.dirtyTarget me t
      let u := e.writeTarget me true t n v none
      let held := p.2.targetMet me.uid t n || p.2.ownerBusy t
      let sent := fun (xl : Xlat) (pa : Nat) => { e.draw.2 with net := { e.draw.2.net with stores := e.net.stores ++
        [{ id := e.fresh, hart := s.cur, uid := x.who.uid, vi := x.who.vi, pc := x.core.pc, core := coreOf s.cur, xl := xl, addr := pa,
           bytes := leBytes n v }] } }
      p.1 = .ok t → (held = true → o = .next p.2) ∧
        (held = false → (∀ xl pa, t = .mem xl (.dram pa) → e.travels xl pa = false) →
          Completes o u (results u.me u.me.core.pc la [] [] 0)) ∧
        (held = false → ∀ xl pa, t = .mem xl (.dram pa) → e.travels xl pa = true →
          Completes o (sent xl pa) (results (sent xl pa).me (sent xl pa).me.core.pc la [] [] 0))
    let e := s.landPeers fun p => p.uid == x.who.uid
    let waits := e.atmsOpen x.who.uid = true ∨ (2 ≤ sc.toNat ∧ e.acked = false)
    Clean x [d, a, b] → addr.toNat % n = 0 →
      stored s (exec (.st w d a b imm la) s) ∧
      (¬waits → stored e (exec (.stRel w sc d a b imm la) s)) ∧
      (waits → exec (.stRel w sc d a b imm la) s = .next e))

/-- From R228: a misaligned scalar access traps ALIGN with the address in TVAL, before it changes anything. From R239, R240,
R395: a vector access with an element that faults changes no element and stores nothing: it traps with the cause and the
address of the lowest one, its number in TELEM, the missing pages listed and, for a watch stop, the mask of every element
that matches. Where the rules leave a point open it states the choice of the model: notes/assumptions/149.md. -/
def Obligations.AccessFaultTraps : Prop :=
  (∀ (s : State) (w sc : BitVec 2) (sx : Bool) (op : AmoOp) (cmb acq rel : Bool) (d a b c : Reg) (imm : Word) (la : BitVec 4),
    let x := s.me
    let n := 2 ^ w.toNat
    let base := x.readG a + x.readG b + imm
    let atom := x.readG a + imm
    Clean x [d, a, b] → Clean x [a, b, c] →
      (base.toNat % n ≠ 0 →
        Traps (exec (.ld w sx d a b imm la) s) s .align base ∧ Traps (exec (.st w d a b imm la) s) s .align base ∧
        Traps (exec (.ldAcq w sx sc d a b imm la) s) s .align base ∧
        Traps (exec (.ldP w sx d a b imm la) s) s .align base ∧ Traps (exec (.stP w d a b imm la) s) s .align base ∧
        Traps (exec (.ldL w sx d a b imm la) s) s .align base ∧ Traps (exec (.stL w d a b imm la) s) s .align base) ∧
      (atom.toNat % n ≠ 0 →
        Traps (exec (.amo op w cmb d a b sc acq rel imm la) s) s .align atom ∧
        Traps (exec (.cas w d a b c sc acq rel imm la) s) s .align atom)) ∧
  (∀ (s : State) (d a b : Reg) (imm : Word) (m : Mask) (la : BitVec 4) (e : Nat) (c : Cause) (adr : Word),
    let x := s.me
    let n := x.core.vs.cfg.ew.bytes
    let unit := fun (i : Nat) => x.readG a + x.readG b + imm + BitVec.ofNat 64 (i * n)
    let P := probed s .data .load false m unit
    let Q := probed s .data .store false m unit
    let first := fun (ps : List Probed) => ps.find? fun p => (faultOf p).isSome
    let traps := fun (o : Out) (k : AKind) (ps : List Probed) (u : State) =>
      (first ps).map (fun p => (p.1, faultOf p)) = some (e, some (c, adr)) →
        let t := u.modMe fun y => y.modVs fun _ => x.core.vs
        let watched := ps.filter (u.watched ((issued s).who s.cur) k n)
        let mask := if c = .watch then some (maskOf (watched.map Prod.fst)) else none
        let why : TrapInfo := { cause := c, tval := adr, telem := e, pages := missingPages ps, wmask := mask }
        o = .next (t.takeTrap t.cur why false false id)
    VReady x → GroupOk x d x.ew → MaskOk x m → Clean x [a, b] → x.vstart < x.vl →
      traps (exec (.vld d a b imm m la) s) .load P.1 P.2 ∧ traps (exec (.vst d a b imm m la) s) .store Q.1 Q.2)

/-- From R232, R233, Table 10.2: an aligned atomic whose probe passes completes: g[D] receives the old value, and memory the
new one that the operation gives, or with cas the value of g[C] when the old value is that of g[B]. It follows an atomic of
the hart that is on its way to the same bytes, with REL it waits until the hart's earlier accesses are performed, and with
ACQ it acquires. The old value comes once every RDC copy of the line has been invalidated. With the networks congested, an
amo to class I DRAM is on its way when it has completed, and its home returns the old value later. Where the rules leave a
point open it states the choice of the model: notes/assumptions/119.md, notes/assumptions/139.md and
notes/assumptions/143.md. -/
def Obligations.AtomicRule : Prop :=
  ∀ (s : State) (op : AmoOp) (w sc : BitVec 2) (cmb acq rel : Bool) (d a b c : Reg) (imm : Word) (la : BitVec 4) (t : Target),
    let x := s.me
    let me := s.who s.cur
    let n := 2 ^ w.toNat
    let m := 2 ^ (8 * n)
    let addr := x.readG a + imm
    let p := s.probe me .atomic addr n
    let e := if rel then p.2.landPeers fun p => p.uid == x.who.uid else p.2
    let met := p.2.targetMet me.uid t n
    let waits := rel = true ∧ (e.atmsOpen x.who.uid = true ∨ (2 ≤ sc.toNat ∧ e.acked = false))
    let dirty := e.dirtyTarget me t
    let ahead := p.2.atmAhead (coreOf s.cur) t
    let new := fun (o v : Nat) => match op with
      | .add => (o + v) % m
      | .and => o &&& v
      | .or => o ||| v
      | .xor => o ^^^ v
      | .min => if toSigned (8 * n) v < toSigned (8 * n) o then v else o
      | .max => if toSigned (8 * n) v > toSigned (8 * n) o then v else o
      | .umin => if v < o then v else o
      | .umax => if v > o then v else o
      | .swap => v
      | .fadd => (fAdd .s .rne o v).1
    let done := fun (o : Out) (f : Nat → Option Nat) =>
      let r := dirty.amoTarget me t n f
      let u := if acq then r.2.acquire (coreOf r.2.cur) sc else r.2
      let gw : List (Reg × Word × Option Poison) := [(d, BitVec.ofNat 64 r.1.1, r.1.2)]
      let owed := u.net.invals.any fun i => t.line.contains i.line
      (met = true → o = .next p.2) ∧ (met = false → ahead = false → waits → o = .next e) ∧
      (met = false → ahead = true → ¬waits → o = .next p.2) ∧ (met = false → ahead = true → waits → o = .next p.2 ∨ o = .next e) ∧
      (met = false → ahead = false → ¬waits → Completes o u (if owed then
          { u.me with windows := u.me.windows ++
            [{ pc := u.me.core.pc, left := la.toNat, gw := gw, vw := [], fl := 0, await := .acks t.line }] }
        else results u.me u.me.core.pc la gw [] 0))
    let amo := exec (.amo op w cmb d a b sc acq rel imm la) s
    Clean x [a, b, c] → addr.toNat % n = 0 → p.1 = .ok t →
      ((∀ xl pa, t = .mem xl (.dram pa) → dirty.travels xl pa = false) →
        done amo (fun o => some (new o ((x.readG b).toNat % m)))) ∧
      (∀ xl pa, t = .mem xl (.dram pa) → dirty.travels xl pa = true →
        (met = true → amo = .next p.2) ∧ (met = false → waits → amo = .next e) ∧
        (met = false → ¬waits →
          let u := { dirty.draw.2 with net := { dirty.draw.2.net with atms := dirty.net.atms ++
            [{ id := dirty.fresh, hart := s.cur, uid := x.who.uid, addr := pa, op := op, wide := n == 8,
               x := BitVec.ofNat 64 ((x.readG b).toNat % m), scope := sc, cmb := cmb, dest := d, elems := [], src := coreOf s.cur,
               acq := acq, xl := xl, absorbed := none, reply := none, pc := x.core.pc }] } }
          Completes amo u { u.me with windows := u.me.windows ++
            [{ pc := u.me.core.pc, left := la.toNat, gw := [], vw := [], fl := 0, await := .atomic [dirty.fresh], acq := acq }] })) ∧
      done (exec (.cas w d a b c sc acq rel imm la) s)
        (fun o => if o = (x.readG b).toNat % m then some ((x.readG c).toNat % m) else none)

/-- From R234, R190, R191: an aligned access of lane memory that the VI owns completes, whether through an offset of the
hart's own core or through a peer address; a peer store is then on its way. -/
def Obligations.LaneAccessRule : Prop :=
  ∀ (s : State) (w : BitVec 2) (sx : Bool) (d a b : Reg) (imm : Word) (la : BitVec 4),
    let x := s.me
    let me := s.who s.cur
    let n := 2 ^ w.toNat
    let addr := x.readG a + x.readG b + imm
    let v := (x.readG d).toNat % 2 ^ (8 * n)
    let loaded := fun (i : Instr) (c off : Nat) =>
      let r := s.readLane me c off n
      ∃ v : Word, (∀ j < 64, v.getLsbD j = if j < 8 * n then r.1.1.testBit j else (sx && r.1.1.testBit (8 * n - 1))) ∧
        Completes (exec i s) r.2 (results r.2.me r.2.me.core.pc la [(d, v, r.1.2)] [] 0)
    Clean x [d, a, b] → Clean x [a, b] → addr.toNat % n = 0 →
      ((s.core (coreOf s.cur)).mayTouch x.who.vi false addr.toNat n = true →
        loaded (.ldL w sx d a b imm la) (coreOf s.cur) addr.toNat ∧
        let u := s.writeLane me (coreOf s.cur) addr.toNat n v none
        Completes (exec (.stL w d a b imm la) s) u (results u.me u.me.core.pc la [] [] 0)) ∧
      (let c := (addr.extractLsb' 52 10).toNat
       let off := (addr.extractLsb' 0 20).toNat
       addr.extractLsb' 62 2 = 0 → addr.extractLsb' 20 32 = 0 → (s.core c).mayTouch x.who.vi true off n = true →
        loaded (.ldP w sx d a b imm la) c off ∧
        let u := { s with net := { s.net with peers := s.net.peers ++
          [{ uid := x.who.uid, pc := x.core.pc, core := c, off := off, bytes := leBytes n v, poison := none }] } }
        Completes (exec (.stP w d a b imm la) s) u (results u.me u.me.core.pc la [] [] 0))

/-- From R235, R236, R237, Table 10.3: cache control completes for every address whose translation passes: pf never traps;
cflush and cinv drop the copies of a line of class I DRAM; cpin and cunpin pin and unpin such a line and write their status,
5 for any other line. From R245, R246, R249, R250: a fence completes once the accesses in whose windows it stands are
complete and those it orders have been performed: the context's stores to peer lane memory have landed, its atomics have
reached their homes and, at a scope of DEVICE or wider, every write so far is acknowledged; an acquire of a scope beyond the
core empties the L1 data cache. wait completes with the value it reads when the condition holds, makes the hart wait
otherwise, and traps ALIGN on a misaligned address. icinv removes the line it names from the instruction cache, or all
lines; tlbinv outside mode U removes the translations it names of the hart's VI from every core, and completes when nothing
that was in flight then holds one of them. Where the rules leave a point open it states the choice of the model:
notes/assumptions/18.md, notes/assumptions/47.md, notes/assumptions/56.md and notes/assumptions/139.md. -/
def Obligations.CacheAndOrdering : Prop :=
  (∀ (s : State) (l2 up : Bool) (d a b : Reg) (imm : Word) (la : BitVec 4),
    let x := s.me
    let addr := x.readG a + x.readG b + imm
    let r := s.xlate (s.who s.cur) false .load addr
    let i := fun (up : Bool) => if up then Instr.cpin d a b imm la else Instr.cunpin d a b imm la
    (∃ u, u.harts = s.harts ∧ u.queues = s.queues ∧ u.slices = s.slices ∧ { u.net with invals := s.net.invals } = s.net ∧
      Completes (exec (.pf l2 a b imm la) s) u (results u.me u.me.core.pc la [] [] 0)) ∧
    (Clean x [a, b] → isSheet addr = false → ∀ xl, r.1 = .ok xl →
      let pl := place (xl.page * 4096 + addr.toNat % 4096)
      (∀ pa, pl = .dram pa →
        let u := if xl.idem then (r.2.dropL1Line (coreOf r.2.cur) (.dram pa)).dropRdcLine (dieOf r.2.cur) (pa / 128) else r.2
        Completes (exec (.cflush a b imm la) s) u (results u.me u.me.core.pc la [] [] 0) ∧
        Completes (exec (.cinv a b imm la) s) u (results u.me u.me.core.pc la [] [] 0)) ∧
      (∀ pa, pl = .dram pa → (xl.idem && xl.cache) = true →
        let vi := x.who.vi.toNat
        let st := if up then r.2.pinStatus vi (pa / 128) else r.2.unpinStatus vi (pa / 128)
        let u := if st = 0 then { r.2 with phys := r.2.phys.repin vi (pa / 128) up } else r.2
        Completes (exec (i up) s) u (results u.me u.me.core.pc la [(d, BitVec.ofNat 64 st, none)] [] 0)) ∧
      (pl.isDram = false →
        Completes (exec (.cflush a b imm la) s) r.2 (results r.2.me r.2.me.core.pc la [] [] 0) ∧
        Completes (exec (.cinv a b imm la) s) r.2 (results r.2.me r.2.me.core.pc la [] [] 0)) ∧
      (pl.isDram = false ∨ (xl.idem && xl.cache) = false →
        Completes (exec (i up) s) r.2 (results r.2.me r.2.me.core.pc la [(d, 5, none)] [] 0)))) ∧
  (∀ (s : State) (kind sc w : BitVec 2) (k : WCond) (d a b c : Reg) (sp all : Bool) (imm : Word) (tk : TlbKind)
    (ts : TlbSpace) (x : Hart),
    let me := s.me
    let core := coreOf s.cur
    let mine := fun (t : State) => ∀ p ∈ t.net.peers, p.uid ≠ me.who.uid
    let u := s.landPeers fun p => p.uid == me.who.uid
    let addr := me.readG a + imm
    let n := wBytes w
    let R := s.waitRead sp addr n
    let B := (me.readG b).toNat
    let f := exec (.fence kind sc) s
    (me.landAccess = none → f = .next s) ∧
    (me.landAccess = some x →
      let v := (s.setMe x).landPeers fun p => p.uid == x.who.uid
      let waits := v.atmsOpen x.who.uid = true ∨ (2 ≤ sc.toNat ∧ v.acked = false)
      let emptied := fun (t : State) => sc ≠ 0 → (t.core core).l1 = []
      (kind = 3 → v.peerCopies s.cur = true → f = .next v) ∧
      (kind = 3 → v.peerCopies s.cur = false → Ends f x.advance.retire mine) ∧
      (kind = 2 → Ends f x.advance.retire emptied) ∧
      (kind.toNat < 2 → waits → f = .next v) ∧
      (kind.toNat < 2 → ¬waits → Ends f x.advance.retire fun t => mine t ∧ (kind = 0 → emptied t))) ∧
    (Clean me [a, b, c] →
      (addr.toNat % n ≠ 0 → Traps (exec (.wait k w d a b c sp imm) s) s .align addr) ∧
      ∀ v, R.1 = .ok (v, none) →
        let holds := match k with
          | .ne => v ≠ B
          | .eq => v = B
          | .reached => (v + (2 ^ (8 * n) - B % 2 ^ (8 * n))) % 2 ^ (8 * n) < 2 ^ (8 * n - 1)
        (holds → Completes (exec (.wait k w d a b c sp imm) s) R.2 (R.2.me.writeG d (BitVec.ofNat 64 v))) ∧
        (¬holds → Ends (exec (.wait k w d a b c sp imm) s) (R.2.me.setSt (.waiting (.cond
          { k := k, w := w, d := d, addr := addr, sp := sp, want := me.readG b, limit := me.readG c,
            since := me.sys.time.cycle, last := BitVec.ofNat 64 v }))) fun _ => True)) ∧
    (NoAtomic u → u.me.landAll = some x →
      Ends (exec (.icinv all a imm) s) ({ x with fetched := [] }.advance.retire) fun t =>
        (all = true → (t.core core).icache = []) ∧
        (all = false → (t.core core).icache = (u.core core).icache.filter fun e =>
          some (e.1 / 2048) != (u.setMe x).fetchLine (x.readG a + imm))) ∧
    (me.core.mode = .u → Traps (exec (.tlbinv tk ts a b) s) s .priv (lowWord (.tlbinv tk ts a b))) ∧
    (me.core.mode ≠ .u → Clean me [a, b] →
      let va := me.readG a
      let asid := (me.readG b).setWidth 16
      let hit := fun (e : TlbEntry) => e.invalidated me.who.vi ts tk va asid
      let D := u.dropTlb hit fun p => p.invalidated me.who.vi ts tk va asid
      (∀ r, me.inval = some r →
        (s.xlatHeld r hit = true → exec (.tlbinv tk ts a b) s = .next s) ∧
        (s.xlatHeld r hit = false → Completes (exec (.tlbinv tk ts a b) s) s { me with inval := none })) ∧
      (me.inval = none → ¬NoAtomic u → exec (.tlbinv tk ts a b) s = .next u) ∧
      (me.inval = none → NoAtomic u → D.xlatHeld D.numbered hit = true →
        Gives (exec (.tlbinv tk ts a b) s) D { me with inval := some D.numbered }) ∧
      (me.inval = none → NoAtomic u → D.xlatHeld D.numbered hit = false →
        Ends (exec (.tlbinv tk ts a b) s) me.advance.retire fun t => ∀ q e,
          (e ∈ (t.core q).tlb ∨ e ∈ (t.core q).itlb ∨ ∃ l ∈ (t.core q).banks, e ∈ l.2) →
            let page := va.toNat % 2 ^ 57 / 4096
            ¬(e.vi = me.who.vi ∧ (match ts with
                | .data => e.inst = false
                | .inst => e.inst = true
                | .both => True) ∧ (match tk with
                | .page => (e.glob = true ∨ e.asid = asid) ∧ e.base ≤ page ∧ page < e.base + e.pages
                | .asid => e.glob = false ∧ e.asid = asid
                | .vi => True)))))

/-- From R193, R200: while the line is held under the tag that the leaf names and no link on the way is down, a store to
DRAM writes its bytes, lowest first, and leaves every other byte of memory, every hart and lane memory as they were. From
R193, R198, R203: with no copy of the line in the core's L1 or its die's RDC, while the line is held under the tag that the
leaf names, is not poisoned, no link on the way is down and no parity error meets the data at delivery, a load of one line
of DRAM outside the device's own tables gives the bytes that memory holds, little-endian, and changes no byte of memory and
no hart. From R333-R339: translating an address changes no hart, no slice, no queue and no byte of memory but those of the
leaf it ends at, whose A bit the walker sets when it is clear. -/
def Obligations.MemoryFrames : Prop :=
  (∀ (s : State) (w : Who) (scalar : Bool) (xl : Xlat) (pa n v : Nat),
    let u := s.writeTarget w scalar (.mem xl (.dram pa)) n v none
    s.phys.dram.wf = true → s.crossing (dieOfCore w.core) (dramDie pa) = none →
    tget none s.phys.tags (pa / 128) = xl.tag →
      (∀ j, u.phys.dram.read j =
        if pa ≤ j ∧ j < pa + n then BitVec.ofNat 8 (v >>> (8 * (j - pa))) else s.phys.dram.read j) ∧
      u.phys.hostA = s.phys.hostA ∧ u.phys.hostB = s.phys.hostB ∧ u.phys.pins = s.phys.pins ∧ u.harts = s.harts ∧
      u.slices = s.slices ∧ u.queues = s.queues ∧ u.vis = s.vis ∧ u.fw = s.fw ∧
      ∀ c, (u.core c).lane = (s.core c).lane ∧ (u.core c).mat = (s.core c).mat ∧ (u.core c).dts = (s.core c).dts) ∧
  (∀ (s : State) (w : Who) (scalar : Bool) (xl : Xlat) (pa n : Nat),
    let r := s.readTarget w scalar (.mem xl (.dram pa)) n
    pa % 128 + n ≤ 128 → s.crossing (dieOfCore w.core) (dramDie pa) = none →
    tget none s.phys.tags (pa / 128) = xl.tag → tfind s.phys.poison (pa / 128) = none →
    s.net.parity.contains w.hart = false → (s.core w.core).l1 = [] → (s.die (dieOfCore w.core)).rdc = [] →
    (pa / 128 * 128 + 128 ≤ fwBase ∨ fwBase + 128 * fwStride ≤ pa / 128 * 128) →
      r.1.2 = none ∧ (∀ j < n, ∀ i < 8, r.1.1.testBit (8 * j + i) = (s.phys.dram.read (pa + j)).getLsbD i) ∧
      r.1.1 < 2 ^ (8 * n) ∧ r.2.phys.dram = s.phys.dram ∧ r.2.phys.hostA = s.phys.hostA ∧
      r.2.phys.hostB = s.phys.hostB ∧ r.2.harts = s.harts ∧ r.2.slices = s.slices ∧ r.2.vis = s.vis) ∧
  (∀ (s : State) (w : Who) (inst : Bool) (k : AKind) (va : Word),
    let r := s.xlate w inst k va
    r.2.harts = s.harts ∧ r.2.slices = s.slices ∧ r.2.queues = s.queues ∧ r.2.net.peers = s.net.peers ∧ r.2.fw = s.fw ∧
    (r.2.phys = s.phys ∨ ∃ (u : State) (lvl at_ e : Nat), u.phys = s.phys ∧ u.fw = s.fw ∧ u.vis = s.vis ∧ u.queues = s.queues ∧
      u.dies = s.dies ∧ (u.walk w inst va.toNat true).1 = .leaf lvl at_ e ∧ ebit e 7 = false ∧
      r.2.phys = (s.physWrite w.uid at_ (leBytes 8 (e + 128))).phys))

/-- From R75, R76, R80: crr, crw, crset and crclr in a mode that the register allows, with a new value within its limits,
complete: g[D] receives the old value, and the register the new one computed from g[A]. From R74, R78, R79: a control
register that has been written with a value within its limits reads as that value; VCFG with its VL limited to the VLMAX of
its new EW and GRP. The other registers read as before, but for the trap set of the other mode, which these numbers do not
reach. -/
def Obligations.ControlRegisters : Prop :=
  (∀ (s : State) (d a : Reg) (cr : BitVec 12),
    let x := s.me
    let n := cr.toNat
    let old := s.crValue s.cur n
    let writes := fun (i : Instr) (new : Word) =>
      Clean x [a] → crReadable x.core.mode n = true → crWritable x.core.mode n = true → s.crFits n new = true →
        Completes (exec i s) s ((x.putCr n new).writeG d old)
    (crReadable x.core.mode n = true → Completes (exec (.crr d cr) s) s (x.writeG d old)) ∧
    writes (.crw d a cr) (x.readG a) ∧ writes (.crset d a cr) (old ||| x.readG a) ∧
    writes (.crclr d a cr) (old &&& ~~~ x.readG a)) ∧
  (∀ (s : State) (cr q : BitVec 12) (v : Word),
    let n := cr.toNat
    let t := s.modMe fun x => x.putCr n v
    crWritable s.me.core.mode n = true → s.crFits n v = true →
      (n ≠ 0x008 → t.crValue t.cur n = v) ∧
      (n = 0x008 → t.crValue t.cur n = (v &&& 0xFFFFFFFF) ||| BitVec.ofNat 64
        (min (v.extractLsb' 32 16).toNat
          (s.me.G * 1024 * 2 ^ (v.extractLsb' 4 2).toNat / 2 ^ (3 + (v.extractLsb' 0 2).toNat)) * 2 ^ 32)) ∧
      (q ≠ cr → (Instr.crr 0 q).wf = true → t.crValue t.cur q.toNat = s.crValue s.cur q.toNat) ∧
      (s.me.core.mode = .m → t.me.sys.strap = s.me.sys.strap) ∧
      (s.me.core.mode ≠ .m → t.me.sys.mtrap = s.me.sys.mtrap))

/-- From R75, R141, R411: an access that a register's modes do not allow traps PRIV with the low word of the instruction in
TVAL, and so do vclaim and sret in mode U, vclaim in a firmware hart and ecall in mode M. Mode U reads no trap register, no
address-space register and no watch register, writes no ceiling and no handle, and no mode but M writes TDELEG or the
address space. From R413: wfi completes when an interrupt is pending, and makes the hart wait for one otherwise. -/
def Obligations.PrivilegeAndWaits : Prop :=
  ((∀ (s : State) (d a : Reg) (cr : BitVec 12) (n : BitVec 16),
    let mo := s.me.core.mode
    let priv := fun (i : Instr) => Traps (exec i s) s .priv (lowWord i)
    (crReadable mo cr.toNat = false → priv (.crr d cr)) ∧
    (crReadable mo cr.toNat = false ∨ crWritable mo cr.toNat = false →
      priv (.crw d a cr) ∧ priv (.crset d a cr) ∧ priv (.crclr d a cr)) ∧
    (mo = .u → priv .vclaim ∧ priv .sret) ∧ (isFirmwareHart s.cur = true → priv .vclaim) ∧ (mo = .m → priv (.ecall n))) ∧
  ∀ n : Nat, ((0x040 ≤ n ∧ n ≤ 0x048) ∨ (0x050 ≤ n ∧ n ≤ 0x052) ∨ (0x070 ≤ n ∧ n ≤ 0x07B) →
      crReadable .u n = false ∧ crWritable .u n = false) ∧
    (n = 0x013 ∨ (0x090 ≤ n ∧ n ≤ 0x09F) → crWritable .u n = false) ∧
    (n = 0x047 ∨ (0x050 ≤ n ∧ n ≤ 0x052) → crWritable .s n = false ∧ crWritable .m n = true)) ∧
  (∀ (s : State),
    (s.irqPending s.cur = true → Completes (exec .wfi s) s s.me) ∧
    (s.irqPending s.cur = false → Gives (exec .wfi s) s (s.me.setSt (.waiting .wfi))))

/-- From R401, R403, R459, R33: a gang that the hart is in is dissolved, and every open window of its members completes;
once they have and no error is pending, a trap writes the cause, the pc, TVAL, TELEM 0 and the old mode to the trap set of
the mode it goes to, clears IE there, and the hart goes on TRAPPED in that mode at TVEC with bits [3:0] zero. The other trap
set, the g registers and the vector state stay. A hart in no gang takes it once its own windows have completed. -/
def Obligations.TrapEntry : Prop :=
  (∀ (s : State) (h : Nat) (x : Hart), (s.hart h).gang = none → (s.hart h).landAll = some x → s.quitGang h = some (s.setHart h x)) ∧
  ∀ (s u : State) (h : Nat) (c : Cause) (tval : Word),
    let x := u.hart h
    let t := s.takeTrap h { cause := c, tval := tval } false false id
    let y := t.hart h
    let delegated := c ≠ .ecallS ∧ c ≠ .preempt ∧
      x.sys.tdeleg.getLsbD (if c.code < 0x40 then c.code else 63) = true
    let toS := x.core.mode = .u ∧ delegated
    let was := if toS then x.sys.strap else x.sys.mtrap
    let now := if toS then y.sys.strap else y.sys.mtrap
    s.quitGang h = some u → x.pendErr = none →
      y.core.mode = (if toS then .s else .m) ∧ y.core.pc = was.tvec &&& ~~~ 15#64 ∧ y.core.st = .trapped ∧
      now = { was with tcause := BitVec.ofNat 8 c.code, tpc := x.core.pc, tval := tval, telem := 0, pmode := x.core.mode,
                       ie := false } ∧
      (toS → y.sys.mtrap = x.sys.mtrap) ∧ (¬toS → y.sys.strap = x.sys.strap) ∧
      y.core.g = x.core.g ∧ y.core.vs = x.core.vs ∧ y.core.loop = x.core.loop ∧ y.core.fflags = x.core.fflags ∧
      y.sys.tdeleg = x.sys.tdeleg ∧ y.sys.space = x.sys.space ∧ y.lanes = x.lanes ∧ y.windows = [] ∧
      y.frames.length = x.frames.length + 1 ∧ y.frozen = true ∧ y.sys.time = x.sys.time

/-- R412: ecall raises ECALL_U in mode U, ECALL_S in mode S and PRIV in mode M, and brk raises BREAK in every mode, with the
immediate in TVAL; neither changes a register. Once the instructions before it have completed, those of its gang's members
among them, the trap set of the handler's mode holds the cause, the instruction's own address and the immediate. The
immediate is IMM[15:0], every other field is reserved, and the rule's two words decode. -/
def Obligations.SystemCalls : Prop :=
  (∀ (s : State) (n : BitVec 16),
    (s.me.core.mode = .u → Traps (exec (.ecall n) s) s .ecallU (n.setWidth 64)) ∧
    (s.me.core.mode = .s → Traps (exec (.ecall n) s) s .ecallS (n.setWidth 64)) ∧
    (s.me.core.mode = .m → Traps (exec (.ecall n) s) s .priv (lowWord (.ecall n))) ∧
    Traps (exec (.brk n) s) s .brk (n.setWidth 64)) ∧
  (∀ (s u : State) (n : BitVec 16) (i : Instr) (c : Cause),
    let x := u.me
    s.quitGang s.cur = some u → x.pendErr = none → AtInstr s.me s.cur →
    (i = .ecall n ∧ s.me.core.mode = .u ∧ c = .ecallU) ∨ (i = .ecall n ∧ s.me.core.mode = .s ∧ c = .ecallS) ∨
      (i = .brk n ∧ c = .brk) →
    Becomes (exec i s) fun t =>
      let y := t.me
      let set := if y.core.mode = .m then y.sys.mtrap else y.sys.strap
      set.tcause = BitVec.ofNat 8 c.code ∧ set.tpc = s.me.core.pc ∧ set.tval = n.setWidth 64 ∧
      y.core.g = x.core.g ∧ y.core.vs = x.core.vs ∧ y.core.loop = x.core.loop ∧ y.core.fflags = x.core.fflags ∧
      y.sys.space = x.sys.space ∧ y.sys.tdeleg = x.sys.tdeleg ∧ y.lanes = x.lanes) ∧
  (∀ (w : BitVec 128) (n : BitVec 16),
    let word := fun (opc : BitVec 64) (n : BitVec 16) => n.setWidth 64 ++ opc
    (decode w = .ok (.ecall n) ↔ w = word 0x344 n) ∧ (decode w = .ok (.brk n) ↔ w = word 0x346 n) ∧
    (w.extractLsb' 0 10 = 0x344 → (∀ k, w ≠ word 0x344 k) → decode w = .reserved) ∧
    (w.extractLsb' 0 10 = 0x346 → (∀ k, w ≠ word 0x346 k) → decode w = .reserved)) ∧
  decode (5#64 ++ 0x0000000000000344#64) = .ok (.ecall 5) ∧ decode (7#64 ++ 0x0000000000000346#64) = .ok (.brk 7)

/-- From R411: sret outside mode U, once every instruction of the hart and every copy that a handler started has completed,
goes back: the mode is PMODE of the trap set of the mode it leaves, the pc its TPC, the handler is left and the hart runs
on. The g registers, FFLAGS and both trap sets stay, and the vector state too when the handler has not executed vclaim. From
R141, R410: vclaim outside mode U, in a hart that is not a firmware hart, completes: in a handler that has not executed it,
once the registers have landed, it writes the trapped context's vector state to the save area and gives the handler a fresh
one, with no loop; elsewhere it does nothing. Where the rules leave a point open it states the choice of the model:
notes/assumptions/24.md, notes/assumptions/42.md, notes/assumptions/43.md and notes/assumptions/159.md. -/
def Obligations.HandlerInstructions : Prop :=
  (∀ (s : State) (x : Hart),
    let set := if x.core.mode = .m then x.sys.mtrap else x.sys.strap
    let base := set.tsave.toNat
    let rest := (if set.pmode = .u then [] else x.frames.tail)
    s.me.landAll = some x → s.me.core.mode ≠ .u → x.handlerCopies = false →
    (∀ f fs k, x.frames = f :: fs → f.kept = some k → (s.setMe x).saveFault base x.G k = none) →
      ∃ t, exec .sret s = .next t ∧ t.me.core.pc = set.tpc ∧ t.me.core.mode = set.pmode ∧ t.me.frames = rest ∧
        t.me.core.st = (if rest = [] then .running else .trapped) ∧ t.me.core.g = x.core.g ∧
        t.me.core.fflags = x.core.fflags ∧ t.me.sys = x.sys ∧ t.me.lanes = x.lanes ∧
        ((∀ f fs, x.frames = f :: fs → f.kept = none) → t.me.core.vs = x.core.vs ∧ t.me.core.loop = x.core.loop)) ∧
  (∀ (s : State) (x : Hart), s.me.landAll = some x → s.me.core.mode ≠ .u → isFirmwareHart s.cur = false →
    let u := (s.setMe x).charge x.G
    (x.frozen = false → Completes (exec .vclaim s) u x) ∧
    ∀ f fs, x.frames = f :: fs → f.claimed = false → x.anyUnlanded = false →
      let v := { u with fresh := u.fresh + 1 }.spill (coreOf s.cur) x x.trapSet.tsave.toNat u.fresh
      ∃ y, Completes (exec .vclaim s) v y ∧ y.core.vs = VState.reset ∧ y.core.loop = { lpc := 0, lcnt := 0, lend := 0 } ∧
        y.frames = { f with claimed := true, kept := some x.core.vs, rayTag := u.fresh } :: fs ∧ y.core.g = x.core.g ∧
        y.core.mode = x.core.mode ∧ y.sys = x.sys ∧ y.lanes = x.lanes ∧ y.core.fflags = x.core.fflags)

/-- From R142-R145: each vector integer instruction of kind E completes, and its active elements become the values of its
row, which wrap to EW bits. -/
def Obligations.VectorIntegerResults : Prop :=
  ∀ (s : State) (d a c : Reg) (b : VSrc) (m : Mask) (sg : Sign) (sat inv : Bool) (sw : Ew) (la : BitVec 4),
    let x := s.me
    let w := x.ew
    let A := fun i => x.elem a.toNat w i
    let B := fun i => x.second b w i
    let D := fun i => x.elem d.toNat w i
    let K := fun i => x.elem c.toNat w i % 2
    let S := toSigned w
    let val : Nat → Int := fun n => match sg with
      | .s => toSigned w n
      | .z => (n : Int)
    let lo : Nat → Int := fun w => if sg = .s then -2 ^ (w - 1) else 0
    let hi : Nat → Int := fun w => if sg = .s then 2 ^ (w - 1) - 1 else 2 ^ w - 1
    let e := fun (i : Instr) (m : Mask) (la : BitVec 4) (f : Nat → Nat) =>
      Elementwise s (exec i s) d w m la fun n => (f n, 0)
    VReady x → GroupOk x d w → MaskOk x m → (∀ r ∈ maskRegs m, Clear x d w r w) →
    (GroupOk x a w → SecondOk x b false → c.toNat + x.core.vs.cfg.p ≤ 64 → Clear x d w c w →
      e (.vadd d a b m) m 0 (fun i => A i + B i) ∧
      e (.vsub d a b m) m 0 (fun i => ofSigned w ((A i : Int) - B i)) ∧
      e (.vadc d a b c) .none 0 (fun i => A i + B i + K i) ∧
      e (.vsbc d a b c) .none 0 (fun i => ofSigned w ((A i : Int) - B i - K i)) ∧
      e (.vmul d a b m) m 0 (fun i => A i * B i) ∧
      e (.vmulh d a b m) m 0 (fun i => ofSigned w (S (A i) * S (B i) / 2 ^ w)) ∧
      e (.vmulhz d a b m) m 0 (fun i => A i * B i / 2 ^ w) ∧
      e (.vmacc d a b m) m 0 (fun i => D i + A i * B i) ∧
      e (.vdiv d a b m la) m la (fun i => if B i = 0 then 2 ^ w - 1 else ofSigned w ((S (A i)).tdiv (S (B i)))) ∧
      e (.vdivz d a b m la) m la (fun i => if B i = 0 then 2 ^ w - 1 else A i / B i) ∧
      e (.vrem .s d a b m la) m la (fun i => if B i = 0 then A i else ofSigned w ((S (A i)).tmod (S (B i)))) ∧
      e (.vrem .z d a b m la) m la (fun i => if B i = 0 then A i else A i % B i) ∧
      e (.vand d a b m) m 0 (fun i => A i &&& B i) ∧ e (.vor d a b m) m 0 (fun i => A i ||| B i) ∧
      e (.vxor d a b m) m 0 (fun i => A i ^^^ B i) ∧ e (.vshl d a b m) m 0 (fun i => A i * 2 ^ (B i % w)) ∧
      e (.vshr d a b m) m 0 (fun i => A i / 2 ^ (B i % w)) ∧
      e (.vsra d a b m) m 0 (fun i => ofSigned w (S (A i) / 2 ^ (B i % w))) ∧
      e (.vmin d a b m) m 0 (fun i => if S (A i) ≤ S (B i) then A i else B i) ∧
      e (.vmax d a b m) m 0 (fun i => if S (A i) ≤ S (B i) then B i else A i) ∧
      e (.vumin d a b m) m 0 (fun i => if A i ≤ B i then A i else B i) ∧
      e (.vumax d a b m) m 0 (fun i => if A i ≤ B i then B i else A i) ∧
      e (.vsadd sg d a b m) m 0 (fun i => ofSigned w (max (lo w) (min (hi w) (val (A i) + val (B i))))) ∧
      e (.vssub sg d a b m) m 0 (fun i => ofSigned w (max (lo w) (min (hi w) (val (A i) - val (B i))))) ∧
      e (.vsel d a b c inv) .none 0 (fun i => if (K i = 1) ≠ (inv = true) then A i else B i) ∧
      e (.vmov d b m) m 0 B) ∧
    e (.vid d m) m 0 (fun i => i) ∧
    (GroupOk x a sw.width → Clear x d w a sw.width → e (.vcvti sg sat sw d a m) m 0 fun i =>
      let v := x.elem a.toNat sw.width i
      let z : Int := match sg with
        | .s => toSigned sw.width v
        | .z => v
      ofSigned w (if sat ∧ w < sw.width then max (lo w) (min (hi w) z) else z))

/-- From R142, R134: the integer compares and carry tests complete with their truth values in v[D] and VFLAGS; vpopc, vfirst
and vlast count and find, among the active elements, those whose bit 0 is 1, and answer all ones when vfirst and vlast find
none. From R153, R154: the reductions complete, fold the active elements below VL into g[B] and write the result to g[D];
with no active element it is g[B] itself. The float sum is ordered or a tree. From R151, R155: vbfly writes the sum and the
difference of each pair of active elements at its distance; vextr reads the element of v[A] that g[B] names, extended, or 0
beyond VL; vinsr writes it in v[D], or nothing beyond VL. -/
def Obligations.VectorTestsAndReductions : Prop :=
  (∀ (s : State) (d a c : Reg) (b : VSrc) (m : Mask) (k : Cond),
    let x := s.me
    let w := x.ew
    let A := fun i => x.elem a.toNat w i
    let B := fun i => x.second b w i
    let K := fun i => x.elem c.toNat w i % 2
    let S := toSigned w
    let set := (actives x m).filter fun i => A i % 2 == 1
    VReady x → GroupOk x d w → GroupOk x a w → SecondOk x b false → MaskOk x m → c.toNat + x.core.vs.cfg.p ≤ 64 →
      MaskResult s (exec (.vcmp k d a b m) s) d m (fun i => (match k with
        | .eq => decide (A i = B i)
        | .ne => decide (A i ≠ B i)
        | .lt => decide (S (A i) < S (B i))
        | .ge => decide (S (B i) ≤ S (A i))
        | .lo => decide (A i < B i)
        | .hs => decide (B i ≤ A i), 0)) ∧
      MaskResult s (exec (.vmadc d a b c) s) d .none (fun i => (decide (2 ^ w ≤ A i + B i + K i), 0)) ∧
      MaskResult s (exec (.vmsbc d a b c) s) d .none (fun i => (decide (A i < B i + K i), 0)) ∧
      ScalarResult s (exec (.vpopc d a m) s) d set.length 0 ∧
      ScalarResult s (exec (.vfirst d a m) s) d (set.head?.getD (2 ^ 64 - 1)) 0 ∧
      ScalarResult s (exec (.vlast d a m) s) d (set.getLast?.getD (2 ^ 64 - 1)) 0) ∧
  (∀ (s : State) (d a b : Reg) (m : Mask) (sg : Sign) (f : Fmt) (rm : RmF) (tree : Bool),
    let x := s.me
    let w := x.ew
    let r := RMode.ofField rm x.core.vs.cfg.rm
    let A := (actives x m).map fun i => x.elem a.toNat w i
    let b0 := (x.readG b).toNat % 2 ^ w
    let val : Nat → Int := fun n => match sg with
      | .s => toSigned w n
      | .z => (n : Int)
    let ext := fun (n : Nat) => match sg with
      | .s => ofSigned 64 (toSigned w n)
      | .z => n
    let leaves := (List.range x.vl).map fun i => if i ∈ actives x m then some (x.elem a.toNat w i) else none
    let depth := if x.vl ≤ 1 then 0 else Nat.log2 (x.vl - 1) + 1
    VReady x → GroupOk x a w → MaskOk x m → Clean x [b] →
      ScalarResult s (exec (.vredadd sg d a b m) s) d (ext (A.foldl (fun r v => (r + v) % 2 ^ w) b0)) 0 ∧
      ScalarResult s (exec (.vredmax sg d a b m) s) d
        (ext (A.foldl (fun r v => if val r < val v then v else r) b0)) 0 ∧
      ScalarResult s (exec (.vredmin sg d a b m) s) d
        (ext (A.foldl (fun r v => if val r < val v then r else v) b0)) 0 ∧
      (f.k.width = w →
        let fold := fun (g : Nat → Nat → Nat × Flags) => A.foldl (fun (t : Nat × Flags) v =>
          ((g t.1 v).1, t.2 ||| (g t.1 v).2)) (b0, 0)
        let sum := match tree, treeSum (fAdd f.k r) depth leaves with
          | false, _ => fold (fAdd f.k r)
          | true, (none, _) => (b0, 0)
          | true, (some t, fl) => ((fAdd f.k r b0 t).1, fl ||| (fAdd f.k r b0 t).2)
        ScalarResult s (exec (.vfredadd f rm tree d a b m) s) d sum.1 sum.2 ∧
        (let v := fold (fMinMax f.k true)
         ScalarResult s (exec (.vfredmax f d a b m) s) d v.1 v.2) ∧
        (let v := fold (fMinMax f.k false)
         ScalarResult s (exec (.vfredmin f d a b m) s) d v.1 v.2))) ∧
  (∀ (s : State) (d a b : Reg) (m : Mask) (sg : Sign) (f : Fmt) (rm : RmF) (dist : BitVec 14),
    let x := s.me
    let w := x.ew
    let r := RMode.ofField rm x.core.vs.cfg.rm
    let k := dist.toNat
    let A := fun i => x.elem a.toNat w i
    let low := (actives x m).filter fun i => decide (i % (2 * k) < k) && decide (i + k < x.vl)
    let at_ := (x.readG b).toNat
    let inside := x.vstart < x.vl ∧ at_ < x.vl
    VReady x →
      (GroupOk x a w → GroupOk x d w → MaskOk x m → f.k.width = w → (Instr.vbfly f rm d a dist m).wf = true →
        ∃ y, Completes (exec (.vbfly f rm d a dist m) s) (s.charge x.beats) y ∧
          VecEffect x y d w
            (fun i => if i ∈ low then some ((fAdd f.k r (A i) (A (i + k))).1 % 2 ^ w)
              else if k ≤ i ∧ i - k ∈ low then some ((fSub f.k r (A (i - k)) (A i)).1 % 2 ^ w) else none)
            (low.foldl (fun (fl : Flags) i => fl ||| (fAdd f.k r (A i) (A (i + k))).2 ||| (fSub f.k r (A i) (A (i + k))).2) 0)
            x.core.vs.flags) ∧
      (GroupOk x a w → Clean x [b] → ScalarResult s (exec (.vextr sg d a b) s) d
        (if inside then (match sg with
          | .s => ofSigned 64 (toSigned w (A at_))
          | .z => A at_) else 0) 0) ∧
      (GroupOk x d w → Clean x [a, b] →
        ∃ y, Completes (exec (.vinsr d a b) s) (s.charge x.beats) y ∧
          VecEffect x y d w (fun i => if inside ∧ i = at_ then some ((x.readG a).toNat % 2 ^ w) else none) 0 x.core.vs.flags))

/-- From R146-R148, R89: each vector float instruction completes: its active elements become what the scalar operation
gives, under its rounding mode, and FFLAGS gathers the flags of the active elements. vfcmp sets VFLAGS. Where the rules
leave a point open it states the choice of the model: notes/assumptions/134.md. -/
def Obligations.VectorFloatResults : Prop :=
  ∀ (s : State) (d a : Reg) (b : VSrc) (m : Mask) (f sf : Fmt) (rm : RmF) (k : FCond) (op : SgnOp) (u : Bool) (la : BitVec 4),
    let x := s.me
    let w := x.ew
    let r := RMode.ofField rm x.core.vs.cfg.rm
    let A := fun i => x.elem a.toNat w i
    let B := fun i => x.second b w i
    let D := fun i => x.elem d.toNat w i
    let e := fun (i : Instr) (la : BitVec 4) (g : Nat → Nat × Flags) => Elementwise s (exec i s) d w m la g
    let dest := fun (dw : Nat) => GroupOk x d dw ∧ ∀ r ∈ maskRegs m, Clear x d dw r w
    VReady x → MaskOk x m →
    (f.k.width = w → dest w → GroupOk x a w → SecondOk x b true →
      e (.vfadd f rm d a b m) 0 (fun i => fAdd f.k r (A i) (B i)) ∧
      e (.vfsub f rm d a b m) 0 (fun i => fSub f.k r (A i) (B i)) ∧
      e (.vfmul f rm d a b m) 0 (fun i => fMul f.k r (A i) (B i)) ∧
      e (.vfma f rm d a b m) 0 (fun i => fFma f.k r false false (A i) (B i) (D i)) ∧
      e (.vfms f rm d a b m) 0 (fun i => fFma f.k r false true (A i) (B i) (D i)) ∧
      e (.vfnma f rm d a b m) 0 (fun i => fFma f.k r true false (A i) (B i) (D i)) ∧
      e (.vfdiv f rm d a b m la) la (fun i => fDiv f.k r (A i) (B i)) ∧
      e (.vfsqrt f rm d a m la) la (fun i => fSqrt f.k r (A i)) ∧
      e (.vfrsqe f d a m) 0 (fun i => fRsqE f.k (A i)) ∧ e (.vfrece f d a m) 0 (fun i => fRecE f.k (A i)) ∧
      e (.vfmin f d a b m) 0 (fun i => fMinMax f.k false (A i) (B i)) ∧
      e (.vfmax f d a b m) 0 (fun i => fMinMax f.k true (A i) (B i)) ∧
      e (.vfclass f d a m) 0 (fun i => (fClass f.k (A i), 0)) ∧
      e (.vfsgn f op d a b m) 0 (fun i => (fSgn f.k op (A i) (B i), 0)) ∧
      e (.vfrnd f rm d a m) 0 (fun i => fRnd f.k r (A i)) ∧
      MaskResult s (exec (.vfcmp f k d a b m) s) d m (fun i => fCmp f.k k (A i) (B i))) ∧
    (f.k.width = w → dest w → GroupOk x a sf.k.width → Clear x d w a sf.k.width →
      e (.vfcvt f rm sf d a m) 0 (fun i => fCvt f.k sf.k r (x.elem a.toNat sf.k.width i))) ∧
    (dest w → GroupOk x a f.k.width → Clear x d w a f.k.width → e (.vfcvti f rm u d a m) 0 fun i =>
      let v := fToInt f.k r (!u) w (x.elem a.toNat f.k.width i)
      (ofSigned w v.1, v.2)) ∧
    (dest f.k.width → GroupOk x a w → Clear x d f.k.width a w →
      Elementwise s (exec (.vicvtf f rm u d a m) s) d f.k.width m 0 fun i =>
        intToF f.k r (if u then (A i : Int) else toSigned w (A i)))

/-- From R150, R152: the five element moves complete and move the units that their rows name: slides by an offset, gathers
by the index in v[B], compress to the front and expand from the front; a source beyond VLMAX gives zero. -/
def Obligations.ElementMoves : Prop :=
  ∀ (s : State) (d a b : Reg) (off : SlideOff) (pair : Bool) (m : Mask),
    let x := s.me
    let c := x.core.vs.cfg
    let w := x.ew
    let size := if pair then 2 * c.p else c.p
    let es := moveUnits x m pair
    let max := if pair then x.vlmax / 32 else x.vlmax
    let n := match off with
      | .gpr r => (x.readG r).toNat
      | .imm v => v.toNat
    let ix := fun i => x.elem b.toNat (if pair then 32 else w) i
    let below := fun (j : Nat) => if j < max then some j else none
    VReady x → GroupOk x d w → GroupOk x a w → MaskOk x m → (pair = true → c.pairOk [d, a] = true) →
    overlaps d.toNat size a.toNat size = false →
      (Clean x (match off with
        | .gpr r => [r]
        | .imm _ => []) →
        Moves s (exec (.vslideup d a off pair m) s) d a pair
          (fun i => if i ∈ es ∧ n ≤ i then some (some (i - n)) else none) ∧
        Moves s (exec (.vslidedn d a off pair m) s) d a pair
          (fun i => if i ∈ es then some (below (i + n)) else none)) ∧
      (GroupOk x b w → (pair = true → c.pairOk [d, a, b] = true) → overlaps d.toNat size b.toNat size = false →
        Moves s (exec (.vgatherR d a b pair m) s) d a pair (fun i => if i ∈ es then some (below (ix i)) else none)) ∧
      Moves s (exec (.vcompress d a pair m) s) d a pair (fun i => (es[i]?).map some) ∧
      Moves s (exec (.vexpand d a pair m) s) d a pair
        (fun i => if i ∈ es then some (some (es.filter fun j => decide (j < i)).length) else none)

/-- From R238-R242: outside VL ≤ VSTART, the vector loads and stores whose elements all pass the probe and wait for no
earlier access complete, each element at the address of its row: unit stride, stride g[B], or index v[B], in the data space,
the hart's own lane memory or a peer's. Where the rules leave a point open it states the choice of the model:
notes/assumptions/27.md and notes/assumptions/35.md. -/
def Obligations.VectorAccesses : Prop :=
  ∀ (s : State) (d a b : Reg) (imm : Word) (iw : Ew) (scale : BitVec 2) (m : Mask) (la : BitVec 4),
    let x := s.me
    let n := x.core.vs.cfg.ew.bytes
    let base := x.readG a + x.readG b + imm
    let unit := fun (i : Nat) => base + BitVec.ofNat 64 (i * n)
    let stride := fun (i : Nat) => x.readG a + imm + BitVec.ofNat 64 i * x.readG b
    let index := fun (i : Nat) => x.readG a + BitVec.ofNat 64 (x.elem b.toNat iw.width i * 2 ^ scale.toNat)
    VReady x → GroupOk x d x.ew → MaskOk x m → Untraced s → x.vstart < x.vl →
      (Clean x [a, b] →
        Loads s (exec (.vld d a b imm m la) s) .data false d m la unit ∧
        Stores s (exec (.vst d a b imm m la) s) .data false false d m la unit ∧
        Loads s (exec (.vlds d a b imm m la) s) .data false d m la stride ∧
        Stores s (exec (.vsts d a b imm m la) s) .data false false d m la stride ∧
        Loads s (exec (.vldL d a b imm m la) s) .own false d m la unit ∧
        Stores s (exec (.vstL d a b imm m la) s) .own false false d m la unit ∧
        Stores s (exec (.vstP d a b imm m la) s) .peer false true d m la unit) ∧
      (Clean x [a] → GroupOk x b iw.width →
        Loads s (exec (.vldx d a b iw scale m la) s) .data true d m la index ∧
        Stores s (exec (.vstx d a b iw scale m la) s) .data true false d m la index ∧
        Loads s (exec (.vldxL d a b iw scale m la) s) .own true d m la index ∧
        Stores s (exec (.vstxL d a b iw scale m la) s) .own true false d m la index)

/-- From R242: a mask-returning access that waits for no earlier access completes with the elements that pass the probe
performed, writes all ones to v[F] for the elements that faulted and zero for the others, and sets VFLAGS from them; a fault
traps only when it is a watch stop. With LA ≠ 0 a window holds what it writes to registers. From R243, R224: a vector atomic
of 32- or 64-bit elements that all pass the probe completes: with CMB elements of one address combine in ascending order,
and each request replaces the old value at its address, in the order of its first elements; each element receives in v[D]
the value that it would read in that order. With REL the instruction waits until the hart's earlier accesses are performed;
with ACQ it then acquires at VCFG.SC. The old values come once every RDC copy of their lines has been invalidated. With LA ≠
0 a window holds them. With VSTART ≥ VL it performs nothing. Networks that are congested are left out. Where the rules leave
a point open it states the choice of the model: notes/assumptions/35.md, notes/assumptions/139.md, notes/assumptions/143.md
and notes/assumptions/170.md. -/
def Obligations.MaskReturningAndAtomic : Prop :=
  (∀ (s : State) (d a b f : Reg) (iw : Ew) (scale : BitVec 2) (m : Mask) (la : BitVec 4),
    let x := s.me
    let c := x.core.vs.cfg
    let w := x.ew
    let n := c.ew.bytes
    let peer := fun (i : Nat) => BitVec.ofNat 64 (x.elem b.toNat 64 i)
    let index := fun (i : Nat) => x.readG a + BitVec.ofNat 64 (x.elem b.toNat iw.width i * 2 ^ scale.toNat)
    let quiet := fun (ps : List Probed) => ∀ p ∈ ps, ∀ e, faultOf p = some e → e.1 ≠ .watch
    let apart := fun (k : Nat) =>
      f.toNat + c.p ≤ 64 ∧ overlaps f.toNat c.p d.toNat c.p = false ∧ overlaps f.toNat c.p b.toNat (c.groupSize k) = false
    let after := fun (ps : List Probed) (z y : Hart) (loaded : Nat → Option Nat) =>
      let bad := fun i => ps.any fun p => p.1 == i && (faultOf p).isSome
      let on := fun i => ps.any fun p => p.1 == i
      (∀ i < x.vlmax, y.elem d.toNat w i = (loaded i).getD (x.elem d.toNat w i)) ∧
      (∀ i < x.vlmax, y.elem f.toNat w i = if on i then (if bad i then 2 ^ w - 1 else 0) else x.elem f.toNat w i) ∧
      (∀ r, overlaps r 1 d.toNat c.p = false → overlaps r 1 f.toNat c.p = false → y.core.vs.reg r = x.core.vs.reg r) ∧
      y.core.vs.flags = { n := !ps.any (fun p => (faultOf p).isSome), s := ps.any (fun p => (faultOf p).isSome),
                          a := !ps.isEmpty && ps.all fun p => (faultOf p).isSome } ∧
      y.core.vs.vstart = 0 ∧ y.core.g = z.core.g ∧ y.core.vs.em = z.core.vs.em ∧ y.core.vs.cfg = z.core.vs.cfg
    let ends := fun (o : Out) (u : State) (ps : List Probed) (loaded : Nat → Option Nat) =>
      (la = 0 → ∃ y, Completes o u y ∧ after ps u.me y loaded) ∧
      (la ≠ 0 → ∃ (win : Window) (z : Hart), win.left = la.toNat ∧ win.sets = true ∧ win.await = .nothing ∧
        z.windows = u.me.windows ∧ after ps u.me (z.land win) loaded ∧
        Completes o u { z with windows := z.windows ++ [win] })
    let loads := fun (o : Out) (sp : VSpace) (addr : Nat → Word) =>
      let P := probed s sp .load true m addr
      let L := P.2.loadElems n P.1
      quiet P.1 → (Behind s .load P → o = .next s) ∧ (¬Behind s .load P → (∀ e ∈ L.1, e.2.2 = none) →
        ends o L.2 P.1 fun i => (L.1.find? fun e => e.1 == i).map fun e => e.2.1 % 2 ^ w)
    VReady x → GroupOk x d w → MaskOk x m → Untraced s → x.vstart < x.vl →
      (GroupOk x b 64 → apart 64 →
        loads (exec (.vpgather d b f m la) s) .peer peer ∧
        (let P := probed s .peer .store true m peer
         let u := (P.2.dirtyElems P.1).storeElems false n (fun i => x.elem d.toNat w i) P.1
         quiet P.1 → ends (exec (.vpscatter d b f m la) s) u P.1 fun _ => none)) ∧
      (Clean x [a] → GroupOk x b iw.width → apart iw.width → loads (exec (.vldxM d a b iw scale f m la) s) .data index)) ∧
  (∀ (s : State) (op : AmoOp) (cmb acq rel : Bool) (d a b : Reg) (iw : Ew) (scale : BitVec 2) (m : Mask) (la : BitVec 4),
    let x := s.me
    let w := x.ew
    let sc := x.core.vs.cfg.sc
    let e := if rel then s.landPeers fun p => p.uid == x.who.uid else s
    let P := probed e .data .atomic true m fun i =>
      x.readG a + BitVec.ofNat 64 (x.elem b.toNat iw.width i * 2 ^ scale.toNat)
    let R := amoRequests (P.2.dirtyElems P.1) op x.core.vs.cfg.ew.bytes (fun i => x.elem d.toNat w i) (amoGroups cmb P.1)
    let u := if acq then R.2.acquire (coreOf R.2.cur) sc else R.2
    let owed := ∃ i ∈ u.net.invals, ∃ g ∈ amoGroups cmb P.1, ∃ p xl pa, g.head? = some p ∧
      p.2.2 = .ok (.data (.mem xl (.dram pa))) ∧ i.line = pa / 128
    let o := exec (.vamo op cmb d a b iw scale acq rel m la) s
    let effect := fun (y : Hart) =>
      VecEffect u.me y d w (fun i => (R.1.find? fun e => e.1 == i).map fun e => e.2.1 % 2 ^ w) 0 x.core.vs.flags
    VReady x → GroupOk x d w → GroupOk x b iw.width → MaskOk x m → Clean x [a] → Untraced s → NoAtomic s →
    s.net.congested = false → (w = 32 ∨ (w = 64 ∧ op ≠ .fadd)) →
      (rel = true → 2 ≤ sc.toNat → e.acked = false → o = .next e) ∧
      (rel = false ∨ sc.toNat < 2 ∨ e.acked = true →
        (x.vl ≤ x.vstart → Completes o (issued e) (e.me.modVs fun v => { v with vstart := 0 })) ∧
        (x.vstart < x.vl → (∀ p ∈ P.1, faultOf p = none) → (Behind e .atomic P → o = .next e) ∧
        (¬Behind e .atomic P → (∀ e ∈ R.1, e.2.2 = none) →
        (¬owed → la = 0 → ∃ y, Completes o u y ∧ effect y) ∧
        (owed ∨ la ≠ 0 → ∃ win : Window, win.left = la.toNat ∧ win.gw = [] ∧ win.fl = 0 ∧
          (¬owed → win.await = .nothing) ∧ (owed → ∃ ls, win.await = .acks ls) ∧
          effect ((u.me.modVs fun v => { v with vstart := 0 }).land win) ∧
          Completes o u { u.me.modVs (fun v => { v with vstart := 0 }) with windows := u.me.windows ++ [win] })))))

/-- From R157, R158, R166, R167, R183: with the claim free or held, mclr zeroes a tile, the tile loads and stores whose
pieces all pass the probe move its 1,024 elements, and mvt moves G rows between a tile and a register. No other tile or
panel changes. From R161-R163, R168, R172, R93: mld.w fills a panel from an image whose pieces pass the probe and which
obeys R163, and dtab.ld a decode table from 256 words below 2^19; the other panels and tables stay. Where the rules leave a
point open it states the choice of the model: notes/assumptions/36.md, notes/assumptions/37.md, notes/assumptions/11.md and
notes/assumptions/137.md. -/
def Obligations.TilesPanelsTables : Prop :=
  (∀ (s : State) (f : TFmt) (rm : RmF) (sat sp : Bool) (t : BitVec 3) (a b d : Reg) (imm : Word) (row0 : BitVec 5)
    (la : BitVec 4),
    let x := s.me
    let c := coreOf s.cur
    let me := s.who s.cur
    let stride := fun (z : Nat) => if x.readG b = 0 then BitVec.ofNat 64 (32 * z) else x.readG b
    let pieces := fun (z : Nat) => tilePieces (x.readG a + imm) (stride z) z
    let same := fun (u v : State) (t : Nat) => (∀ k, k ≠ t → (v.matrix c).tile k = (u.matrix c).tile k) ∧
      (v.matrix c).panels = (u.matrix c).panels ∧ (v.matrix c).claim = some x.who.claim
    let loads := fun (o : Out) (f : TFmt) (sp : Bool) =>
      let P := s.probePieces me sp .load {} (pieces f.size)
      let h := (held P.2).charge x.G
      let R := h.loadTile me c t.toNat f (targetsOf P.1)
      let vs := (h.readPieces me (targetsOf P.1)).1
      (x.readG a + imm).toNat % f.size = 0 → (stride f.size).toNat % f.size = 0 → P.2.blockTrap me .load P.1 = none →
      CanClaim P.2 →
        Completes o R.2 (results R.2.me.vend R.2.me.core.pc la [] [] R.1) ∧ same h R.2 t.toNat ∧
        ∀ e < 1024, tileElem ((R.2.matrix c).tile t.toNat) e = (tileIn f (vs.getD e (0, none)).1).1 % 2 ^ 32
    let stores := fun (o : Out) (f : TFmt) (r : RMode) (sat sp : Bool) =>
      let P := s.probePieces me sp .store {} (pieces f.size)
      let h := held P.2
      let R := (h.charge x.G).storeTile me c t.toNat f r sat (targetsOf P.1)
      (x.readG a + imm).toNat % f.size = 0 → (stride f.size).toNat % f.size = 0 → P.2.blockTrap me .store P.1 = none →
      CanClaim P.2 → (h.matrix c).tPoison = [] → Completes o R.2 (results R.2.me.vend R.2.me.core.pc la [] [] R.1)
    x.frozen = false →
      (CanClaim s → ∃ u, Completes (exec (.mclr t) s) u x.vend ∧ same (held s) u t.toNat ∧
        ∀ e < 1024, tileElem ((u.matrix c).tile t.toNat) e = 0) ∧
      (Clean x [a, b] →
        loads (exec (.mldT f t a b sp imm la) s) f sp ∧ loads (exec (.vmld t a b imm la) s) .s false ∧
        stores (exec (.mstT f rm sat t a b sp imm la) s) f (RMode.ofField rm x.core.vs.cfg.rm) sat sp ∧
        stores (exec (.vmst t a b imm la) s) .s .rne false false) ∧
      (VReady x → CanClaim s → row0.toNat + x.G ≤ 32 → (Instr.mvt true d a row0).wf = true →
        ∃ u, Completes (exec (.mvt true d a row0) s) u (x.modVs fun v => { v with vstart := 0 }) ∧ same (held s) u d.toNat ∧
          ∀ e < 1024, tileElem ((u.matrix c).tile d.toNat) e =
            if 32 * row0.toNat ≤ e ∧ e < 32 * (row0.toNat + x.G) then x.elem a.toNat 32 (e - 32 * row0.toNat)
            else tileElem (((held s).matrix c).tile d.toNat) e) ∧
      (VReady x → CanClaim s → row0.toNat + x.G ≤ 32 → ((held s).matrix c).tPoison = [] →
        ∃ u y, Completes (exec (.mvt false d a row0) s) u y ∧ u.matrix c = (held s).matrix c ∧
          (∀ i < 32 * x.G, y.elem d.toNat 32 i = tileElem (((held s).matrix c).tile a.toNat) (32 * row0.toNat + i)) ∧
          (∀ r, r ≠ d.toNat → y.core.vs.reg r = x.core.vs.reg r) ∧ y.core.g = x.core.g ∧ y.core.vs.vstart = 0)) ∧
  (∀ (s : State) (slot n : BitVec 2) (panel : BitVec 4) (f : WForm) (scl sp : Bool) (a b : Reg) (imm : Word) (la : BitVec 4),
    let x := s.me
    let c := coreOf s.cur
    let me := s.who s.cur
    let addr := x.readG a + imm
    let st : Word := if f = .dense then x.readG b else 0
    x.frozen = false →
      (let P := s.probePieces me sp .load {} (imagePieces f scl addr st)
       let R := P.2.readPanel me f scl (targetsOf P.1)
       let key := 16 * slot.toNat + panel.toNat
       ∀ v ps, Clean x (if f = .dense then [a, b] else [a]) → imageAligned f addr st = true → P.2.blockTrap me .load P.1 = none →
         R.1 = .ok (v, ps) → CanClaim R.2 →
         ∃ u, Completes (exec (.mldW slot panel f scl a b sp imm la) s) u (results u.me.vend u.me.core.pc la [] [] 0) ∧
           (u.matrix c).panel slot.toNat panel.toNat = v ∧
           (∀ k < 512, (tfind (u.matrix c).wPoison (512 * key + k)).isSome = ps.any fun e => e.1 == k) ∧
           (∀ k, k ≠ key → tget 0 (u.matrix c).panels k = tget 0 ((held R.2).matrix c).panels k) ∧
           (u.matrix c).tiles = ((held R.2).matrix c).tiles) ∧
      (let P := s.probePieces me sp .load {}
         ((List.range 256).map fun k => { addr := addr + BitVec.ofNat 64 (4 * k), n := 4, elem := 0 })
       let R := P.2.readPieces me (targetsOf P.1)
       Clean x [a] → addr.toNat % 4 = 0 → P.2.blockTrap me .load P.1 = none → (∀ v ∈ R.1, v.2 = none ∧ v.1 < 2 ^ 19) →
         ∃ u, Completes (exec (.dtabLd n a sp imm la) s) u (results u.me.vend u.me.core.pc la [] [] 0) ∧
           ((u.core c).dt x.who.vi n.toNat).loaded = true ∧
           (∀ e < 256, dtEntry ((u.core c).dt x.who.vi n.toNat).entries e = (R.1.getD e (0, none)).1) ∧
           ((u.core c).dt x.who.vi n.toNat).enc = dtEncodable ((u.core c).dt x.who.vi n.toNat).entries .q8 ∧
           ∀ k, k ≠ n.toNat → (u.core c).dt x.who.vi k = (R.2.core c).dt x.who.vi k))

/-- From R101, R164, R169, R170: mma and, on stepping B0, mma.s48 with operands that hold no poison complete: rows row0 to
row0 + 2 G − 1 of the tile become the ordered sums of R101 over the groups of A and of the panel, their flags are raised and
every other element stays. On stepping A0 mma.s48 traps LIFETIME. Where the rules leave a point open it states the choice of
the model: notes/assumptions/130.md. -/
def Obligations.MatrixProducts : Prop :=
  ∀ (s : State) (f : MFmt) (sat : Bool) (t : BitVec 3) (a : Reg) (slot : BitVec 2) (panel : BitVec 4) (row0 : BitVec 5)
    (la : BitVec 4),
    let x := s.me
    let c := coreOf s.cur
    let h := held (s.setMe x)
    let k := h.core c
    let v := k.mat.panel slot.toNat panel.toNat
    let old := k.mat.tile t.toNat
    let product := fun (o : Out) (row : Nat → List MGroup) (col : Nat → List MGroup) =>
      ∃ u fl, Completes o u (results x.vend x.core.pc la [] [] fl false) ∧
        fl = (List.range (2 * x.G)).foldl (fun (g : Flags) m => (List.range 32).foldl (fun (g : Flags) n =>
          g ||| (mmaElem sat (tileElem old (32 * (row0.toNat + m) + n)) (row m) (col n)).2) g) 0 ∧
        (∀ m < 32, ∀ n < 32, tileElem ((u.matrix c).tile t.toNat) (32 * m + n) =
          if row0.toNat ≤ m ∧ m < row0.toNat + 2 * x.G then
            (mmaElem sat (tileElem old (32 * m + n)) (row (m - row0.toNat)) (col n)).1 % 2 ^ 32
          else tileElem old (32 * m + n)) ∧
        (∀ j, j ≠ t.toNat → (u.matrix c).tile j = k.mat.tile j) ∧ (u.matrix c).panels = k.mat.panels
    let arow := fun (m : Nat) => (List.range 4).map fun b =>
      k.decodeGroup x.who.vi .q8 (x.elem (a + 2).toNat 32 (m * 4 + b)) (x.elem a.toNat 8) (m * 128 + 32 * b)
    VReady x → CanClaim s → k.mat.tPoison = [] → k.mat.wPoison = [] → (∀ n, (k.dt x.who.vi n).poison = []) →
    row0.toNat + 2 * x.G ≤ 32 →
      product (exec (.mma f sat t a slot panel row0 la) s) (x.aGroups k f a) (panelGroups k x.who.vi f v) ∧
      (s.stepping = .b0 → (∀ j < 512, metaOk (panelNat v (0x200 + 2 * j) 2) = true) →
        product (exec (.mmaS48 sat t a slot panel row0 la) s) arow (sparseGroups k x.who.vi v)) ∧
      (s.stepping = .a0 → Traps (exec (.mmaS48 sat t a slot panel row0 la) s) s .lifetime
        (lowWord (.mmaS48 sat t a slot panel row0 la)))

/-- From R178, R180, R181: mcmd with an aligned descriptor that it can read and a core that exists sends the command,
carrying the capability of g[B], once the hart's earlier accesses are performed as its scope asks, and leaves a window that
awaits its status; a core that does not exist gives status 0x42; mwait completes when no command is outstanding and no
status is due to trap, changing nothing else, and waits while one is outstanding. From R178–R181, R355: a remote matrix
command is performed once at its target, where its capability is checked first and its descriptor next: a command whose
capability does not allow it answers 40H, one with a bad descriptor 42H, a misaligned one 13H, and none of them changes a
tile. MCLR zeroes its tile. The status then reaches the hart that sent the command. Where the rules leave a point open it
states the choice of the model: notes/assumptions/103.md, notes/assumptions/104.md, notes/assumptions/105.md,
notes/assumptions/139.md and notes/assumptions/167.md. -/
def Obligations.RemoteMatrix : Prop :=
  (∀ (s : State) (trap : Bool) (d a b c : Reg) (la : BitVec 4),
    let x := s.me
    let me := s.who s.cur
    let addr := x.readG c
    let P := s.probePieces me false .load {}
      ((List.range 8).map fun k => { addr := addr + BitVec.ofNat 64 (8 * k), n := 8, elem := 0 })
    let R := P.2.readPieces me (targetsOf P.1)
    let e := R.2.landPeers fun p => p.uid == x.who.uid
    x.frozen = false →
      (Clean x [a, b, c] → addr.toNat % 64 = 0 → P.2.blockTrap me .load P.1 = none → (∀ v ∈ R.1, v.2 = none) →
        1024 ≤ (x.readG a).toNat → Completes (exec (.mcmd trap d a b c la) s) (R.2.charge x.G)
          (results R.2.me.vend R.2.me.core.pc la [(d, 0x42, none)] [] 0)) ∧
      (Clean x [a, b, c] → addr.toNat % 64 = 0 → P.2.blockTrap me .load P.1 = none → (∀ v ∈ R.1, v.2 = none) →
        (x.readG a).toNat < 1024 → (NoAtomic e → 2 ≤ x.core.vs.cfg.sc.toNat → e.acked = false →
          exec (.mcmd trap d a b c la) s = .next e) ∧
        (NoAtomic e → (x.core.vs.cfg.sc.toNat < 2 ∨ e.acked = true) →
        let id := (e.charge x.G).fresh
        let m : Mcmd := { id := id, hart := s.cur, uid := x.who.uid, vi := x.who.vi, space := x.sys.space, mode := x.core.mode,
                          sc := x.core.vs.cfg.sc, core := (x.readG a).toNat, cap := x.readG b,
                          desc := R.1.map fun v => BitVec.ofNat 64 v.1, trap := trap, dest := d, pc := x.core.pc,
                          status := none }
        ∃ t, exec (.mcmd trap d a b c la) s = .next t ∧ t.net.mcmds = e.net.mcmds ++ [m] ∧
          t.me.windows = e.me.windows ++ [{ pc := e.me.core.pc, left := la.toNat, gw := [], vw := [], fl := 0, await := .mcmd id }] ∧
          t.me.core.pc = e.me.advance.core.pc ∧ t.me.core.g = e.me.core.g ∧ t.phys = e.phys)) ∧
      ((∀ w ∈ x.windows, ∀ id, w.await ≠ .mcmd id) → x.caps = [] → Completes (exec .mwait s) (s.charge x.G) x) ∧
      ((∃ w ∈ x.windows, ∃ id, w.await = .mcmd id) → Gives (exec .mwait s) s (x.setSt (.waiting .poll)))) ∧
  ((∀ (s : State) (k : Nat) (m : Mcmd), s.net.mcmds[k]? = some m → m.status = none →
    m.past = true ∨ s.blocked (shortRoutes (dieOf m.hart) (dieOfCore m.core)) = none →
    let i := if m.op = 1 then Instr.remoteMldT k else if m.op = 2 then .remoteMstT k else if m.op = 3 then .remoteMldW k
      else if m.op = 4 then .mma16 k else .remoteMclr k
    let act := fun (s : State) => if m.op = 1 then s.doMldT m else if m.op = 2 then s.doMstT m else if m.op = 3 then s.doMldW m
      else s.doMma16 m
    let ends := fun (st : Word) (u : State) =>
      exec i s = .next { u with net := { u.net with mcmds := u.net.mcmds.set k { m with status := some st, past := false } } }
    let stride := tileStride m.stride (TFmt.ofBits (BitVec.ofNat 2 m.fmt)).size
    (s.capAllows m = false → ends 0x40 s) ∧ (s.capAllows m = true → m.valid = false → ends 0x42 s) ∧
    (s.capAllows m = true → m.valid = true →
      (m.op = 0 → Becomes (exec i s) fun t =>
        t.net.mcmds = s.net.mcmds.set k { m with status := some 0, past := false } ∧ t.harts = s.harts ∧ t.phys = s.phys ∧
        (∀ e < 1024, tileElem ((t.matrix m.core).tile m.tile) e = 0) ∧
        (∀ j, j ≠ m.tile → (t.matrix m.core).tile j = (s.matrix m.core).tile j) ∧
        (t.matrix m.core).panels = (s.matrix m.core).panels ∧ ∀ c, c ≠ m.core → t.core c = s.core c) ∧
      (m.op ≠ 0 → ends (act s).1 (act s).2) ∧
      (m.op = 1 ∨ m.op = 2 → m.addr.toNat % (TFmt.ofBits (BitVec.ofNat 2 m.fmt)).size ≠ 0 ∨
        stride.toNat % (TFmt.ofBits (BitVec.ofNat 2 m.fmt)).size ≠ 0 → ends 0x13 s) ∧
      (m.op = 4 → m.addr.toNat % 2 ≠ 0 ∨ m.stride.toNat % 2 ≠ 0 → ends 0x13 s))) ∧
  ∀ (s : State) (k : Nat) (m : Mcmd) (v : Word), s.net.mcmds[k]? = some m → m.status = some v →
    s.acked = true → m.past = true ∨ s.downOn (dimRoute (dieOfCore m.core) (dieOf m.hart)) = none → (s.hart m.hart).who.uid = m.uid → (s.hart m.hart).core.st ≠ .free →
    Becomes (exec (.mcmdStatusArrive k false) s) fun t =>
      t.net.mcmds = s.net.mcmds.eraseIdx k ∧ (t.hart m.hart).core.g = ((s.hart m.hart).writeG m.dest v).core.g ∧
      (t.hart m.hart).windows = ((s.hart m.hart).answer (.mcmd m.id) []).windows ∧
      (∀ h, h ≠ m.hart → t.hart h = s.hart h) ∧ (t.core (coreOf m.hart)).l1 = [] ∧
      (m.trap = true → v = 0x40 → (m.dest.toNat, m.pc) ∈ (t.hart m.hart).caps))

/-- From R173-R177: the narrow-format instructions complete at EW 8 and GRP 1: in each active block, vcvt.q and vhadq write
the scale word and the codes of its 32 values, vcvt.dq the 32 values of its codes, and vscl the scaled scale word. From
R183: bmsk writes, to each active element i, bit i mod 64 of g[A]. Where the rules leave a point open it states the choice
of the model: notes/assumptions/22.md, notes/assumptions/38.md and notes/assumptions/166.md. -/
def Obligations.NarrowFormatRule : Prop :=
  (∀ (s : State) (q : Code) (sat : Bool) (d a b : Reg) (tab : BitVec 3) (n : BitVec 6) (m : Mask),
    let x := s.me
    let on := (List.range (x.vl / q.span)).filter fun k => decide (x.vstart < x.vl) && x.active m (q.span * k)
    let core := s.core (coreOf s.cur)
    let entries := fun (sw : Nat) => (core.dt x.who.vi (scaleTab sw)).entries
    let value := fun (k j : Nat) => x.elem a.toNat 32 (32 * k + j)
    let scaleB := fun (k : Nat) => x.elem b.toNat 32 k
    let scaleA := fun (k : Nat) => x.elem (a.toNat + 1) 32 k
    let codes := fun (y : Hart) (k j : Nat) => codeAt q (fun i => y.elem d.toNat 8 (q.span * k + i)) j
    let encodes := fun (o : Out) (v : Nat → Nat → Nat) =>
      (∀ k ∈ on, scaleNan (scaleB k) = true ∨ dtEncodable (entries (scaleB k)) q = true) →
        ∃ y, Completes o (s.charge x.beats) y ∧ (∀ k ∈ on, y.elem (d.toNat + 1) 32 k = scaleB k ∧
          ∀ j < 32, codes y k j = (encodeCode (entries (scaleB k)) q (scaleB k) (v k j)).1) ∧
        (∀ r, r ≠ d.toNat → r ≠ d.toNat + 1 → y.core.vs.reg r = x.core.vs.reg r) ∧ y.core.vs.vstart = 0 ∧
        y.core.g = x.core.g
    VReady x → x.core.vs.cfg.w = 8 → x.core.vs.cfg.p = 1 → x.vl % q.span = 0 → MaskOk x m → d.toNat % 2 = 0 →
    (∀ n, (core.dt x.who.vi n).poison = []) →
      (a.toNat % q.wideRegs = 0 →
        encodes (exec (.vcvtQ q d a b m) s) value ∧
        ((Instr.vhadq q d a b n m).wf = true → encodes (exec (.vhadq q d a b n m) s) fun k j =>
          (hadamard ((List.range n.toNat).map fun i => Fp.unpack .s (value k (j / n.toNat * n.toNat + i))) (j % n.toNat)).1)) ∧
      (a.toNat % 2 = 0 →
        (d.toNat % q.wideRegs = 0 → ∃ y, Completes (exec (.vcvtDq q sat d a m) s) (s.charge x.beats) y ∧
          (∀ k ∈ on, ∀ j < 32, y.elem d.toNat 32 (32 * k + j) =
            if scaleNan (scaleA k) then FpK.s.nan
            else (satScaled sat (dtValue (entries (scaleA k)) (codeAt q (fun i => x.elem a.toNat 8 (q.span * k + i)) j))
              [scaleFp (scaleA k)]).1) ∧
          (∀ r, r < d.toNat ∨ d.toNat + q.wideRegs ≤ r → y.core.vs.reg r = x.core.vs.reg r) ∧ y.core.vs.vstart = 0) ∧
        (Clean x [b] → ∃ y, Completes (exec (.vscl q sat d a b tab m) s) (s.charge x.beats) y ∧
          (∀ k ∈ on, y.elem (d.toNat + 1) 32 k =
            (scaleBy sat (if tab.getLsbD 2 then some (tab.toNat % 4) else none) (scaleA k)
              ((x.readG b).toNat % 2 ^ 32)).1 % 2 ^ 32) ∧
          (∀ r, r ≠ d.toNat + 1 → y.core.vs.reg r = x.core.vs.reg r) ∧ y.core.vs.vstart = 0))) ∧
  (∀ (s : State) (d a : Reg) (m : Mask),
    let x := s.me
    VReady x → GroupOk x d x.ew → MaskOk x m → (∀ r ∈ maskRegs m, Clear x d x.ew r x.ew) → Clean x [a] →
      Elementwise s (exec (.bmsk d a m) s) d x.ew m 0 fun i => (if (x.readG a).getLsbD (i % 64) then 1 else 0, 0))

/-- From R23, R24, R136: setvl never waits for lanes: outside a trap handler the grant becomes the smallest of LREQ, CEIL,
REEF and AVAIL, and with KEEP no less than it was; groups kept keep their bits and groups given up lose theirs. VL and g[D]
are the smaller of g[A] and VLMAX, and VSTART is 0. In a handler the grant stays. vcfg changes the fields that FN selects,
under the grant as it is (R137). From R138: vmpush saves EM and narrows it to the elements whose mask is true (with INV,
false); vmelse makes EM the saved elements that are not in it, vmpop restores it, vmall sets all of it. VFLAGS says of the
elements below VL of the set that was admitted how many are now in EM, and VSTART becomes 0. A stack that is full, or empty,
traps MASK_STACK with its depth in TVAL. Where the rules leave a point open it states the choice of the model:
notes/assumptions/31.md, notes/assumptions/34.md, notes/assumptions/137.md and notes/assumptions/153.md. -/
def Obligations.VectorConfiguration : Prop :=
  (∀ (s : State) (keep : Bool) (d a : Reg) (ew : Ew) (grp : BitVec 2) (which : BitVec 4) (cew : BitVec 3)
    (cgrp csc : BitVec 2) (crm : BitVec 3) (x : Hart),
    let u := (s.setMe x).charge x.G
    let c := coreOf s.cur
    let avail := x.G + (u.unitsFor c (some (.ctx x.who.uid)) x.lanes.grant).length
    let want := min (min x.lanes.lreq.toNat x.lanes.ceil.toNat) (min (u.reef c) avail)
    let n := if x.inHandler then x.G else if keep then max x.G want else want
    let vl := min (x.readG a).toNat (n * 1024 * 2 ^ grp.toNat / ew.width)
    let cfg : VCfg := { x.core.vs.cfg with vl := BitVec.ofNat 16 vl, ew := ew, grp := grp }
    let old := x.core.vs.cfg
    let new : VCfg := { vl := old.vl, rm := if which.getLsbD 3 then (RMode.ofNat? crm.toNat).getD old.rm else old.rm,
                        sc := if which.getLsbD 2 then csc else old.sc, grp := if which.getLsbD 1 then cgrp else old.grp,
                        ew := if which.getLsbD 0 then Ew.ofBits (cew.setWidth 2) else old.ew }
    let vl2 := min (x.readG a).toNat (x.G * 1024 * 2 ^ new.grp.toNat / new.ew.width)
    s.me.landAll = some x → s.me.frozen = false → Clean x [a] →
      (x.anyUnlanded = false → x.gang = none → Untraced s →
        Becomes (exec (.setvl keep d a ew grp) s) fun t =>
          t.me.core = { (((x.modVs fun v => { v with cfg := cfg, vstart := 0 }).writeG d (BitVec.ofNat 64 vl)).advance.retire).core
            with vs := { x.core.vs with cfg := cfg, vstart := 0, v := t.me.core.vs.v, vPoison := t.me.core.vs.vPoison,
                                        landed := t.me.core.vs.landed } } ∧
          t.me.G = n ∧ t.me.lanes.grant.take x.G = x.lanes.grant.take n ∧
          (x.G ≤ n → t.me.core.vs = { x.core.vs with cfg := cfg, vstart := 0 }) ∧
          ∀ r, (t.me.core.vs.reg r).toNat = (x.core.vs.reg r).toNat % (if n < x.G then 2 ^ (1024 * n) else 2 ^ 16384)) ∧
      Completes (exec (.vcfg which d a cew cgrp csc crm) s) u
        ((x.modVs fun v => { v with cfg := { new with vl := BitVec.ofNat 16 vl2 }, vstart := 0 }).writeG d
          (BitVec.ofNat 64 vl2))) ∧
  (∀ (s : State) (c : Reg) (inv : Bool) (x : Hart),
    let u := (s.setMe x).charge x.G
    let v := x.core.vs
    let true_ := fun (i : Nat) => (x.elem c.toNat x.ew i).testBit 0 != inv
    let flags := fun (set new : EMask) =>
      let es := (List.range x.vl).filter fun i => set.getLsbD i
      ({ n := !es.any fun i => new.getLsbD i, s := es.any fun i => new.getLsbD i,
         a := !es.isEmpty && es.all fun i => new.getLsbD i } : VFlags)
    let full := BitVec.ofNat 64 v.mstack.length
    s.me.landAll = some x → s.me.frozen = false →
      (VReady x → MaskOk x (if inv then .off c else .on c) → v.mstack.length < 16 →
        ∃ new : EMask, Completes (exec (.vmpush c inv) s) u
            (x.modVs fun v => { v with mstack := v.em :: v.mstack, em := new, flags := flags v.em new, vstart := 0 }) ∧
          ∀ i < 16384, new.getLsbD i = (v.em.getLsbD i && (decide (x.vlmax ≤ i) || true_ i))) ∧
      (MaskOk x (if inv then .off c else .on c) → 16 ≤ v.mstack.length → exec (.vmpush c inv) s = (s.setMe x).trap .maskStack full) ∧
      (∀ tos rest, v.mstack = tos :: rest →
        Completes (exec .vmelse s) u
          (x.modVs fun v => { v with em := tos &&& ~~~v.em, flags := flags tos (tos &&& ~~~v.em), vstart := 0 }) ∧
        Completes (exec .vmpop s) u (x.modVs fun v => { v with em := tos, mstack := rest, vstart := 0 })) ∧
      (v.mstack = [] → exec .vmelse s = (s.setMe x).trap .maskStack 0 ∧ exec .vmpop s = (s.setMe x).trap .maskStack 0) ∧
      Completes (exec .vmall s) u (x.modVs fun v => { v with em := BitVec.allOnes 16384, vstart := 0 }))

/-- From R29, R30, R31, R126, R139, R140: fork.lanes halves the caller's grant and starts a FREE hart of the core at PC +
IMM on the upper groups with their contents, or answers −1, −2 or −3 and changes nothing else. join.lanes waits for the
children, ends a child, once its copies have landed and its writes have reached their homes and are acknowledged, and leaves
its groups reserved for its parent, and goes on in a root. exit makes a root wait for its retirement, and ends a child as
join.lanes does, without a charge to its queue. Where the rules leave a point open it states the choice of the model:
notes/assumptions/44.md, notes/assumptions/129.md and notes/assumptions/139.md. -/
def Obligations.ForkJoinExit : Prop :=
  ∀ (s : State) (d : Reg) (imm : Word) (x : Hart),
    let entry := s.me.core.pc + imm
    let at_ := s.setMe x
    let u := at_.charge x.G
    let c := coreOf s.cur
    let k := (x.G + 1) / 2
    let vi := s.vi x.who.vi.toNat
    let answer := fun (n : Int) => Completes (exec (.forkLanes d imm) s) u (x.writeG d (BitVec.ofInt 64 n))
    s.me.landAll = some x → s.me.inHandler = false → x.core.st ≠ .free →
      (entry.toNat % 16 = 0 → x.anyUnlanded = false →
        (x.G < 2 → answer (-2)) ∧
        (2 ≤ x.G → x.gang.isSome ∨ x.holdsVector = true → answer (-3)) ∧
        (2 ≤ x.G → x.gang = none → x.holdsVector = false → u.freeHart c = none ∨ vi.trap.freeArea = none → answer (-1)) ∧
        ∀ h area, 2 ≤ x.G → x.gang = none → x.holdsVector = false → u.freeHart c = some h → vi.trap.freeArea = some area →
          Untraced s →
          Becomes (exec (.forkLanes d imm) s) fun t =>
            t.me.core.vs.vstart = 0 ∧
            let y := t.hart h
            let z := x.writeG d (BitVec.ofNat 64 h)
            t.me.G = k ∧ t.me.core.g = z.core.g ∧ t.me.core.pc = z.advance.core.pc ∧
            (∀ r, (t.me.core.vs.reg r).toNat = (x.core.vs.reg r).toNat % 2 ^ (1024 * k)) ∧
            y.core.st = .running ∧ y.core.pc = entry ∧ y.core.g = z.core.g ∧ y.lanes.grant = x.lanes.grant.drop k ∧
            t.me.lanes.grant = x.lanes.grant.take k ∧
            (∀ r, (y.core.vs.reg r).toNat = (x.core.vs.reg r).toNat / 2 ^ (1024 * k)) ∧
            y.lanes.lreq = BitVec.ofNat 5 (x.G - k) ∧ y.lanes.ceil = x.lanes.ceil ∧ y.who.parent = some x.who.uid ∧
            y.who.lseq = x.who.lseq ∧ y.who.index = x.who.index ∧ y.core.vs.em = BitVec.allOnes 16384 ∧
            y.core.vs.mstack = [] ∧ (∀ g : Fin 4, (y.sys.gslot[g]).v = false) ∧ y.sys.space = x.sys.space ∧
            y.sys.strap.tsave = BitVec.ofNat 64 (vi.trap.areaAddr area) ∧ y.core.mode = .u) ∧
      (x.pendErr = none → x.gang = none →
        let waits := fun (i : Instr) => Gives (exec i s) at_ (x.setSt (.waiting .poll))
        let ends := fun (i : Instr) (q : State → Prop) => ∀ p, at_.hasChild x.who.vi.toNat x.who.uid = false →
          x.who.parent = some p → Untraced s →
          (x.copiesDone = false ∨ at_.acked = false ∨ at_.atmsOpen x.who.uid = true → exec i s = .next at_) ∧
          (x.copiesDone = true → at_.acked = true → at_.atmsOpen x.who.uid = false → Becomes (exec i s) fun t => t.me = Hart.reset ∧ q t ∧
            ∀ g ∈ x.lanes.grant, ∃ r ∈ (t.core c).resv, r.group = g.1 ∧ r.slot = g.2 ∧ r.holder = .ctx p)
        (at_.hasChild x.who.vi.toNat x.who.uid = true → waits .joinLanes) ∧
        (at_.hasChild x.who.vi.toNat x.who.uid = false → x.who.parent = none →
          Completes (exec .joinLanes s) u (x.modVs fun v => { v with vstart := 0 })) ∧
        ends .joinLanes (fun t => (t.core c).deficit = (u.core c).deficit) ∧
        (s.me.loopActive = false →
          (x.who.parent = none →
            Gives (exec .exit s) at_ { x.setSt (.waiting .retire) with who := { x.who with exited := true } }) ∧
          (x.who.parent ≠ none → at_.hasChild x.who.vi.toNat x.who.uid = true → waits .exit) ∧
          ends .exit (fun t => (t.core c).deficit = (s.core c).deficit)))

/-- From R247, R248: an arrival of a member that completes its group's phase completes the instruction: every arrival
receives the result, the phase number rises by 1, and the hart goes on with the result and its flags; an arrival that does
not complete the phase makes the member wait and changes no register. An arrival is a release: it waits for the member's
earlier accesses as the group's SCOPE asks. grp.red combines the values in rank order, grp.bcast gives the root's value, and
arrivals that disagree receive all ones. A slot that names no group traps RSVD_FIELD. Where the rules leave a point open it
states the choice of the model: notes/assumptions/121.md, notes/assumptions/139.md and notes/assumptions/155.md. -/
def Obligations.GroupPhases : Prop :=
  (∀ (s : State) (i : Instr) (slot : BitVec 2) (a d : Reg) (op : RedOp) (root : BitVec 16),
    let me := s.me
    let vi := me.who.vi.toNat
    let u := s.landPeers fun p => p.uid == me.who.uid
    let arr := fun (rank : Nat) => match i with
      | .grpRed op d a _ => some ({ uid := me.who.uid, rank := rank, opc := 0x303, op := RedOp.code op, root := 0,
                                    val := me.readG a, dest := d, pc := me.core.pc } : Arrival)
      | .grpBcast d a _ root => some { uid := me.who.uid, rank := rank, opc := 0x304, op := 0, root := root,
                                       val := me.readG a, dest := d, pc := me.core.pc }
      | .bar _ => some { uid := me.who.uid, rank := rank, opc := 0x302, op := 0, root := 0, val := 0, dest := 0,
                         pc := me.core.pc }
      | _ => none
    i = .bar slot ∨ i = .grpRed op d a slot ∨ i = .grpBcast d a slot root → Clean me [a] → me.standing slot = none →
      (s.member me slot = none → Traps (exec i s) s .rsvdField (lowWord i)) ∧
      ∀ g0 g rank A, s.member me slot = some (g0, g, rank) → arr rank = some A →
        (g.arrived.any fun b => b.uid == me.who.uid) = false →
        (u.atmsOpen me.who.uid = true ∨ (2 ≤ g.scope.toNat ∧ u.acked = false) → exec i s = .next u) ∧
        (NoAtomic u → g.scope.toNat < 2 ∨ u.acked = true →
        let g' := { g with arrived := g.arrived ++ [A] }
        let after := fun (t : State) (x : Group) => (t.vi vi).group g0 = some x
        (g'.count = g'.n → Becomes (exec i s) fun t =>
          let r := g'.result
          t.me.core.pc = me.advance.core.pc ∧ t.me.core.st = me.runSt ∧
          t.me.phases = (me.receive g0 g.phase r).phases ∧
          t.me.core.fflags = (match i with | .grpRed _ _ _ _ => me.core.fflags ||| r.2 | _ => me.core.fflags) ∧
          t.me.core.g = (match i with | .bar _ => me | _ => me.writeG d r.1).core.g ∧
          after t { g' with phase := g.phase + 1, arrived := [] }) ∧
        (g'.count ≠ g'.n → Becomes (exec i s) fun t =>
          t.me = { me.setSt (.waiting .poll) with phases :=
            { slot := slot, group := g0, phase := g.phase, depth := me.frames.length, result := none } :: me.phases } ∧
          after t g'))) ∧
  ∀ (g : Group) (a : Arrival) (as : List Arrival), g.arrived = a :: as →
    let same := ∀ b ∈ as, b.opc = a.opc ∧ b.op = a.op ∧ b.root = a.root
    (¬same → g.result = (BitVec.allOnes 64, 0)) ∧
    (same → a.opc = 0x304 → ∀ b, (g.arrived.find? fun b => b.rank == a.root.toNat) = some b → g.result = (b.val, 0)) ∧
    (same → a.opc = 0x303 → g.arrived.map Arrival.rank = List.range g.n →
      g.result.1 = (as.foldl (fun v b => (redOp a.op v b.val).1) (redOp a.op (redId a.op) a.val).1))

/-- From R279, R280, R286, R287: cp.start with a descriptor that is readable and within its limits, elements that all pass
the probe and a channel with room appends the copy to its channel and completes; without room it completes too, and the copy
waits for its place within the window. A gang member whose leader's descriptor serves the whole gang starts nothing. cp.seal
gives g[D] the number of the batch that holds every copy not yet in one. cp.wait completes once at most n batches are
unfinished, a seal that waits for its batch being one, and waits before. From R283, R289, R290: sbind binds a register group
to a channel, unless the group or the channel is bound already; sunbind ends the binding of a register with what its stream
still holds, and completes where none is bound; for an out binding it waits while a copy of the channel can take bytes of
it. Where the rules leave a point open it states the choice of the model: notes/assumptions/48.md, notes/assumptions/52.md,
notes/assumptions/120.md, notes/assumptions/135.md, notes/assumptions/136.md and notes/assumptions/139.md. -/
def Obligations.CopiesAndStreams : Prop :=
  ((∀ (s : State) (ch : BitVec 3) (a : Reg) (sp : Bool) (imm : Word) (la : BitVec 4) (ws : List Word),
    let x := s.me
    let w := s.who s.cur
    let R := s.readDesc w sp (x.readG a + imm)
    let word := fun k => ws.getD k 0
    let d := CopyDesc.parse word
    let stream := (x.streamOf ch.toNat d).isSome
    let targets := x.receivers s.cur d
    let P := R.2.probeCopy w (targets.map coreOf) d d.total
    let y := P.2.me
    let e := P.2.landPeers fun p => p.uid == y.who.uid
    let old := x.eng.chan ch.toNat
    let go := exec (.cpStart ch a sp imm la) s
    let full := s.engineWaits s.cur = true ∨ 16 ≤ old.copies.length
    (s.leaderCopies a sp imm = true → Completes go (s.charge x.G) (results x x.core.pc la [] [] 0 false)) ∧
    (Clean x [a] → s.leaderCopies a sp imm = false → R.1 = .ok (ws, none) →
      (d.fits word = false → go = R.2.trap .rsvdField (x.readG a + imm)) ∧
      (d.fits word = true → (d.mcast = true → x.gang.isSome) → x.bindFits ch.toNat d = true →
        (d.kind = 4 → stream = false → d.fillsWhole x.G = true) → P.1.faults = [] →
        let c : Copy := { desc := d, pc := x.core.pc, begun := false, count := d.total, landed := [], targets := targets,
                          pages := P.1.pages, batch := none, stream := stream, grant := x.G, depth := x.frames.length,
                          seq := P.2.net.arrivals }
        (e.atmsOpen y.who.uid = true ∨ (2 ≤ x.core.vs.cfg.sc.toNat ∧ e.acked = false) → go = .next e) ∧
        (NoAtomic e → x.core.vs.cfg.sc.toNat < 2 ∨ e.acked = true → Becomes go fun t =>
          t.me.core.pc = y.advance.core.pc ∧ t.me.core.g = y.core.g ∧
          (¬full → t.me.eng.chan ch.toNat = { old with copies := old.copies ++ [c] } ∧
            ∀ k, k ≠ ch.toNat → t.me.eng.chan k = y.eng.chan k) ∧
          (full → t.me.eng = y.eng ∧ ∃ n ∈ t.net.entries, n.hart = s.cur ∧ n.post = .copy ch.toNat c ∧
            ∃ win ∈ t.me.windows, win.left = la.toNat ∧ win.await = .entry n.id))))) ∧
  (∀ (s : State) (d : Reg) (la : BitVec 4) (n : BitVec 16),
    let x := s.me
    let u := s.charge x.G
    let full := s.engineWaits s.cur = true ∨ 1024 ≤ x.eng.unfinished
    (¬full → Completes (exec (.cpSeal d la) s) u
      (results { x with eng := x.eng.seal } x.core.pc la [(d, x.eng.next.setWidth 64, none)] [] 0 false)) ∧
    (full → Becomes (exec (.cpSeal d la) s) fun t => t.me.eng = x.eng ∧ t.me.core.pc = x.advance.core.pc ∧
      ∃ e ∈ t.net.entries, e.hart = s.cur ∧ e.post = .seal d ∧
        ∃ win ∈ t.me.windows, win.left = la.toNat ∧ win.await = .entry e.id) ∧
    (x.eng.unfinished + s.sealsWaiting s.cur ≤ n.toNat → Ends (exec (.cpWait n) s) x.advance.retire fun t =>
      (t.core (coreOf s.cur)).l1 = []) ∧
    (n.toNat < x.eng.unfinished + s.sealsWaiting s.cur → Gives (exec (.cpWait n) s) s (x.setSt (.waiting .poll)))) ∧
  ∀ (e : Engine) (ch : Nat), e.seal.next = e.next + 1 ∧ (e.seal.chan ch).chwp = (e.chan ch).chwp ∧
    (e.seal.chan ch).copies = (e.chan ch).copies.map fun c =>
      if c.batch.isNone then { c with batch := some e.next } else c) ∧
  (∀ (s : State) (out : Bool) (d : Reg) (ch : BitVec 3) (x : Hart),
    let me := s.me
    let v := me.core.vs
    let new : Bind := { reg := d, out := out, pos := 0, buf := [], taker := none, open_ := false }
    let taken := v.binds.any (fun b => b.1 == ch.toNat || b.2.reg == d) = true
    let unbound := fun (c : Nat) => x.modVs fun v => { v with binds := tdel v.binds c }
    let ended := fun (c : Nat) => { unbound c with eng := x.eng.endStream c d }
    (taken ∨ v.cfg.aligned d.toNat v.cfg.w = false →
      Traps (exec (.sbind out d ch) s) s .rsvdField (lowWord (.sbind out d ch))) ∧
    (¬taken → v.cfg.aligned d.toNat v.cfg.w = true → me.groupAwaits d = false →
      Completes (exec (.sbind out d ch) s) (s.charge me.G) (me.modVs fun v => { v with binds := tset v.binds ch.toNat new })) ∧
    (me.landAll = some x →
      let u := (s.setMe x).charge x.G
      ((∀ b ∈ x.core.vs.binds, b.2.reg ≠ d) → Completes (exec (.sunbind d) s) u x) ∧
      ∀ c b, (x.core.vs.binds.find? fun b => b.2.reg == d) = some (c, b) →
        (b.out = false ∨ x.streamLive c b = false → Completes (exec (.sunbind d) s) u (ended c)) ∧
        (b.out = true → x.streamLive c b = true → exec (.sunbind d) s = .next (s.setMe x))))

/-- From R279, R281, R282, R212: COPY_BEGIN starts the oldest copy of a channel, CHWP becoming 0 with WPRST, when no copy
that the stream dispatcher serves first uses one of its cores; COPY_ELEMENT_LAND performs an element of it that may land now
with those of its aligned 8-byte part, advances CHWP by them with WPUPD, and the copy leaves its channel with its last
element. An element for the hart's own lane memory is written in that of every receiver. Events of copies that are not there
change nothing. Where the rules leave a point open it states the choice of the model: notes/assumptions/4.md,
notes/assumptions/49.md, notes/assumptions/147.md and notes/assumptions/148.md. -/
def Obligations.CopyLanding : Prop :=
  ∀ (s : State) (h ch e : Nat) (err : Option ErrCause) (c : Copy) (rest : List Copy),
    let x := s.hart h
    h < 8192 → ch < 8 →
      ((x.eng.chan ch).copies = [] → exec (.copyBegin h ch) s = .next s ∧ exec (.copyElementLand h ch e err) s = .next s) ∧
      ((x.eng.chan ch).copies = c :: rest →
        (c.begun = true ∨ s.beginsAfter h ch c = true → exec (.copyBegin h ch) s = .next s) ∧
        (c.begun = false → s.beginsAfter h ch c = false → Becomes (exec (.copyBegin h ch) s) fun t =>
          (t.hart h).eng.chan ch =
            { chwp := if c.desc.wprst then 0 else (x.eng.chan ch).chwp,
              copies := { c with begun := true, targets := x.receivers h c.desc, grant := x.G } :: rest } ∧
          (t.hart h).core.g = x.core.g ∧ (t.hart h).core.pc = x.core.pc ∧ t.phys = s.phys) ∧
        (x.mayLand ch c e = false → exec (.copyElementLand h ch e err) s = .next s) ∧
        (x.mayLand ch c e = true →
          let es := x.together ch c e
          let met := match err with
            | some k => s.arriveBad h k
            | none => s
          let C := (met.landPart h ch c err es).1
          let u := (met.landPart h ch c err es).2
          let old := (u.hart h).eng.chan ch
          Becomes (exec (.copyElementLand h ch e err) s) fun t =>
            (t.hart h).eng.chan ch =
              { chwp := if c.desc.wpupd then old.chwp + BitVec.ofNat 64 (es.length * 2 ^ c.desc.esize) else old.chwp,
                copies := if c.count ≤ (es ++ c.landed).length then rest else { C with landed := es ++ c.landed } :: rest } ∧
            C = { c with got := C.got } ∧ (∀ k ∈ es, tfind C.got k = none) ∧
            t.phys = u.phys ∧ (t.hart h).core.pc = (u.hart h).core.pc ∧
            (Canonical s → c.desc.kind = 0 → es = [e] → ∀ k ∈ c.targets, (t.core (coreOf k)).lane.readN (c.desc.dstAt e).toNat (2 ^ c.desc.esize) =
              leBytes (2 ^ c.desc.esize) (((tfind c.got e).getD (met.copySource h ch c e).1).1))))

/-- From R268, R269, R270, R271: q.push appends its records of lane memory to an input port with room, behind the pushes
that wait there, and otherwise waits with them within its window; q.pop moves the oldest record of an output port that no
earlier pop is to get to lane memory with status 0, and with none there answers 3 when the port is closed, 1 for q.pop.try,
and waits within its window otherwise; q.notify moves the tail of a launch queue forward, or asks for a hold or a release;
q.cancel removes the instances of a launch that are not placed and answers which, or −1. Where the rules leave a point open
it states the choice of the model: notes/assumptions/48.md, notes/assumptions/53.md, notes/assumptions/139.md and
notes/assumptions/143.md. -/
def Obligations.QueueInstructions : Prop :=
  ∀ (s : State) (qh : BitVec 4) (d a : Reg) (n : BitVec 7) (la : BitVec 4) (try_ : Bool) (what : Notify),
    let x := s.me
    let w := s.who s.cur
    let core := coreOf s.cur
    let vi := x.who.vi.toNat
    let off := (x.readG a).toNat
    let sc := x.core.vs.cfg.sc.toNat
    let out := fun (y : Hart) (gw : List (Reg × Word × Option Poison)) => (results y y.core.pc la gw [] 0).advance.retire
    let waits := fun (t : State) (p : Post) => t.me.core.pc = x.advance.core.pc ∧
      ∃ e ∈ t.net.entries, e.hart = s.cur ∧ e.post = p ∧ ∃ win ∈ t.me.windows, win.left = la.toNat ∧ win.await = .entry e.id
    Clean x [a] →
      (∀ die p depth, s.portHandle x qh true = some (die, p, depth) →
        let R := s.laneRecords w off n.toNat
        let e := R.2.2.landPeers fun p => p.uid == R.2.2.me.who.uid
        let q := R.2.2.port die vi p
        let rs := R.1.map fun r => (r, false)
        let full := depth < q.recs.length + n.toNat ∨ R.2.2.waiting (fun e => e.pushes die vi p) ≠ []
        let push := exec (.qPush qh a n la) s
        off % 64 = 0 → off + 64 * n.toNat ≤ 0x100000 → s.laneOwned w off (64 * n.toNat) = true → R.2.1 = false →
          (e.atmsOpen R.2.2.me.who.uid = true ∨ (2 ≤ sc ∧ e.acked = false) → push = .next e) ∧
          (NoAtomic e → sc < 2 ∨ e.acked = true →
            (¬full → Ends push (out R.2.2.me []) fun t => t.port die vi p = { q with recs := q.recs ++ rs }) ∧
            (full → Becomes push fun t => t.port die vi p = q ∧ waits t (.push die vi p rs)))) ∧
      (s.portHandle x qh true = none → Traps (exec (.qPush qh a n la) s) s .access (qh.setWidth 64)) ∧
      (∀ die p depth, s.portHandle x qh false = some (die, p, depth) → off % 64 = 0 → off + 64 ≤ 0x100000 →
        s.laneProbe w.core w.vi false off 64 = true →
        let q := s.port die vi p
        let k := (s.waiting fun e => e.pops die vi p).length
        let pop := exec (.qPop try_ qh d a la) s
        (∀ r, q.recs[k]? = some r → Ends pop (out x [(d, 0, none)]) fun t =>
          t.port die vi p = { q with recs := q.recs.eraseIdx k } ∧ (t.core core).l1 = [] ∧
          (Canonical s → (t.core core).lane.readN off 64 = leBytes 64 r.1.toNat)) ∧
        (q.recs.length ≤ k → q.closed = true → Ends pop (out x [(d, 3, none)]) fun t => t.port die vi p = q) ∧
        (q.recs.length ≤ k → q.closed = false → try_ = true → Ends pop (out x [(d, 1, none)]) fun t => t.port die vi p = q) ∧
        (q.recs.length ≤ k → q.closed = false → try_ = false → Becomes pop fun t => t.port die vi p = q ∧
          waits t (.pop die vi p off d))) ∧
      (∀ k, s.handle x qh = some (.queue k) →
        let q := s.queue k
        let e := s.landPeers fun p => p.uid == x.who.uid
        let tail := (x.readG a).setWidth 32
        (e.atmsOpen x.who.uid = true ∨ (2 ≤ sc ∧ e.acked = false) → exec (.qNotify what qh a la) s = .next e) ∧
        (NoAtomic e → sc < 2 ∨ e.acked = true →
          Ends (exec (.qNotify what qh a la) s) (out x []) fun t => t.queue k = match what with
            | .tail => if q.st ≠ .disabled ∧ 0 < (tail - q.tail).toInt then { q with tail := tail } else q
            | .hold => if q.st = .active then { q with st := .held } else q
            | .release => if q.st = .held then { q with st := .active } else q) ∧
        ((x.readG a).toNat < 2 ^ 32 → Becomes (exec (.qCancel qh d a la) s) fun t =>
          t.me.core.pc = x.advance.core.pc ∧ ∃ v : Word,
            (la = 0 → t.me.core.g = (x.writeG d v).core.g) ∧
            (la ≠ 0 → t.me.core.g = x.core.g ∧ ∃ win ∈ t.me.windows, win.gw = [(d, v, none)] ∧ win.left = la.toNat) ∧
            ((∀ l ∈ q.table, l.index ≠ tail) → v = BitVec.allOnes 64) ∧
            ∀ l, (q.table.find? fun l => l.index == tail) = some l →
              (l.cut ≤ l.placed → v = BitVec.ofNat 64 (l.count * 2 ^ 32)) ∧
              (l.placed < l.cut → v = BitVec.ofNat 64 (l.placed * 2 ^ 32 + (l.cut - l.placed)) ∧
                (t.queue k).table = q.table.map fun y => if y.index == tail then
                  { l with cut := l.placed, st := if l.placed = 0 then l.st else .dispatched } else y)))

/-- From R272, R273, R299, R301: gang.form makes the hart wait for the other members, or answers −1, −2 or −3; GANG_FORMED
gives every member its number and lets it go on behind the leader's gang.form; GANG_FORM_TIMEOUT answers −4 once the limit
has passed. gang.split ends the gang. msg.send to DRAM of class I puts the message in the queue of the target's home slice
when that has room, and lets it wait for its place within the window otherwise; a reply mode opens a window for the reply.
It waits while a handler image is being installed. hret in a hart traps PRIV. Where the rules leave a point open it states
the choice of the model: notes/assumptions/48.md, notes/assumptions/69.md and notes/assumptions/128.md. -/
def Obligations.GangsAndMessages : Prop :=
  (∀ (s : State) (d a b : Reg) (size : BitVec 2) (x : Hart),
    s.me.landAll = some x → s.me.inHandler = false →
      (x.anyUnlanded = false → Clean x [a, b] →
        let u := (s.setMe x).charge x.G
        let n := 2 ^ size.toNat
        let num := (x.readG a).setWidth 8
        let as := u.arrivals s.cur n num
        let here := (as.any fun k => coreOf k == coreOf s.cur) || u.gangHere s.cur n num
        let unlike := as.any fun k => (match (u.hart k).arrival with
            | some r => r.size != n
            | none => false) || (u.hart k).sys.space.asid != x.sys.space.asid
        let answer := fun (k : Int) => Completes (exec (.gangForm d a b size) s) u (x.writeG d (BitVec.ofInt 64 k))
        (x.gang.isSome → answer (-2)) ∧
        (x.gang = none → 256 ≤ (x.readG a).toNat → answer (-1)) ∧
        (x.gang = none → (x.readG a).toNat < 256 → here = true → answer (-3)) ∧
        (x.gang = none → (x.readG a).toNat < 256 → here = false → unlike = true → answer (-1)) ∧
        (x.gang = none → (x.readG a).toNat < 256 → here = false → unlike = false →
          Gives (exec (.gangForm d a b size) s) u { x.setSt (.waiting .gang) with
            arrival := some { d := d, number := num, size := n, since := x.sys.time.cycle, limit := x.readG b } })) ∧
      (x.gang = none → Completes (exec .gangSplit s) ((s.setMe x).charge x.G) x) ∧
      ∀ g, s.me.gang = some g → g.members.Nodup → (∀ m ∈ g.members, (s.hart m).landAll.isSome) →
        Becomes (exec .gangSplit s) fun t => ∀ m ∈ g.members, ∀ y, (s.hart m).landAll = some y →
          t.hart m = { y.advance.retire with gang := none }) ∧
  (∀ (s : State) (h : Nat), h < 8192 →
    (∀ ms, s.gangReady h = some ms → Becomes (exec (.gangFormed h) s) fun t =>
      let pc := (s.hart (ms.headD h)).advance.core.pc
      ∀ k m, ms[k]? = some m → ∀ r, (s.hart m).arrival = some r →
        (t.hart m).gang = some { number := r.number, members := ms, finished := [], before := [] } ∧ (t.hart m).arrival = none ∧ (t.hart m).core.pc = pc ∧
        (t.hart m).core.st = (s.hart m).runSt ∧ (t.hart m).core.g = ((s.hart m).writeG r.d (BitVec.ofNat 64 k)).core.g) ∧
    ∀ r, (s.hart h).arrival = some r → s.gangReady h = none → r.limit ≠ 0 →
      r.limit.toNat ≤ ((s.hart h).sys.time.cycle - r.since).toNat →
      Becomes (exec (.gangFormTimeout h) s) fun t =>
        t.hart h = { (((s.hart h).writeG r.d (BitVec.ofInt 64 (-4))).advance.retire) with arrival := none } ∧
        (∀ k, k ≠ h → t.hart k = s.hart k) ∧ t.phys = s.phys) ∧
  ∀ (s : State) (mode : MsgMode) (d a b c : Reg) (qh : BitVec 4) (la : BitVec 4) (pa : Nat) (xl : Xlat),
    let x := s.me
    let R := s.msgTarget (s.who s.cur) (x.readG b)
    let k := homeSlice pa
    let e := R.2.landPeers fun p => p.uid == R.2.me.who.uid
    let u := (e.charge x.G).netId
    let room := (R.2.slice k).msgs.length < 64 ∧ R.2.waiting (fun e => e.hart == s.cur && e.sends k) = []
    let send := exec (.msgSend mode d a b c qh la) s
    Traps (exec (.hret a) s) s .priv (lowWord (.hret a)) ∧
    (Clean x ([a, b, c, c + 1, c + 2, c + 3] ++ if mode == .port then [d] else []) →
      (s.installing x.who.vi.toNat = true → send = .next s) ∧
      (s.installing x.who.vi.toNat = false → (s.vi x.who.vi.toNat).inImage (x.readG a) = false →
        Traps send s .access (x.readG a)) ∧
      (s.installing x.who.vi.toNat = false → (s.vi x.who.vi.toNat).inImage (x.readG a) = true → R.1 = .ok (pa, xl) →
        (mode = .port → ∃ die p depth, R.2.portHandle x qh false = some (die, p, depth) ∧ 0x100 ≤ p) →
        NoAtomic e → x.core.vs.cfg.sc.toNat < 2 ∨ e.acked = true →
        (u.2.lost (dieOf s.cur) (dramDie pa)).1 = none →
          Becomes send fun t => t.me.core.pc = R.2.me.advance.core.pc ∧
            ∃ m : Message, (room → (t.slice k).msgs = (R.2.slice k).msgs ++ [m]) ∧
              (¬room → (t.slice k).msgs = (R.2.slice k).msgs ∧ (∃ n ∈ t.net.entries, n.hart = s.cur ∧ n.post = .send k m) ∧
                (mode ≠ .reply → ∃ win ∈ t.me.windows, win.await = .entry m.id ∧ win.left = la.toNat)) ∧ m.handler = x.readG a ∧ m.target = x.readG b ∧
              m.args = [x.readG c, x.readG (c + 1), x.readG (c + 2), x.readG (c + 3)] ∧ m.sender = s.cur ∧ m.mode = mode ∧
              m.vi = x.who.vi.toNat ∧ m.hop = 0 ∧
              (mode = .reply → ∃ win ∈ t.me.windows, win.await = .message m.id ∧ win.left = la.toNat)))

/-- From R316, R318, R319: rast.setup fills a slot from an entry in lane memory, answers its status and sets VSTART to 0;
with a filled slot, rast.cover gives each active element the 16 coverage bits of its block and rast.attr its value at its
pixel, the NaN with NV where the pixel number has more than 12 bits. A pixel is covered when it lies inside all three edges,
or on a top or left edge. Elsewhere these instructions migrate the hart, or trap EQUIP. From R329, R330, R331: vsample with
its descriptor readable samples its active elements one after another and completes when none stops it; vsample.m writes the
components of the elements that it can sample, all ones to v[F] for the others and zero for those, and VFLAGS from them, and
traps only at a watch range. Where the rules leave a point open it states the choice of the model: notes/assumptions/106.md.
-/
def Obligations.RasterAndSample : Prop :=
  ((∀ (s : State) (slot : BitVec 2) (d a b : Reg) (m : Mask) (what : Attr),
    let x := s.me
    let off := (x.readG a).toNat
    let B := (x.readG b).toNat
    let w := s.who s.cur
    let R := s.readLane w w.core off 80
    let F := fillSlot R.1.1 (B % 2 ^ 32) (B / 2 ^ 32)
    let r := x.core.vs.slot slot
    let is := [Instr.rastSetup slot d a b, .rastCover slot d a m, .rastAttr what slot d a m]
    x.frozen = false →
      (isGCore (coreOf s.cur) = false → ∀ i ∈ is,
        (x.core.mode ≠ .u ∨ x.sys.strap.migen = false → Traps (exec i s) s .equip (lowWord i)) ∧
        (x.core.mode = .u → x.sys.strap.migen = true → x.gang = none → Gives (exec i s) s (x.setSt .migrating))) ∧
      (isGCore (coreOf s.cur) = true →
        (Clean x [a, b] → off % 16 = 0 → off + 80 ≤ 0x100000 → s.laneProbe w.core w.vi false off 80 = true →
          B % 2 ^ 32 % 64 = 0 → B / 2 ^ 32 % 64 = 0 → B % 2 ^ 32 < 65536 → B / 2 ^ 32 < 65536 → R.1.2 = none →
          Completes (exec (.rastSetup slot d a b) s) (R.2.charge x.G)
            ((R.2.me.modVs fun v => { v.setSlot slot F.2 with vstart := 0 }).writeG d (BitVec.ofNat 64 F.1))) ∧
        (VReady x → MaskOk x m → r.v = true →
          (Clean x [a] → x.core.vs.cfg.ew = .e16 → GroupOk x d 16 →
            Elementwise s (exec (.rastCover slot d a m) s) d 16 m 0
              (fun i => (r.block ((x.readG a).toNat + i), 0))) ∧
          (x.core.vs.cfg.ew = .e32 → GroupOk x d 32 → GroupOk x a 32 → Clear x d 32 a 32 →
            Elementwise s (exec (.rastAttr what slot d a m) s) d 32 m 0 (fun i =>
              let p := x.elem a.toNat 32 i
              if 4096 ≤ p then (0x7FC00000, 0x10) else r.attr what (p % 64) (p / 64)))))) ∧
  (∀ v x0 y0, let F := fillSlot v x0 y0
    (F.1 = 0 ↔ F.2.v = true) ∧ F.1 ≤ 3 ∧
      (F.2.v = true → F.2.area ≠ 0 ∧ F.2.x0 = x0 ∧ F.2.y0 = y0 ∧ ∀ c ∈ F.2.fx ++ F.2.fy, c.natAbs < 2 ^ 29)) ∧
  ∀ (r : RasterSlot) (b j : Nat), j < 16 →
    let px := 4 * (b % 16) + j % 4
    let py := 4 * (b / 16) + j / 4
    let X := fun (k : Nat) => r.fx.getD k 0
    let Y := fun (k : Nat) => r.fy.getD k 0
    let o := if r.swap then [0, 2, 1] else [0, 1, 2]
    let inside := fun (p q : Nat) =>
      let e := (X q - X p) * (256 * (py : Int) + 128 - Y p) - (Y q - Y p) * (256 * (px : Int) + 128 - X p)
      0 < e ∨ (e = 0 ∧ ((Y q = Y p ∧ X p < X q) ∨ Y q < Y p))
    (b < 256 → ((r.block b).testBit j = true ↔
      inside (o.getD 0 0) (o.getD 1 0) ∧ inside (o.getD 1 0) (o.getD 2 0) ∧ inside (o.getD 2 0) (o.getD 0 0))) ∧
    (256 ≤ b → r.block b = 0)) ∧
  (∀ (s : State) (d a b : Reg) (f : BitVec 6) (m : Mask) (la : BitVec 4) (t : VTarget) (desc : Sampler),
    let x := s.me
    let u := issued s
    let at_ := x.readG a
    let P := u.probeElemIn (u.who u.cur) .data .load at_ 64 {}
    let D := P.2.2.readElem t 64
    let c := x.core.vs.cfg
    VReady x → MaskOk x m → Clean x [a] → x.vstart < x.vl → at_.toNat % 64 = 0 → P.1 = .ok t → D.1.2 = none →
    Sampler.parse D.1.1 = some desc → (∀ k < 3, GroupOk x (b + BitVec.ofNat 6 (k * c.p)) 32) →
    (∀ k < 4, GroupOk x (d + BitVec.ofNat 6 (k * c.p)) 32) →
      (x.sampleFits d b none = true → ∀ v,
        sampledRun D.2 desc d b m {} ((List.range D.2.me.vl).filter fun i => D.2.me.vstart ≤ i) = some v →
        Completes (exec (.vsample d a b m la) s) v (v.me.modVs fun w => { w with vstart := 0 })) ∧
      (x.sampleFits d b (some f) = true → la = 0 →
        let S := D.2.sampleAll desc b {} (D.2.me.parts m)
        let y := S.2.me
        let bad := fun i => S.1.any fun e => e.1 == i && (match e.2 with
          | .ok _ => false
          | .error _ => true)
        let any_ := S.1.any fun e => bad e.1
        (∀ i, D.2.me.samplePoison b m i = none) → watchedSamples S.1 = [] →
          ∃ z, Completes (exec (.vsampleM d a b f m la) s) S.2 z ∧ z.core.g = y.core.g ∧ z.core.vs.vstart = 0 ∧
            z.core.vs.flags = { n := !any_, s := any_, a := !S.1.isEmpty && S.1.all fun e => bad e.1 } ∧
            (∀ i < y.vlmax, z.elem f.toNat 32 i = if i ∈ y.parts m then (if bad i then 2 ^ 32 - 1 else 0) else y.elem f.toNat 32 i) ∧
            ∀ i cs fl p, (i, .ok (cs, fl, p)) ∈ S.1 → ∀ k (h : k < cs.length), k < 4 →
              z.elem (y.compReg d k) 32 i = cs[k] % 2 ^ 32))

/-- From R377–R383 for a set that is not open and an open one: rq.init opens a set on an entry's current generation with the
rays of lane memory and pins the generation, or answers 1 where there is none and 2 where its pins are used up, and a
poisoned record traps with its element; rq.commit makes the candidates of its active rays their committed hits; rq.end
closes the set and gives its pin back. From R380, R381, R384, R374 for an open set whose nodes hold no poison and cross no
lost link: rq.step advances each active ray by at most n visits and writes its state to its element, VFLAGS saying which
rays are not finished; rq.get reads a field of the committed or the candidate hit; rq.sort permutes the active rays stably
by their state and octant. A finished ray stays. bld.cmd puts its record in the VI's builder queue, or waits for a place
there within its window, and answers its sequence number. Where the rules leave a point open it states the choice of the
model: notes/assumptions/48.md, notes/assumptions/107.md, notes/assumptions/108.md, notes/assumptions/109.md,
notes/assumptions/110.md, notes/assumptions/111.md, notes/assumptions/137.md and notes/assumptions/139.md. -/
def Obligations.RayQueries : Prop :=
  (∀ (s : State) (q : Bool) (d a b : Reg) (m : Mask) (la : BitVec 4),
    let x := s.me
    let y := x.set q
    let u := (s.setMe x).charge x.G
    let zeroed := fun (x : Hart) => x.modVs fun v => { v with vstart := 0 }
    let vi := x.who.vi.toNat
    VReady x → MaskOk x m → isGCore (coreOf s.cur) = true → x.rayCfg = true →
      (y.isOpen = false → Clean x [a, b] →
        let at_ := s.setMe x
        let off := (x.readG b).toNat
        let k := (x.readG a).toNat
        let w := at_.who at_.cur
        let R := at_.readRays w off (x.actives m)
        let e := (R.2.vi vi).as k
        let answer := fun (n : Word) => Completes (exec (.rqInit q d a b m la) s) (R.2.charge x.G)
          (results (zeroed R.2.me) R.2.me.core.pc la [(d, n, none)] [] 0)
        ∀ rs, off % 64 = 0 → off + 64 * x.vl ≤ 0x100000 → x.vl = 0 ∨ at_.laneOwned w off (64 * x.vl) = true →
          (∀ i, R.1 = .error i → exec (.rqInit q d a b m la) s =
            R.2.trapAt .dataEcc (BitVec.ofNat 64 (off + 64 * i)) i) ∧
          (R.1 = .ok rs →
          (4096 ≤ k ∨ e.v = false ∨ e.hascur = false → answer 1) ∧
          ∀ g, k < 4096 → e.v = true → e.hascur = true → e.slotOf e.cur = some g →
            (g.2.pins = BitVec.allOnes 32 → answer 2) ∧
            (g.2.pins ≠ BitVec.allOnes 32 → Becomes (exec (.rqInit q d a b m la) s) fun t =>
              (∃ z, t.me.set q = z ∧ z.isOpen = true ∧ z.entry.toNat = k ∧ z.gen = e.cur ∧ z.vlq = x.vl ∧
                ∀ i, z.ray i = if i < x.vl then tget Ray.idle rs i else Ray.idle) ∧
              t.me.set (!q) = R.2.me.set (!q) ∧ (t.vi vi).as k = e.addPin e.cur true ∧
              (la = 0 → t.me.core.g = (R.2.me.writeG d 0).core.g)))) ∧
      (y.isOpen = true →
        (∃ y', Completes (exec (.rqCommit q m) s) u ((zeroed x).modVs fun v => v.putSet q y') ∧
          y' = { y with rays := y'.rays } ∧
          ∀ i, y'.ray i = if i ∈ x.rays q m ∧ (y.ray i).st = 1 then
            { y.ray i with committed := (y.ray i).candidate } else y.ray i) ∧
        let e := (s.setMe x).landPeers fun p => p.uid == x.who.uid
        (NoAtomic s → e.acked = false → exec (.rqEnd q) s = .next e) ∧
        (NoAtomic s → e.acked = true → Ends (exec (.rqEnd q) s)
          ((zeroed x).modVs fun v => v.putSet q QuerySet.reset).advance.retire
          fun t => t.vi vi = (s.vi vi).unpin y.entry.toNat y.gen)) ∧
      (y.isOpen = false → Completes (exec (.rqEnd q) s) u (zeroed x))) ∧
  ((∀ (s : State) (q cand : Bool) (d : Reg) (n : BitVec 13) (fld : RqField) (m : Mask) (la : BitVec 4),
    let x := s.me
    let y := x.set q
    let u := (s.setMe x).charge x.G
    let v := s.vi x.who.vi.toNat
    let put := fun (z : QuerySet) => x.modVs fun w => w.putSet q z
    let window := fun (i : Instr) (z : Hart) => ∃ win : Window, win.left = la.toNat ∧ win.gw = [] ∧ win.fl = 0 ∧
      Completes (exec i s) u { z.modVs (fun v => { v with vstart := 0 }) with windows := x.windows ++ [win] }
    VReady x → MaskOk x m → x.rayCfg = true → GroupOk x d 32 → y.isOpen = true →
      (isGCore (coreOf s.cur) = true →
        (∀ g, v.generation y.entry.toNat y.gen = some g → s.phys.poison = [] →
          s.net.parity.contains s.cur = false →
          (∀ p ∈ v.nodePages g, s.crossing (dieOf s.cur) ((place (p * 4096)).die (dieOf s.cur)) = none) →
          ∃ y', y' = { y with rays := y'.rays } ∧
            (∀ i, y'.ray i = if i ∈ x.rays q m then v.stepRay g n.toNat (y.ray i) else y.ray i) ∧
            let flags := vflagsOf ((x.rays q m).map fun i => decide ((y'.ray i).st.toNat ≤ 1))
            (la = 0 → ∃ z, Completes (exec (.rqStep q d n m la) s) u z ∧ VecEffect (put y') z d 32
              (fun i => if i ∈ x.rays q m then some (y'.ray i).st.toNat else none) 0 flags) ∧
            (la ≠ 0 → window (.rqStep q d n m la) ((put y').modVs fun w => { w with flags := flags }))) ∧
        ∃ z, ∃ free : Nat → Nat, Completes (exec (.rqGet fld q cand d m) s) { u with fresh := u.fresh + 1 } z ∧ VecEffect x z d 32
          (fun i => if i ∈ x.rays q m then some ((y.ray i).field fld cand (free i) % 2 ^ 32) else none) 0 x.core.vs.flags) ∧
      (s.stepping = .a0 → Traps (exec (.rqSort q d m la) s) s .lifetime (lowWord (.rqSort q d m la))) ∧
      (s.stepping = .b0 → ∃ src : List Nat, ∃ y', src.Perm (x.rays q m) ∧ y' = { y with rays := y'.rays } ∧
        src.Pairwise (fun i j => (y.ray i).sortKey < (y.ray j).sortKey ∨ ((y.ray i).sortKey = (y.ray j).sortKey ∧ i < j)) ∧
        (∀ k i, (x.rays q m)[k]? = some i → y'.ray i = y.ray (src.getD k 0)) ∧
        (∀ i, i ∉ x.rays q m → y'.ray i = y.ray i) ∧
        (la = 0 → ∃ z, Completes (exec (.rqSort q d m la) s) u z ∧ VecEffect (put y') z d 32
          (fun i => if i ∈ x.rays q m then some (src.getD ((x.rays q m).idxOf i) 0) else none) 0 x.core.vs.flags) ∧
        (la ≠ 0 → window (.rqSort q d m la) (put y')))) ∧
  (∀ (v : Vi) (g : Generation) (n : Nat) (r : Ray),
    (2 ≤ r.st.toNat → v.stepRay g n r = r) ∧
    ((v.stepRay g n r).st = 3 → (v.stepRay g n r).committed = none ∨ r.st = 3) ∧
    (r.st.toNat ≤ 1 → (v.stepRay g n r).st = 2 → (v.stepRay g n r).committed.isSome)) ∧
  ∀ (s : State) (d a : Reg) (la : BitVec 4),
    let x := s.me
    let off := (x.readG a).toNat
    let w := s.who s.cur
    let R := s.readLane w w.core off 64
    let words := (List.range 8).map fun k => BitVec.ofNat 64 (R.1.1 >>> (64 * k))
    let rec_ := words.getD 1 0
    let P := R.2.probe w .store rec_ 64
    let vi := x.who.vi.toNat
    let die := dieOf s.cur
    let q := P.2.builderQ die vi
    let e := P.2.landPeers fun p => p.uid == P.2.me.who.uid
    let c : BuildCmd := { words := words, seq := 0, space := x.sys.space, hart := s.cur }
    let full := 256 ≤ q.cmds.length ∨ P.2.waiting (fun e => e.builds die vi) ≠ []
    let go := exec (.bldCmd d a la) s
    x.frozen = false → Clean x [a] → off % 64 = 0 → off + 64 ≤ 0x100000 → s.laneProbe w.core w.vi false off 64 = true →
    R.1.2 = none → rec_.toNat % 64 = 0 → (∃ t, P.1 = .ok t) → NoAtomic e →
      (2 ≤ x.core.vs.cfg.sc.toNat → e.acked = false → go = .next e) ∧
      (x.core.vs.cfg.sc.toNat < 2 ∨ e.acked = true →
        (¬full → Ends go (results P.2.me.vend P.2.me.core.pc la [(d, q.seq.setWidth 64, none)] [] 0).advance.retire
          fun t => t.builderQ die vi = { cmds := q.cmds ++ [{ c with seq := q.seq }], seq := q.seq + 1 }) ∧
        (full → Becomes go fun t => t.builderQ die vi = q ∧ t.me.core.pc = P.2.me.advance.core.pc ∧
          ∃ n ∈ t.net.entries, n.hart = s.cur ∧ n.post = .build die vi c d ∧
            ∃ win ∈ t.me.windows, win.left = la.toNat ∧ win.await = .entry n.id)))

/-- From R246, R402, R55–R58, R387, R396, R397, R414, R36: the events of a hart. A wait whose condition is now met, or whose
limit has passed, ends with the value read last. A window lands, whole, in part, or poisoned, and keeps the error that it
leaves until the instruction that waits for it. PREEMPT follows a reclaim once its window has gone by. An interrupt that may
be taken is taken, or stops the next instruction part-way first. CYCLE reaches CYCCMP once. Writes of the stop register, of
the ceiling and of a pending preemption are kept. A sequencer round begins at the lowest queue; the strip that issues next
is ready, of the highest ready priority, and covered by DEF of its queue, which gains its weight when the round comes to it
and is charged when the strip issues. Where the rules leave a point open it states the choice of the model:
notes/assumptions/4.md, notes/assumptions/5.md, notes/assumptions/27.md, notes/assumptions/63.md, notes/assumptions/66.md,
notes/assumptions/68.md and notes/assumptions/127.md. -/
def Obligations.HartEvents : Prop :=
  (∀ (s : State) (h : Nat), h < 8192 →
    let x := s.hart h
    let only := fun (s t : State) (y : Hart) => t.hart h = y ∧ OnlyMe { s with cur := h } { t with cur := h }
    (∀ r, x.core.st = .waiting (.cond r) →
      (∀ v, let R := State.waitRead { s with cur := h } r.sp r.addr (wBytes r.w)
        R.1 = .ok (v, none) → (R.2.hart h).gang = none → Becomes (exec (.waitConditionMet h) s) fun t =>
          only R.2 t (if waitHolds r.k (wBytes r.w) v r.wantNat
            then ((R.2.hart h).writeG r.d (BitVec.ofNat 64 v)).advance.retire
            else (R.2.hart h).setSt (.waiting (.cond { r with last := BitVec.ofNat 64 v })))) ∧
      (r.limit ≠ 0 → r.limit.toNat ≤ (x.sys.time.cycle - r.since).toNat → x.gang = none →
        Becomes (exec (.waitTimeout h) s) fun t => only s t (x.writeG r.d r.last).advance.retire)) ∧
    (∀ k w, x.windows[k]? = some w → w.await = .nothing →
      let after := fun (w : Window) =>
        let y := x.land w
        let kept := { w with gw := [], vw := [], gd := [], vd := [], fl := 0, err := y.pendErr }
        if y.pendErr = x.pendErr then { y with windows := x.windows.eraseIdx k }
        else { y with pendErr := x.pendErr, windows := x.windows.set k kept }
      Sets (exec (.longLatencyComplete h k .whole) s) s h (after w) ∧
      (∀ es gs fl,
        let picked := pickOut w.gw fun i => gs.contains i
        let now := { w with gw := picked.filter fun g => g.1 != 0, vw := pickOut w.vw fun i => es.contains i,
                            fl := if fl then w.fl else 0, err := none }
        Sets (exec (.longLatencyComplete h k (.part es gs fl)) s) s h { x.land now with
          windows := x.windows.set k { w with
            gw := (picked.filter fun g => g.1 == 0) ++ pickOut w.gw fun i => !gs.contains i,
            vw := pickOut w.vw fun i => !es.contains i, gd := w.gd ++ now.gw, vd := w.vd ++ now.vw } }) ∧
      ∀ c, let p : Poison := { cause := c, addr := w.pc }
        let gs := w.gd ++ w.gw
        let vs := w.vd ++ w.vw
        let poisoned := { w with gw := gs.map fun (g : Reg × Word × Option Poison) => (g.1, g.2.1, some p),
                                 vw := vs.map fun e => { e with poison := some p },
                                 err := if gs = [] ∧ vs = [] then w.err <|> some p else w.err }
        Becomes (exec (.longLatencyComplete h k (.error c)) s) fun t => t.phys = s.phys ∧
          (∀ j, j ≠ h → t.hart j = s.hart j) ∧ t.hart h = after poisoned) ∧
    (∀ i bound, x.nextIntr = some i → x.core.st ≠ .free → x.served = false →
      (exec (.trapEntry h 0) s = .next (s.takeIntr h i)) ∧ (i.stop = true → exec (.stopTaken h 0) s = .next (s.takeIntr h i)) ∧
      (bound ≠ 0 → x.core.st = x.runSt → x.gang = none →
        Sets (exec (.trapEntry h bound) s) s h { x with irq := { x.irq with split := some bound } } ∧
        (i.stop = true → Sets (exec (.stopTaken h bound) s) s h { x with irq := { x.irq with split := some bound } }))) ∧
    (x.core.st = .running → x.sys.time.cyccmp ≠ 0 → x.sys.time.cycle ≠ x.sys.time.cyccmp →
      Sets (exec (.cycleMatch h) s) s h { x with
        sys := { x.sys with time := { x.sys.time with cycle := x.sys.time.cyccmp } },
        lanes := { x.lanes with reclaim := x.lanes.reclaim.map fun r =>
          { r with spent := r.spent + (x.sys.time.cyccmp - x.sys.time.cycle).toNat } },
        irq := { x.irq with cycleMatch := some x.sys.time.cyccmp } }) ∧
    (∀ v : Word, x.core.st ≠ .free → x.irq.held = false →
      let on := v.getLsbD 0
      let irq := { x.irq with stop := on || (x.irq.stop && !x.irq.stopReg), stopReg := on, stepReg := v.getLsbD 1 }
      Sets (exec (.stopRegisterWrite h v) s) s h { x with irq := irq }) ∧
    (∀ ceil whom, x.core.st ≠ .free → 1 ≤ ceil → ceil ≤ 16 →
      let new := if ceil < x.lanes.ceil.toNat then some { recipient := whom, expired := false, late := 0 } else none
      let lanes := { x.lanes with ceil := BitVec.ofNat 5 ceil, reclaim := if ceil < x.G then x.lanes.reclaim <|> new else none }
      Sets (exec (.laneReclaim h ceil whom) s) s h { x with lanes := lanes }) ∧
    ∀ late r, x.lanes.reclaim = some r →
      let window := (s.vi x.who.vi.toNat).reclaimWin
      (r.spent < window → exec (.reclaimWindowExpiry h late) s = .next s) ∧
      (window ≤ r.spent → Sets (exec (.reclaimWindowExpiry h late) s) s h { x with
        lanes := { x.lanes with reclaim := some { r with expired := true, late := BitVec.ofNat 64 late } },
        irq := { x.irq with preempt := true } })) ∧
  (∀ (s : State) (core : Nat), core < 1024 → Becomes (exec (.sequencerRound core) s) fun t =>
    t.agenda = .strip core :: s.agenda ∧ t.core core = { s.core core with serving := [], weights := [] } ∧
    { t with agenda := s.agenda, cores := s.cores } = s ∧ ∀ c, c ≠ core → t.core c = s.core c) ∧
  ∀ (c d : Core) (weight : Nat → Nat) (l : List Strip) (wrap : Bool) (e : Strip) (q w : Nat),
    (c.nextStrip weight l wrap = some (e, d) → e ∈ l ∧ (∀ k ∈ l, k.prio ≤ e.prio) ∧ tfind d.serving e.prio = some e.queue ∧
      e.charge ≤ tget 0 d.deficit e.queue) ∧
    (∀ p, tget 0 (c.visit p q w).deficit q = (tget 0 c.deficit q + 128 * w) % 2 ^ 32) ∧
    tget 0 (c.issued e).deficit e.queue = tget 0 c.deficit e.queue - e.charge

/-- From R40, R41, R158, R415–R418: the events that move a context. MATRIX_CLAIM_GRANT gives a waiting hart the free claim
of its core. FULL_SWITCH writes the context of a hart that took a PREEMPT to a free unit of its VI and leaves the hart FREE.
CONTEXT_RESUME places a saved context that can run, as its record names it, on a free hart of the core it left with as many
lane groups as the record says. MIGRATION_PLACE moves a migrating context to a free hart of a G-core of its cluster. Where
the rules leave a point open it states the choice of the model: notes/assumptions/58.md, notes/assumptions/61.md,
notes/assumptions/63.md, notes/assumptions/64.md, notes/assumptions/65.md, notes/assumptions/142.md,
notes/assumptions/159.md and notes/assumptions/160.md. -/
def Obligations.ContextEvents : Prop :=
  ∀ (s : State) (h : Nat), h < 8192 →
    let x := s.hart h
    let core := coreOf h
    let vi := x.who.vi.toNat
    (x.core.st = .waiting .claim → (s.matrix core).claim = none → Becomes (exec (.matrixClaimGrant h) s) fun t =>
      (t.matrix core).claim = some x.who.claim ∧ t.hart h = x.resume ∧ ∀ k, k ≠ h → t.hart k = s.hart k) ∧
    (∀ u, x.served = true → x.sys.mtrap.tcause = 0x38 → x.irq.held = false → x.copiesDone = true →
      (s.vi vi).trap.freeUnit = some u → Becomes (exec (.fullSwitch h) s) fun t =>
        t.hart h = Hart.reset ∧ ∃ e ∈ (t.vi vi).ctxs, e.unit = u ∧ e.core = core ∧ e.hart.core.g = x.core.g ∧
          e.hart.core.pc = x.sys.mtrap.tpc ∧ e.hart.core.mode = x.sys.mtrap.pmode ∧ e.hart.frames = x.frames.tail ∧
          e.hart.core.vs = x.core.vs ∧ e.hart.who = x.who) ∧
    (∀ v unit c k, v < 128 → (s.vi v).ctxs.find? (fun c => c.unit == unit) = some c → s.freeHart c.core = some k →
      let base := (s.vi v).trap.unitAddr unit
      let head := s.saveWord base 0x200
      let id := s.saveWord base 0x208
      let qn : BitVec 12 := BitVec.ofNat 12 (head.toNat / 2 ^ 32)
      let G := head.toNat / 2 ^ 24 % 32
      let us := (s.unitsFor c.core (some (.ctx c.hart.who.uid)) []).take G
      let q := s.queue qn.toNat
      s.contextFault base c = none → us.length = G → s.outranked q.die q.prio qn.toNat = false →
      Becomes (exec (.contextResume v unit) s) fun t =>
        (t.hart k).who = { c.hart.who with queue := qn, lseq := BitVec.ofNat 32 (id.toNat / 2 ^ 32), index := id.setWidth 32 } ∧
        (t.hart k).lanes.grant = us ∧ (t.hart k).core.st = c.hart.runSt ∧ (t.hart k).frames = c.hart.frames ∧
        (t.hart k).core.pc = (t.hart k).sys.mtrap.tpc ∧ (t.hart k).core.mode = (if head.getLsbD 1 then .s else .u) ∧
        (∀ r : Reg, r ≠ 0 → (t.hart k).readG r = s.saveWord base (8 * r.toNat)) ∧ ∀ e ∈ (t.vi v).ctxs, e.unit ≠ unit) ∧
    ∀ y c k us, x.core.st = .migrating → x.copiesDone = true → x.landAll = some y →
      let x' := ((s.setHart h y).landSent y.who.uid).hart h
      (gCores core).findSome? (fun c =>
        let us := (s.unitsFor c (some (.ctx y.who.uid)) []).take y.G
        match s.freeHart c with
        | some k => if us.length = y.G then some (c, k, us) else none
        | none => none) = some (c, k, us) →
      Becomes (exec (.migrationPlace h) s) fun t => isGCore c = true ∧ clusterOf c = clusterOf core ∧ coreOf k = c ∧
        t.hart k = { x'.resume with lanes := { x'.lanes with grant := us }, fetched := [] } ∧ t.hart h = Hart.reset ∧ us.length = y.G

/-- From R252–R264, R266, R271: the events of launch queues. A tail notify that the host's port lets through moves TAIL
forward and a hold or release changes the state of an active or held queue. A valid record at HEAD enters the launch table
and an invalid one faults the queue with its code. DISPATCH places the next instance of a launch that is placeable and not
outranked on its hart, with the entry state of R28 and R262. An instance that waited PREEMPT_DELAY cycles has the least
important hart of its core shrunk or preempted. A retired instance leaves its hart FREE and is counted, and a launch of
which none is left leaves the table. Where the rules leave a point open it states the choice of the model:
notes/assumptions/34.md, notes/assumptions/58.md, notes/assumptions/59.md, notes/assumptions/129.md,
notes/assumptions/139.md and notes/assumptions/161.md. -/
def Obligations.LaunchEvents : Prop :=
  (∀ (s : State) (vi slot qn : Nat) (tail : BitVec 32) (on : Bool), vi < 128 → slot < 256 → s.slotQueue vi slot = some qn →
    let q := s.queue qn
    let H := s.heard vi
    let only := fun (u t : State) => { t with queues := u.queues } = u
    (Becomes (exec (.tailNotifyWrite vi slot tail) s) fun t =>
      (H.1 = true → only H.2.ackAll t ∧
        t.queue qn = if q.st ≠ .disabled ∧ 0 < (tail - q.tail).toInt then { q with tail := tail } else q) ∧
      (H.1 = false → t = H.2)) ∧
    (Becomes (exec (.hostHold vi slot on) s) fun t =>
      (H.1 = true → only H.2 t ∧ t.queue qn = if on = true ∧ q.st = .active then { q with st := .held }
        else if on = false ∧ q.st = .held then { q with st := .active } else q) ∧
      (H.1 = false → t = H.2)) ∧
    (s.portUp vi = true → (s.vi vi).tdiRun = false → H = (true, s))) ∧
  (∀ (s : State) (qn : Nat) (q : DevQueue) (b0 b1 : List Byte), qn < 4096 → tfind s.queues qn = some q → q.st = .active →
    q.table.length < 8 → q.head ≠ q.tail →
    let w := s.whoVi q.vi q.asid
    let R := s.devRead w (q.recordAt q.head) 8
    let T := R.2.devRead w (q.recordAt q.head + 8) 56
    R.1 = some b0 → leNat (b0.take 4) = q.head.toNat → T.1 = some b1 →
      let n := bitsOf ((wordsOf (b0 ++ b1)).getD 3 0) 31 0
      let l : Launch := { index := q.head, words := wordsOf (b0 ++ b1), st := .pending, placed := 0, cut := n, retired := 0 }
      let code := T.2.recordFault q l
      exec (.recordReread qn) s = exec (.dispatcherConsume qn) s ∧
      Becomes (exec (.dispatcherConsume qn) s) fun t =>
        (code = 0 → (t.queue qn).table = q.table ++ [l] ∧ (t.queue qn).head = q.head + 1) ∧
        (code ≠ 0 → (t.queue qn).st = .faulted ∧ (t.queue qn).errcode = BitVec.ofNat 8 code)) ∧
  (∀ (s : State) (qn : Nat) (l : Launch) (h g k area : Nat), qn < 4096 → s.placeable qn = some (l, h, g, k, area) →
    let q := s.queue qn
    s.outranked q.die q.prio qn = false → (∀ c ∈ (s.vi q.vi).ctxs, c.hart.who.queue.toNat = qn → s.ctxFits c = false) →
      Becomes (exec (.dispatch qn) s) fun t =>
        let x := t.hart h
        let stack := l.words.getD 5 0
        let size := bitsOf (l.words.getD 6 0) 31 0
        x.core.st = .running ∧ x.core.mode = .u ∧ x.core.pc = l.words.getD 1 0 ∧ x.lanes.grant = [(g, k)] ∧
        x.lanes.ceil = q.ceil ∧ x.lanes.lreq.toNat = bitsOf (l.words.getD 0 0) 36 32 ∧ x.readG 1 = l.words.getD 2 0 ∧
        x.readG 2 = BitVec.ofNat 64 l.placed ∧ x.readG 3 = BitVec.ofNat 64 (bitsOf (l.words.getD 3 0) 31 0) ∧
        x.readG 4 = l.index.setWidth 64 ∧
        x.readG 63 = (if stack = 0 then 0 else stack + BitVec.ofNat 64 ((l.placed + 1) * size)) ∧
        (∀ r : Reg, 5 ≤ r.toNat → r.toNat ≤ 62 → x.readG r = 0) ∧ x.core.vs = VState.reset ∧ x.core.fflags = 0 ∧
        x.who.lseq = l.index ∧ x.who.index.toNat = l.placed % 2 ^ 32 ∧ x.who.parent = none ∧
        x.sys.strap.tvec = (s.vi q.vi).trap.vector ∧ x.sys.strap.tsave = BitVec.ofNat 64 ((s.vi q.vi).trap.areaAddr area) ∧
        (t.queue qn).table = q.table.map fun e => if e.index == l.index then
          { l with placed := l.placed + 1, st := if l.placed + 1 = l.cut then .dispatched else .dispatching } else e) ∧
  (∀ (s : State) (qn : Nat) (q : DevQueue) (l : Launch), qn < 4096 → tfind s.queues qn = some q → q.nextLaunch = some l →
    q.st = .active → q.permits l = true → s.placeable qn = none →
    let core := l.eligible.getD (l.placed % l.eligible.length) 0
    let below := (hartsOf core).filter fun h => !isFirmwareHart h && decide ((s.hart h).who.prio < q.prio) &&
      (match (s.hart h).core.st with
        | .running | .waiting _ => true
        | _ => false)
    (∀ v, (s.freeHart core).isSome → s.victim (below.filter fun h => 1 < (s.hart h).G) Hart.G = some v →
      let lanes := (s.hart v).lanes.setCeil ((s.hart v).G - 1) (.waiting qn l.index (BitVec.ofNat 32 l.placed))
      Sets (exec (.preemptDelayExpiry qn) s) s v { s.hart v with lanes := lanes }) ∧
    ∀ v, s.freeHart core = none → s.victim below (fun _ => 0) = some v →
      Sets (exec (.preemptDelayExpiry qn) s) s v { s.hart v with irq := { (s.hart v).irq with preempt := true } }) ∧
  (∀ (s : State) (h : Nat), h < 8192 →
    let x := s.hart h
    let qn := x.who.queue.toNat
    x.core.st = .waiting .retire → x.copiesDone = true → s.hasChild x.who.vi.toNat x.who.uid = false →
    s.acked = true → s.atmsOpen x.who.uid = false → Becomes (exec (.instanceRetire h) s) fun t =>
      t.hart h = Hart.reset ∧ ∀ q l, tfind s.queues qn = some q →
        (q.table.find? fun l => l.index == x.who.lseq) = some l → l.placed < l.cut ∨ l.retired + 1 < l.placed →
          (t.queue qn).table = q.table.map fun e => if e.index == l.index then { l with retired := l.retired + 1 } else e) ∧
  ∀ (s : State) (qn : Nat) (j : BitVec 32) (q : DevQueue) (l : Launch), qn < 4096 → tfind s.queues qn = some q →
    (q.table.find? fun l => l.index == j) = some l → l.placed = l.cut → l.retired = l.placed →
    l.placed ≠ 0 ∨ q.permits l = true →
      Becomes (exec (.launchRetire qn j) s) fun t => ∀ e ∈ (t.queue qn).table, e.index ≠ j

/-- From R191, R199, R203, R205, R221, R293–R298, R333, R436–R438: the events of the networks and the memories. A page walk
that ends at a leaf fills the core's TLB. A request to a home is performed there and its reply kept, or combined with
another of the same line, and a reply then goes to its sender and to what it absorbed. An RDC invalidation drops the die's
copies of a line, an escape move is counted, a scrub poisons a line that it cannot correct. A store to peer lane memory
lands, or is lost with its link. A link trains to half width, goes down, each packet that may be on it being lost or past
it, and is routed around. Traffic of the sheet reads and writes lane memory and the VI's window, and is refused where no VI
is bound. Where the rules leave a point open it states the choice of the model: notes/assumptions/15.md,
notes/assumptions/113.md, notes/assumptions/114.md, notes/assumptions/117.md, notes/assumptions/140.md and
notes/assumptions/144.md. -/
def Obligations.NetworkEvents : Prop :=
  (∀ (s : State) (h : Nat) (inst : Bool) (va : Word) (lvl at_ e : Nat), h < 8192 → (s.hart h).core.st ≠ .free →
    canonical va = true → isSheet va = false ∨ inst = true → (s.walk (s.who h) inst va.toNat true).1 = .leaf lvl at_ e →
    s.leafFault (s.who h) (if inst then .fetch else .load) e = none →
    (s.tlbOf (s.who h) inst).length < (s.who h).tlbSize inst → Becomes (exec (.pageWalk h inst va) s) fun t =>
      t.harts = s.harts ∧ ∃ y ∈ t.tlbOf (s.who h) inst, y.hits (s.who h) inst va.toNat = true ∧ y.at_ = at_) ∧
  (∀ (s : State) (k j : Nat) (q : AtmReq), s.net.atms[k]? = some q →
    (q.absorbed = none → q.reply = none → s.atmFollows k q = false →
      let R := s.performAtm q
      Becomes (exec (.homeAccess k) s) fun t => t.net.atms = R.2.2.net.atms.set k { q with reply := some (R.1, R.2.1), sent := R.2.2.fresh, past := false } ∧
        t.phys = R.2.2.phys ∧ t.harts = R.2.2.harts) ∧
    (∀ x, s.net.atms[j]? = some x → k ≠ j → q.meets x = true → s.atmFollows j q = false → q.src ≠ x.src ∨ k < j →
      let both := { q with x := BitVec.ofNat 64 (amoNew q.op q.bytes q.x.toNat x.x.toNat) }
      let atms := (s.net.atms.set j { x with absorbed := some (q.id, q.x) }).set k both
      exec (.atmCombine k j) s = .next { s with net := { s.net with atms := atms } }) ∧
    ∀ v e', q.reply = some (v, e') → (∀ i ∈ s.net.invals, i.line ≠ q.addr / 128) → s.replyFollows q = false →
      let link := if q.past then none else s.downOn (dimRoute (dramDie q.addr) (dieOfCore q.src))
      let e := if link.isSome then some .linkLost else e'
      let part := fun (r : AtmReq) (y : Word) =>
        if r.op = .swap then y else BitVec.ofNat 64 (amoNew r.op r.bytes v.toNat y.toNat)
      let p : Option Poison := e.map fun c => { cause := c, addr := q.pc }
      let elem := fun (y : VWrite × Option Word) => { y.1 with poison := p, value :=
        (match y.2 with
          | none => v.toNat
          | some z => amoNew q.op q.bytes v.toNat z.toNat) % 2 ^ y.1.width }
      let value := if q.elems = [] then [(q.dest, v, p)] else []
      Becomes (exec (.replySplit k) s) fun t =>
        (t.net.atms = (s.net.atms.eraseIdx k).map fun r => match r.absorbed with
          | some (n, y) => if n = q.id then { r with absorbed := none, reply := some (part r y, e), sent := q.sent, past := q.past || link.isSome } else r
          | none => r) ∧
        (s.isFor q.hart q.uid = true → (t.hart q.hart).windows = (s.hart q.hart).windows.map fun w =>
          if w.await = .atomic [q.id] then { w with await := .nothing, gw := w.gw ++ value, vw := w.vw ++ q.elems.map elem }
          else match w.await with
            | .atomic ids => if q.id ∈ ids then { w with await := .atomic (ids.erase q.id), gw := w.gw ++ value,
                                                         vw := w.vw ++ q.elems.map elem } else w
            | _ => w)) ∧
  (∀ (s : State) (die line router : Nat), die < 8 →
    (Becomes (exec (.rdcInvalidate die line) s) fun t => t.phys.dram = s.phys.dram ∧
      (∀ h, (t.hart h).core = (s.hart h).core ∧ ∀ w ∈ (t.hart h).windows, ∀ ls, w.await = .acks ls →
        ∃ i ∈ t.net.invals, i.line ∈ ls) ∧
      (∀ e ∈ (t.die die).rdc, e.1 / 2048 ≠ line) ∧ ∀ i, i ∈ t.net.invals ↔ i ∈ s.net.invals ∧ (i.die ≠ die ∨ i.line ≠ line)) ∧
    (router < 64 → Becomes (exec (.escapeMove die router) s) fun t => { t with dies := s.dies } = s ∧
      let at_ := 0x106000 + 64 * router + 0x10
      tget 0 (t.die die).counts at_ = tget 0 (s.die die).counts at_ + 1) ∧
    (line < 0xF000000 → ∀ f, Becomes (exec (.dramScrub die line f) s) fun t => t.phys.dram = s.phys.dram ∧ t.harts = s.harts ∧
      t.phys.poison = if f = .uncorrectable
        then tset s.phys.poison (die * 2 ^ 28 + line) { cause := .dataEcc, addr := 0 } else s.phys.poison)) ∧
  (∀ (s : State) (k : Nat) (p : PeerStore), s.net.peers[k]? = some p →
    ((s.net.peers.take k).any fun q => q.uid == p.uid && q.core == p.core && decide (q.off < p.off + p.bytes.length) &&
      decide (p.off < q.off + q.bytes.length)) = false →
    ∀ lost,
      let on := if p.past then none else s.lostOnWay (s.peerFrom p) (dieOfCore p.core) lost
      (on = none → lost = true → exec (.peerAccessArrive k lost) s = .next s) ∧
      (on = none → lost = false → Becomes (exec (.peerAccessArrive k lost) s) fun t => t.net.peers = s.net.peers.eraseIdx k ∧
        (t.core p.core).lane = (s.core p.core).lane.writeN p.off p.bytes ∧ t.phys = s.phys ∧ t.harts = s.harts) ∧
      (on.isSome → Becomes (exec (.peerAccessArrive k lost) s) fun t => t.net.peers = s.net.peers.eraseIdx k ∧
        (t.core p.core).lane = (s.core p.core).lane ∧ t.phys = s.phys)) ∧
  (∀ (s : State) (link flits : Nat) (half performed : Bool) (l : Link), s.net.links.toList[link]? = some l → link < 10 →
    let now := fun (t : State) => t.net.links.toList[link]?
    (l.up = true → Becomes (exec (.linkRetrain link flits half) s) fun t => now t = some { l with half := l.half || half } ∧
      t.harts = s.harts ∧ t.phys = s.phys ∧ t.net.atms = s.net.atms ∧ t.net.peers = s.net.peers) ∧
    (l.up = true → Becomes (exec (.linkDown link performed) s) fun t =>
      now t = some { l with up := false, routed := false } ∧
      (∀ p ∈ t.net.peers, p.past = true ∨ (p ∈ s.net.peers ∧ crosses link (s.peerFrom p) (dieOfCore p.core) = false)) ∧
      (∀ q ∈ t.net.stores, q.past = true ∨ (q ∈ s.net.stores ∧ crosses link (dieOfCore q.core) (dramDie q.addr) = false)) ∧
      (∀ m ∈ t.net.mcmds, m.past = true ∨ (m ∈ s.net.mcmds ∧ match m.status with
        | none => crosses link (dieOf m.hart) (dieOfCore m.core) = false
        | some _ => link ∉ dimRoute (dieOfCore m.core) (dieOf m.hart))) ∧
      ∀ r ∈ t.net.atms, r.uses link = false) ∧
    (l.up = false → l.routed = false → Becomes (exec (.routeRecompute link) s) fun t =>
      now t = some { l with routed := true } ∧ t.harts = s.harts ∧ t.phys = s.phys)) ∧
  (∀ (s : State) (port : Nat), port < 12 → Becomes (exec (.sheetPortDown port) s) fun t =>
    ∀ k, t.fw.ports.getLsbD k = (s.fw.ports.getLsbD k && k != port)) ∧
  ∀ (s : State) (vi : Nat) (asid : BitVec 16) (a : Word) (req : SheetReq), vi < 128 →
    ((∀ c ∈ s.fw.sheets, c.vi ≠ vi) → exec (.sheetAccessArrive vi asid a req) s =
      .next { s with net := { s.net with refused := s.net.refused ++ [a] } }) ∧
    ∀ c, (s.fw.sheets.find? fun c => c.vi == vi) = some c →
      let core := (a.extractLsb' 32 10).toNat
      let off := (a.extractLsb' 0 20).toNat
      let own := fun n => s.laneProbe core (BitVec.ofNat 7 vi) true off n = true
      let lane := (s.core core).lane
      (a.getLsbD 48 = true → a.extractLsb' 42 6 = 0 → a.extractLsb' 20 12 = 0 →
        (∀ n, n ≠ 0 → own n → req = .read n → Becomes (exec (.sheetAccessArrive vi asid a req) s) fun t =>
          t.net.sheetOut = s.net.sheetOut ++ [(a, lane.readN off n)] ∧ t.cores = s.cores) ∧
        ∀ bs, bs ≠ [] → own bs.length → req = .write bs → Becomes (exec (.sheetAccessArrive vi asid a req) s) fun t =>
          (t.core core).lane = lane.writeN off bs ∧ t.net.sheetOut = s.net.sheetOut ++ [(a, [])]) ∧
      (a.getLsbD 48 = false → ∀ n bs, req = .read n → n + (a.extractLsb' 0 48).toNat ≤ c.length.toNat →
        let R := s.devRead (s.whoVi vi asid) (c.base + (a.extractLsb' 0 48).setWidth 64) n
        R.1 = some bs → Becomes (exec (.sheetAccessArrive vi asid a req) s) fun t =>
          t.net.sheetOut = R.2.net.sheetOut ++ [(a, bs)] ∧ t.harts = R.2.harts)

/-- From R300, R301, R302, R192: a slice runs the handler of the message that it accepted first, as one step. A handler that
ends by hret commits what it wrote and, when it sent nothing on, answers status HOP × 65,536 with the value of g[A]. One
that a rule of Table 12.5 ends commits nothing and answers 28H with the reason. A record waits at its slice until its port
has room and the handler's writes are performed, and a mode 1 reply, or its loss on a link, completes its sender's window.
Where the rules leave a point open it states the choice of the model: notes/assumptions/23.md, notes/assumptions/88.md,
notes/assumptions/89.md, notes/assumptions/90.md, notes/assumptions/91.md, notes/assumptions/92.md and
notes/assumptions/115.md. -/
def Obligations.SliceHandlers : Prop :=
  (∀ (s : State) (slice : Nat) (m : Message) (rest : List Message), slice < 512 → (s.slice slice).msgs = m :: rest →
    (s.slice slice).reply = none → m.quiet = false → m.mode = .reply →
    let t0 := ({ s with fresh := s.fresh + 1 }).modSlice slice fun y => { y with msgs := rest }
    let x := m.start (Config.freeWord s.fresh).toNat
    let E := State.pipRun m slice (s.vi m.vi).hbudget Pip.empty { t0.setHart (pipNum slice) x with cur := pipNum slice }
    let u := { E.2 with harts := tdel E.2.harts (pipNum slice), cur := s.cur }
    let answer := fun (status : Nat) (v : Word) =>
      ({ msg := m, slice := slice, status := BitVec.ofNat 64 status, value := v } : Reply)
    x.readG 5 = m.target ∧ (∀ j : Fin 4, x.readG (BitVec.ofNat 6 (j + 1)) = m.args.getD j 0) ∧
    (∀ p v, E.1 = .ret p v → p.onward = none → Becomes (exec (.handlerActivation slice) s) fun t =>
      let c := u.pipCommit m slice p
      t.net.replies = c.net.replies ++ [answer (m.hop * 65536) v] ∧ t.phys = c.phys ∧ t.slices = c.slices) ∧
    (∀ reason, E.1 = .stop reason → Becomes (exec (.handlerActivation slice) s) fun t =>
      (∃ v, t.net.replies = u.net.replies ++ [answer (0x28 + reason * 256 + m.hop * 65536) v]) ∧ t.phys = u.phys ∧
        t.slices = u.slices)) ∧
  (∀ (s : State) (m : Message) (slice n : Nat) (p : Pip) (a d : Reg),
    s.pipExec m slice p (.hret a) = (.ret p (s.me.readG a), s) ∧
    State.pipRun m slice 0 p s = (.stop 1, s) ∧
    (∀ w sx addr la, addr.toNat % wBytes w ≠ 0 → (s.pipLoad m slice p w sx d addr la).1 = .stop 6) ∧
    ∀ key tag v q, p.write key tag n v = some q →
      (∀ i < n, tfind q.buf (key + i) = some (BitVec.ofNat 8 (v >>> (8 * i)))) ∧
      (∀ j, j < key ∨ key + n ≤ j → tfind q.buf j = tfind p.buf j) ∧ q.units.length ≤ 32) ∧
  (∀ (s : State) (slice : Nat) (r : Reply), slice < 512 → (s.slice slice).reply = some r → s.acked = true →
    s.crossing (slice / 64) r.msg.die = none →
    let p := s.port r.msg.die r.msg.vi r.msg.port
    p.recs.length < 256 → r.msg.sender < 2 ^ 32 → Becomes (exec (.handlerReplyPush slice) s) fun t =>
      (t.slice slice).reply = none ∧ t.harts = s.harts ∧
      ∃ w : BitVec 512, (t.port r.msg.die r.msg.vi r.msg.port).recs = p.recs ++ [(w, false)] ∧
        w.extractLsb' 0 32 = r.status.setWidth 32 ∧ w.extractLsb' 32 32 = BitVec.ofNat 32 r.msg.sender ∧
        w.extractLsb' 64 64 = r.value ∧ w.extractLsb' 128 64 = r.msg.tag ∧ w.extractLsb' 192 320 = 0) ∧
  ∀ (s : State) (k : Nat) (r : Reply), s.net.replies[k]? = some r → r.msg.sender < 8192 → s.acked = true →
    let m := r.msg
    let x := s.hart m.sender
    let given := fun (status : Word) (t : State) =>
      t.hart m.sender = x.answer (.message m.id) [(m.dest, status, none), (m.dest + 1, r.value, none)] ∧
      (∀ h, h ≠ m.sender → t.hart h = s.hart h) ∧ t.net.replies = s.net.replies.eraseIdx k ∧
      (m.sc ≠ 0 → (t.core (coreOf m.sender)).l1 = [])
    x.who.uid = m.sendUid → x.core.st ≠ .free →
      let cut := r.past = false ∧ (s.downOn (dimRoute (r.slice / 64) (dieOf m.sender))).isSome
      (¬cut → Becomes (exec (.msgReplyArrive m.sender k false) s) (given r.status) ∧
        exec (.msgReplyArrive m.sender k true) s = .next s) ∧
      (cut → Becomes (exec (.msgReplyArrive m.sender k true) s) (given 0x21) ∧
        exec (.msgReplyArrive m.sender k false) s = .next s)

/-- From R305–R314, R328: the mesh distributor of a die. A record of an unknown TYPE, and a command that breaks a limit, is
dropped. A valid SETUP, FLUSH, FENCE or CLOSE turns every tile that holds entries into a pass; a FENCE counts once every
pass before it is complete; a CLOSE closes the tile queue once every pass is posted. A primitive record is clipped,
projected, culled and binned under the SETUP in force. A pass is posted as one tile record, and its pass end names its
tickets. Where the rules leave a point open it states the choice of the model: notes/assumptions/50.md,
notes/assumptions/51.md, notes/assumptions/93.md, notes/assumptions/94.md, notes/assumptions/95.md and
notes/assumptions/96.md. -/
def Obligations.DistributorRule : Prop :=
  ∀ (s : State) (die vi : Nat), die < 8 → vi < 128 →
    let d := s.dist die vi
    let recs := fun (t : State) (p : Nat) => (t.port die vi p).recs
    let taken := fun (t : State) => recs t 0 = (recs s 0).drop 1
    let made := (d.tiles.zipIdx d.count).map fun t =>
      ({ tag := tileTag die t.2, tx := t.1.1 % 65536, ty := t.1.1 / 65536, chunks := t.1.2.chunks, entries := t.1.2.entries,
         flushed := false, posted := false, tickets := none, commits := 0 } : Pass)
    let flushed : DistCtx := { d with tiles := [], count := d.count + d.tiles.length, passes := d.passes ++ made }
    let headOf := fun (type : Nat) (r : BitVec 512) (l : List (BitVec 512 × Bool)) =>
      recs s 0 = (r, false) :: l ∧ (recWord r 0).toNat % 256 = type
    (d.busy = false → ∀ r l,
      (∀ b, recs s 0 = (r, b) :: l → (recWord r 0).toNat % 256 ∉ [1, 2, 3, 4, 5] →
        Becomes (exec (.primitiveRecord die vi) s) fun t => recs t 0 = l ∧ t.dist die vi = d) ∧
      (headOf 1 r l →
        (∀ u, distSetup r = some u → Becomes (exec (.distributorSetup die vi) s) fun t =>
          taken t ∧ t.dist die vi = { flushed with setup := some u } ∧ (t.port die vi 1).closed = false) ∧
        (distSetup r = none → Becomes (exec (.distributorSetup die vi) s) fun t => taken t ∧ t.dist die vi = d)) ∧
      (headOf 3 r l → r.toNat / 256 = 0 →
        Becomes (exec (.distributorFlush die vi) s) fun t => taken t ∧ t.dist die vi = flushed) ∧
      (headOf 4 r l → (recWord r 0).toNat / 256 = 0 → (recWord r 1).toNat % 8 = 0 → r.toNat / 2 ^ 128 = 0 →
        Becomes (exec (.distributorFence die vi) s) fun t => taken t ∧
          t.dist die vi = { flushed with fences := d.fences ++ [(recWord r 1, flushed.passes.map Pass.tag)] }) ∧
      (headOf 5 r l → r.toNat / 256 = 0 → Becomes (exec (.distributorClose die vi) s) fun t => taken t ∧
        if flushed.passes.all Pass.posted = true then (t.port die vi 1).closed = true ∧ t.dist die vi = { flushed with closing := false }
        else t.dist die vi = { flushed with closing := true }) ∧
      ∀ r2 u, recs s 0 = (r, false) :: (r2, false) :: l → d.setup = some u → (recWord r 0).toNat = 2 →
        (recWord r 1).getLsbD 31 = false → (recWord r 3).toNat / 2 ^ 32 = 0 →
        let W := primTris u ((List.range 8).map (recWord r) ++ (List.range 8).map (recWord r2))
        Becomes (exec (.primitiveRecord die vi) s) fun t =>
          recs t 0 = l ∧ (t.dist die vi).culled = d.culled + W.2 ∧ (t.dist die vi).setup = some u ∧
          ((t.dist die vi).work = [] ∨ (t.dist die vi).stalled = true)) ∧
    (∀ a rest, d.fences = (a, []) :: rest → s.acked = true → Becomes (exec (.distributorFenceCount die vi) s) fun t =>
      (t.dist die vi).fences = rest ∧ t = (s.setDist die vi { d with fences := rest }).addCounter die vi 0 a 1 (0x1000 + die) 0) ∧
    (∀ u, d.setup = some u → d.stalled = true → d.passes.any Pass.flushed = false → d.freeChunks ≠ [] →
      Becomes (exec (.bufferFullResume die vi) s) fun t => (t.dist die vi).work = [] ∨ (t.dist die vi).stalled = true) ∧
    (∀ tx ty p, (d.passes.find? fun p => p.tx == tx && p.ty == ty) = some p → p.posted = false → (recs s 1).length < 256 →
      Becomes (exec (.tilePost die vi tx ty) s) fun t =>
        (∃ r, recs t 1 = recs s 1 ++ [(r, false)] ∧
          recWord r 0 = BitVec.ofNat 64 (p.tag.toNat + (if p.flushed then 2 ^ 24 else 0) + tx * 2 ^ 32 + ty * 2 ^ 48) ∧
          recWord r 1 = BitVec.ofNat 64 (p.chunks.headD 0) ∧
          recWord r 2 = BitVec.ofNat 64 (p.entries + p.chunks.length * 2 ^ 32) ∧ recZero r 3 = true) ∧
        (t.dist die vi).passes = d.passes.map fun q => if q.tag = p.tag then { q with posted := true } else q) ∧
    ∀ r l, recs s 5 = (r, false) :: l → recZero r 1 = true → bitsOf (recWord r 0) 31 24 = 0 →
      let mine := fun (p : Pass) => p.tag = (recWord r 0).setWidth 24 ∧ p.posted = true ∧ p.tickets = none
      Becomes (exec (.passEnd die vi) s) fun t => recs t 5 = l ∧
        ((∃ p ∈ d.passes, mine p) → ∀ p ∈ (t.dist die vi).passes, ¬mine p) ∧
        ((∀ p ∈ d.passes, ¬mine p) → t.dist die vi = d)

/-- From R320–R328: a valid setup record configures the reprojection agent. A block request reserves its ticket's entry at
the blend unit, with the agent's part for the pixels whose history it accepts, and posts a fragment record for the rest. A
blend request fills its ticket's shader part. A complete ticket commits when every lower SEQ of its block has committed: it
leaves the window and its pass counts it. Where the rules leave a point open it states the choice of the model:
notes/assumptions/50.md, notes/assumptions/96.md, notes/assumptions/97.md and notes/assumptions/98.md. -/
def Obligations.ReprojectAndBlend : Prop :=
  ∀ (s : State) (die vi : Nat), die < 8 → vi < 128 →
    let recs := fun (t : State) (p : Nat) => (t.port die vi p).recs
    (∀ r l u, recs s 2 = (r, false) :: l → recType r = 1 → reprSetup r = some u →
      Becomes (exec (.reprojectionSetup die vi) s) fun t => recs t 2 = l ∧ tfind (t.die die).repr vi = some u ∧
        t.phys = s.phys ∧ t.harts = s.harts) ∧
    (∀ r r1 r2 r3 l u, recs s 2 = (r, false) :: (r1, false) :: (r2, false) :: (r3, false) :: l → recType r = 2 →
      blockClean r = true → tfind (s.die die).repr vi = some u →
      let b := blockReq r r1 r2 r3
      let D := s.readTargetDesc die vi (b.hd 2)
      let block := D.1.bind fun t => t.block b.bx b.by_
      let E := if block.isSome then D.2 else D.2.agentErr die vi 2 2 (b.hd 0)
      let H := match block with
        | some a => E.blockHome die vi a
        | none => (none, E)
      let unit_ := H.1.getD (64 * die)
      let A := H.2.testBlock die vi u b ((List.range 16).filter fun j => b.cover.getLsbD j)
      let accepted := fun (j : Nat) => A.1.any fun p => p.1 == j
      (∀ q ∈ (H.2.slice unit_).blend, q.vi ≠ vi ∨ q.ticket ≠ b.ticket) → (H.2.slice unit_).blend.length < 256 →
      (recs A.2 3).length < 4096 → Becomes (exec (.blockRequest die vi) s) fun t =>
        (∃ q, (t.slice unit_).blend.getLast? = some q ∧ q.vi = vi ∧ q.ticket = b.ticket ∧ q.block = block ∧ q.shader = none ∧
          q.agent.op = b.op ∧ ∀ j < 16, (q.agent.mask.getLsbD j = accepted j) ∧
            q.rej.getLsbD j = (b.cover.getLsbD j && !accepted j)) ∧
        (u.enable = false → A.1 = [] ∧ recs t 2 = (recs A.2 2).drop 4 ∧
          (b.cover = 0 → recs t 3 = recs A.2 3) ∧
          (b.cover ≠ 0 → ∃ f, recs t 3 = recs A.2 3 ++ [(f, false)] ∧
            recWord f 0 = BitVec.ofNat 64 (b.cover.toNat + b.op * 2 ^ 16 + b.objid * 2 ^ 32) ∧
            recWord f 1 = BitVec.ofNat 64 b.ticket.toNat ∧ recWord f 2 = b.hd 2 ∧ recWord f 3 = b.hd 3 ∧ recWord f 4 = b.hd 4 ∧
            recWord f 5 = BitVec.ofNat 64 b.cover.toNat ∧ recZero f 6 = true))) ∧
    (∀ r l n unit_ q, recs s 4 = (r, false) :: l → recType r = 2 → (n = if (recWord r 0).getLsbD 32 then 2 else 1) →
      n ≤ l.length → (l.take n).any Prod.snd = false → bitsOf (recWord r 0) 63 33 = 0 → bitsOf (recWord r 1) 63 48 = 0 →
      recZero r 3 = true → bitsOf (recWord r 0) 23 16 ≤ 4 →
      s.ticketUnit vi ((recWord r 1).setWidth 48) = some (unit_, q) → q.shader = none →
      let D := s.readTargetDesc die vi (recWord r 2)
      let bad := D.1.isNone || q.fmt != (recWord r 0).getLsbD 32
      Becomes (exec (.blendRequest die vi) s) fun t => recs t 4 = (recs D.2 4).drop (n + 1) ∧
        ∃ part : TicketPart, part.op = bitsOf (recWord r 0) 23 16 ∧
          (part.mask = if bad = true ∨ q.block = none then 0 else (recWord r 0).setWidth 16 &&& q.rej) ∧
          (t.slice unit_).blend = (D.2.slice unit_).blend.map fun p =>
            if p.vi = vi ∧ p.ticket = q.ticket then { p with shader := some part } else p) ∧
    ∀ slice ticket q, slice < 512 → ((s.slice slice).blend.find? fun t => t.vi == vi && t.ticket == ticket) = some q →
      q.complete = true → ticket.toNat % 65536 = s.seqDue vi ticket →
      let W := s.writeTicket (slice / 64) q
      let tag : BitVec 24 := ticket.extractLsb' 24 24
      let old := W.dist (tag.toNat / 2 ^ 21) vi
      let ps := old.passes.map fun p => if p.tag = tag then { p with commits := p.commits + 1 } else p
      Becomes (exec (.ticketCommit slice vi ticket) s) fun t => t.phys = W.phys ∧
        ((t.slice slice).blend = (W.slice slice).blend.filter fun q => !(q.vi == vi && q.ticket == ticket)) ∧
        t.seqDue vi ticket = ticket.toNat % 65536 + 1 ∧
        t.dist (tag.toNat / 2 ^ 21) vi = DistCtx.settle { old with passes := ps }

/-- From R362–R372: a builder command that is next for its entry ends and leaves the queue; a bad record, an entry that does
not exist and a staged generation in the way end it with status 9, 3 and 5. BUILD, REFIT and REBALANCE stage a generation
under the next number when the pool has pages for its new nodes, and end with status 1 when it has not: BUILD the tree grown
over its primitives, each of them in one leaf; REFIT its source's tree over the primitives read again, the nodes over none
that changed shared; REBALANCE its source's tree with the subtrees that exceed RATIO, or with RATIO 0 all of it, grown
again. PUBLISH makes the staged generation CURRENT; RETIRE drops the staged one, or leaves the entry without a CURRENT one.
REFIT, REBALANCE and QUERY of a generation that does not exist end with status 4. Where the rules leave a point open it
states the choice of the model: notes/assumptions/99.md, notes/assumptions/100.md, notes/assumptions/101.md and
notes/assumptions/102.md. -/
def Obligations.BuilderRule : Prop :=
  ∀ (s : State) (die vi k : Nat) (c : BuildCmd) (i : Instr) (ops : Nat → Bool), die < 8 → vi < 128 →
    ((i = .build die vi k ∧ ops = fun n => n == 1) ∨ (i = .refit die vi k ∧ ops = fun n => n == 2) ∨
      (i = .rebalance die vi k ∧ ops = fun n => n == 3) ∨ (i = .publish die vi k ∧ ops = fun n => n == 4) ∨
      (i = .retire die vi k ∧ ops = fun n => n == 5) ∨ (i = .query die vi k ∧ ops = fun n => decide (n < 1) || decide (6 ≤ n))) →
    s.buildNext die vi k ops = some c →
    let e := (s.vi vi).as c.as_
    let after := fun (t : State) => (t.vi vi).as c.as_
    let ends := fun (n : Nat) => exec i s = .next (s.endBuild die vi k c { status := n })
    let bad := c.clean = false ∨ c.op < 1 ∨ 6 < c.op
    let ok := c.clean = true ∧ 1 ≤ c.op ∧ c.op ≤ 6 ∧ e.v = true ∧ c.fieldsOk e.kind = true
    let left := fun (t : State) => (tget { cmds := [], seq := 0 } (t.die die).builder vi).cmds =
      (tget { cmds := [], seq := 0 } (s.die die).builder vi).cmds.eraseIdx k
    (bad → ends 9) ∧ (¬bad → e.v = false → ends 3) ∧ (¬bad → e.v = true → c.fieldsOk e.kind = false → ends 9) ∧
    (ok → c.op ≤ 3 → (tfind e.slots 4).isSome = true → ends 5) ∧
    (∀ r, left (s.endBuild die vi k c r)) ∧
    (ok → c.op ≤ 3 → tfind e.slots 4 = none →
      (let read := fun (ids : List Nat) => State.gather (s.builderWho die vi c) c e.kind ids [] 0 s
      let stops := fun (ids : List Nat) => ∀ st n a, (read ids).1 = .error (st, n, a) →
        exec i s = .next ((read ids).2.endBuild die vi k c { status := st, degen := n, fault := a })
      let stages := fun (u : State) (g : Generation) (plan : List (BNode × Bool)) (n : Nat) =>
        let x := (u.vi vi).as c.as_
        let free := x.pool.filter fun p => !x.usedPages.contains p
        let need := newPages u.fresh g.count (plan.filter Prod.snd).length x.kind
        (free.length < need →
          exec i s = .next ({ u with fresh := u.fresh + 1 }.endBuild die vi k c { status := 1, pages := need - free.length, degen := n })) ∧
        (need ≤ free.length → Becomes (exec i s) fun t => left t ∧ ∃ h, tfind (after t).slots 4 = some h ∧ h.gen = x.nextgen ∧
          h.tris = g.tris ∧ h.insts = g.insts ∧ h.opq = g.opq ∧ h.count = g.count ∧ h.fitted = g.fitted ∧
          h.nodes.map (fun b => (b.size, b.items)) = plan.map (fun b => (b.1.size, b.1.items)) ∧
          ∀ (j : Nat) (b : BNode × Bool), plan[j]? = some b → if b.2 then (h.nodes.getD j b.1).page ∈ free.take need else (h.nodes.getD j b.1).page = b.1.page)
      (c.op = 1 → let all := List.range c.count
        stops all ∧ ∀ ps n, (read all).1 = .ok (ps, n) →
          let ids := ps.map Prim.index
          stages (read all).2 (newGeneration ps c.opq false c.count) ((grow (read all).2.fresh ids.length 0 ids).map fun b => (b, true)) n) ∧
      (c.op ≠ 1 → e.source c = none → ends 4) ∧
      (c.op = 2 → ∀ g, e.source c = some g → c.count ≠ g.count → ends 6) ∧
      (c.op = 2 → ∀ g, e.source c = some g → c.count = g.count →
        let ids := if e.kind then g.insts.map fun p => p.index else g.tris.map fun p => p.index
        stops ids ∧ ∀ ps n, (read ids).1 = .ok (ps, n) →
          stages (read ids).2 { newGeneration ps c.opq true c.count with base := g.base, root := g.root }
            (refit g.nodes (ps.map Prim.index) ((g.prims.filter fun p => !ps.contains p).map Prim.index)) n) ∧
      (c.op = 3 → ∀ g, e.source c = some g →
        let rebuilt := fun j => decide (c.ratio % 2 ^ 31 = 0) || Tree.exceeds g.nodes (s.vi vi) g.prims c.ratio j
        stages s { g with fitted := false } (regrow s.fresh g.nodes rebuilt g.nodes.length 0 0) 0))) ∧
    (ok → c.op = 4 →
      (tfind e.slots 4 = none → ends 4) ∧
      ∀ g, tfind e.slots 4 = some g → (∃ j < 4, tfind e.slots j = none) → Becomes (exec i s) fun t => left t ∧
        (after t).cur = g.gen ∧ (after t).hascur = true ∧ tfind (after t).slots 4 = none ∧
        ∃ j < 4, tfind e.slots j = none ∧ ∃ g', tfind (after t).slots j = some g' ∧ g'.gen = g.gen ∧ g'.root = g.root) ∧
    let fails := (tfind e.slots 4 = none → ends 4) ∧ Becomes (exec i s) fun t => left t ∧ tfind (after t).slots 4 = none
    (ok → c.op = 5 → c.usecur = true → e.hascur = false → fails) ∧
    (ok → c.op = 5 → c.usecur = false ∨ e.hascur = true →
      let n := if c.usecur then e.cur else c.gen
      let staged := (tfind e.slots 4).any fun g => g.gen == n
      (staged = true → Becomes (exec i s) fun t => left t ∧ tfind (after t).slots 4 = none) ∧
      (staged = false → e.slotOf n = none → fails) ∧
      (staged = false → (e.slotOf n).isSome = true → Becomes (exec i s) fun t => left t ∧
        (after t).hascur = (e.hascur && e.cur != n))) ∧
    (ok → c.op = 6 →
      (e.source c = none → fails) ∧
      ∀ g, e.source c = some g → Becomes (exec i s) fun t => left t ∧ after t = { e with busy := none }) ∧
    (∀ g : Generation, g.fitted = false → g.drift = 0x3F800000) ∧
    ∀ f fuel n items, ((grow f fuel n items).flatMap BNode.items).Perm items

/-- From R27, R429, R430, R434, R435: a power interval sets the islands' POWER and moves the die by at most one step: down
when the die is above its cap, until REEF is 1 and FSTEP 0 in every core island that is not held; up below 95% of it, one
island's REEF or FSTEP by 1, until REEF is 16 and FSTEP 15. A hundred intervals at the floor are an overrun, signalled on
vector 31 of both PFs. A reset starts the module again with both PFs, empty DRAM and the host's memory as it was, from the
boot record of SRAM or flash that has more starts; a step other than 11 that fails three times leaves it in recovery mode at
a start after that, and a die without a link fails step 9. Where the rules leave a point open it states the choice of the
model: notes/assumptions/78.md, notes/assumptions/79.md, notes/assumptions/118.md and notes/assumptions/161.md. -/
def Obligations.PowerAndReset : Prop :=
  (∀ (s : State) (die : Nat) (power : List Nat), die < 8 → Becomes (exec (.powerInterval die power) s) fun t =>
    let watts := fun (n : Nat) => min (power.getD n 0) 0xFFFF
    let now := (List.range 64).foldl (fun a n => a + watts n) 0
    let cap := s.capOf die
    let old := fun (n : Nat) => (s.die die).island n
    let new := fun (n : Nat) => (t.die die).island n
    let same := fun (n : Nat) => (new n).reef = (old n).reef ∧ (new n).fstep = (old n).fstep
    { t with dies := s.dies } = s ∧ (∀ n < 64, (new n).power.toNat = watts n) ∧ (∀ n, 32 ≤ n → same n) ∧
    (now ≤ cap → 95 * cap ≤ 100 * now → ∀ n, same n) ∧
    (100 * now < 95 * cap → now ≤ cap →
      ((∃ n < 32, (old n).reef.toNat < 16 ∨ ((old n).fstep.toNat < 15 ∧ s.heldLow die n = false)) →
        ∃ n < 32, ((new n).reef.toNat = (old n).reef.toNat + 1 ∧ (new n).fstep = (old n).fstep ∨
          (new n).fstep.toNat = (old n).fstep.toNat + 1 ∧ (new n).reef = (old n).reef) ∧ ∀ m, m ≠ n → same m) ∧
      ((∀ n < 32, 16 ≤ (old n).reef.toNat ∧ (15 ≤ (old n).fstep.toNat ∨ s.heldLow die n = true)) → ∀ n, same n)) ∧
    (∀ n, s.heldLow die n = true → (new n).fstep = (old n).fstep) ∧
    (cap < now → (∃ n < 32, 1 < (old n).reef.toNat ∨ (0 < (old n).fstep.toNat ∧ s.heldLow die n = false)) →
      (t.die die).overcap = 0 ∧ ∃ n < 32,
      ((new n).reef.toNat + 1 = (old n).reef.toNat ∧ (new n).fstep = (old n).fstep ∨
        (new n).fstep.toNat + 1 = (old n).fstep.toNat ∧ (new n).reef = (old n).reef) ∧ ∀ m, m ≠ n → same m) ∧
    (cap < now → (∀ n < 32, (old n).reef.toNat ≤ 1 ∧ ((old n).fstep = 0 ∨ s.heldLow die n = true)) →
      (t.die die).overcap = (s.die die).overcap + 1 ∧ ∀ n, same n)) ∧
  (∀ (s : State) (die : Nat), die < 8 → 100 ≤ (s.die die).overcap →
    Becomes (exec (.powerCapOverrun die (s.die die).measured) s) fun t =>
      t.fw.msix = s.fw.msix ++ [(0, 31), (64, 31)] ∧ (t.die die).overcap = 0 ∧ t.harts = s.harts ∧ t.phys = s.phys ∧
      (t.die die).errNext = (s.die die).errNext + 1) ∧
  ∀ (s : State) (fails : List BootFailure), Becomes (exec (.powerOnReset fails) s) fun t =>
    let b := s.fw.record
    t.harts = [] ∧ t.cores = [] ∧ t.slices = [] ∧ t.queues = [] ∧ t.phys.dram = [] ∧ t.phys.hostA = s.phys.hostA ∧
    t.phys.hostB = s.phys.hostB ∧ t.stepping = s.stepping ∧ t.fw.keys = [] ∧ t.fw.assigned = [] ∧
    (∀ v, (t.vi v).exists_ = true ↔ v = 0 ∨ v = 64) ∧
    t.fw.flash = t.fw.boot ∧ (∃ p ∈ t.fw.pcie, p.up = true) ∧
    (fails = [] → s.lonely = false → t.fw.boot.boots = b.boots + 1 ∧ t.fw.boot.recovery = b.recovery ∧
      (b.recovery = false → ∀ k, 1 ≤ k → k ≤ 14 → k ≠ 11 → (t.fw.boot.entry k).2.2 = 0)) ∧
    (fails = [] → s.lonely = true → b.recovery = false → (b.entry 9).2.2 = 0 →
      t.fw.boot.boots = b.boots + 2 ∧ (t.fw.boot.entry 9).2.1 = true) ∧
    ∀ step code, 1 ≤ step → step ≤ 14 → step ≠ 11 → s.lonely = false → b.recovery = false → (b.entry step).2.2 = 0 →
      fails = List.replicate 3 { step := step, code := code } →
      t.fw.boot.recovery = true ∧ t.fw.boot.entry step = (code, true, 3) ∧ t.fw.boot.laststep = BitVec.ofNat 8 step ∧
      t.fw.boot.boots = b.boots + 4

/-- From R7, R190, R202, R423–R426: a doorbell with a newer tail makes firmware read the records up to it; writing CQBASE
restarts a queue, when the port and the state of the function let it through. A read of BAR0 gives the registers' values, 0
at offsets that name none, and all ones for another size. A completion reports tag, status and RESULT, takes the command
from its queue, and sends the queue's MSI-X message. A record that names no command completes with its own status. RDCWAYS
drops the die's copies; an ownership entry that changes its owner zeroes its block first, and mode S of the owning VI may
change EXP alone. From R423, R427, R430, Table 19.4: every command that is first in its queue completes with BAD_CMD when
its record or its TVI is not allowed, with RECOVERY where recovery mode does not offer it, and with DENIED where only a PF
may issue it; otherwise it waits while its own VI, or the TVI of a command that is not module-wide, takes no commands. Where
the rules leave a point open it states the choice of the model: notes/assumptions/70.md, notes/assumptions/71.md,
notes/assumptions/86.md, notes/assumptions/87.md and notes/assumptions/161.md. -/
def Obligations.CommandQueueRule : Prop :=
  ((∀ (s : State) (vi cq : Nat) (tail : BitVec 32) (v : Word), vi < 128 → cq < 4 →
    let q := (s.vi vi).cmdq cq
    let others := fun (t : State) => ∀ k, k ≠ cq → (t.vi vi).cmdq k = (s.vi vi).cmdq k
    let H := s.heard vi
    (s.portUp vi = true → (s.vi vi).tdiRun = false → H = (true, s)) ∧ (s.portUp vi = false → H = (false, s)) ∧
    (s.queueOpen vi cq = true → q.ready = true → (0#32).slt (tail - q.tail) = true → H.1 = false →
      exec (.commandDoorbell vi cq tail) s = .next H.2) ∧
    (H.1 = true → s.queueOpen vi cq = true → q.ready = true → (0#32).slt (tail - q.tail) = true → q.head = q.tail →
      Becomes (exec (.commandDoorbell vi cq tail) s) fun t =>
        let y := (t.vi vi).cmdq cq
        y.head = tail ∧ y.tail = tail ∧ t.harts = s.harts ∧ t.cores = s.cores ∧
        y.todo.take q.todo.length = q.todo ∧ y.todo.length = q.todo.length + (tail - q.tail).toNat ∧
        (tail = q.tail + 1 → y.todo = q.todo ++ [(H.2.readCmd vi cq q.head.toNat).1])) ∧
    (s.queueOpen vi cq = false ∨ q.ready = false ∨ (0#32).slt (tail - q.tail) = false →
      exec (.commandDoorbell vi cq tail) s = .next s) ∧
    (∀ bs t j, s.bufRead vi (q.recordAt j) 64 = (some bs, t) →
      let w := wordsOf bs
      (s.readCmd vi cq j).1.tag = (w.getD 0 0).extractLsb' 16 16 ∧
      ((s.readCmd vi cq j).1.cmd = none ↔ bitsOf (w.getD 0 0) 7 0 < 1 ∨ 0x21 < bitsOf (w.getD 0 0) 7 0) ∧
      (s.readCmd vi cq j).1.status = 1) ∧
    (∀ t j, s.bufRead vi (q.recordAt j) 64 = (none, t) →
      (s.readCmd vi cq j).1.cmd = none ∧ (s.readCmd vi cq j).1.status = 3) ∧
    ((s.vi vi).exists_ = true → H.1 = true →
      (Becomes (exec (.cqbaseWrite vi cq v) s) fun t => others t ∧
        (t.vi vi).cmdq cq = { q with base := v, head := 0, tail := 0, done := 0 }) ∧
      (Becomes (exec (.registerWrite (.bar vi (0x1008 + 0x20 * cq) 8) v) s) fun t => others t ∧
        (t.vi vi).cmdq cq = { q with cpl := v }) ∧
      (Becomes (exec (.registerWrite (.bar vi (0x1010 + 0x20 * cq) 8) v) s) fun t => others t ∧
        (t.vi vi).cmdq cq = { q with vector := v.setWidth 6 }) ∧
      (s.barRead vi (0x800 + 8 * cq) 8).1 = q.tail.toNat ∧ (s.barRead vi (0x1000 + 0x20 * cq) 8).1 = q.base.toNat ∧
      (s.barRead vi (0x1008 + 0x20 * cq) 8).1 = q.cpl.toNat ∧ (s.barRead vi (0x1010 + 0x20 * cq) 8).1 = q.vector.toNat ∧
      ∀ off, 0x820 ≤ off → off < 0x1000 → off % 8 = 0 → (s.barRead vi off 8).1 = 0) ∧
    (∀ off size, size ≠ 8 → exec (.registerWrite (.bar vi off size) v) s = .next s ∧
      (s.barRead vi off size).1 = 2 ^ (8 * size) - 1) ∧
    (∀ tag status r, let t := s.complete vi cq tag status r
      (∃ x, t.fw.lastDone = some (vi, cq, tag, status, x) ∧ ∀ w, r = some w → x = w) ∧
      (t.vi vi).cmdq cq = { q with done := q.done + 1, todo := q.todo.tail } ∧ others t ∧
      (∀ h, (t.hart h).core = (s.hart h).core) ∧ t.net.invals = [] ∧ t.cores = s.cores ∧ t.queues = s.queues ∧ t.fw.keys = s.fw.keys ∧
      t.fw.msix = if q.vector.getLsbD 5 then s.fw.msix ++ [(vi, q.vector.toNat % 32)] else s.fw.msix) ∧
    ∀ x rest, q.todo = x :: rest → x.cmd = none → s.endBad vi cq = s.complete vi cq x.tag x.status none) ∧
  (∀ (s : State) (die : Nat) (v : Word), die < 8 →
    (v.toNat % 16 ≤ 8 → BitVec.ofNat 4 v.toNat ≠ (s.die die).rdcways → Becomes (exec (.rdcwaysWrite die v) s) fun t =>
      (t.die die).rdcways = BitVec.ofNat 4 v.toNat ∧ (t.die die).rdc = [] ∧ (∀ i ∈ t.net.invals, i.die ≠ die) ∧
      t.phys = s.phys ∧ ∀ h, (t.hart h).core = (s.hart h).core) ∧
    (8 < v.toNat % 16 → exec (.rdcwaysWrite die v) s = .next s) ∧
    (∀ off vi, exec (.registerWrite (.window die off (.user vi)) v) s = .next s) ∧
    ∀ core j, core < 128 → j < 4 → Becomes (exec (.registerWrite (.window die (0x101000 + 128 * core + 8 * j) .firmware) v) s)
      fun t => ∀ e f, (t.core (die * 128 + core)).events.toList[j]? = some e →
        (s.core (die * 128 + core)).events.toList[j]? = some f →
        e.vien = v.getLsbD 23 ∧ e.vi = v.extractLsb' 16 7 ∧ e.count = f.count ∧
          e.event = if (BitVec.ofNat 8 v.toNat).toNat ≤ 0x10 then BitVec.ofNat 8 v.toNat else 0) ∧
  ∀ (s : State) (core block : Nat) (by_ : Writer) (v : BitVec 32), core < 1024 → block < 256 → s.copyUses core block = false →
    let old := tget Owner.reset (s.core core).owners block
    let now := fun (t : State) => tget Owner.reset (t.core core).owners block
    let asked : Owner := { exp := v.getLsbD 9, v := v.getLsbD 8, vi := v.setWidth 7 }
    (Becomes (exec (.ownershipWrite core block .firmware v) s) fun t => now t = asked ∧
      (∀ b, b ≠ block → tget Owner.reset (t.core core).owners b = tget Owner.reset (s.core core).owners b) ∧
      (old.v ≠ asked.v ∨ old.vi ≠ asked.vi → ∀ a, a / 4096 = block → (t.core core).lane.read a = 0)) ∧
    (∀ vi, old.v = true → old.vi.toNat = vi →
      Becomes (exec (.ownershipWrite core block (.super vi) v) s) fun t => now t = { old with exp := v.getLsbD 9 }) ∧
    (∀ vi, by_ = .user vi ∨ (by_ = .super vi ∧ (old.v = false ∨ old.vi.toNat ≠ vi)) →
      exec (.ownershipWrite core block by_ v) s = .next s)) ∧
  (∀ (s : State) (c : Cmd) (i : Instr) (op : Nat) (k : CmdSort) (q : QCmd), (i, op, k) ∈
    ([(.identify c, 0x01, { safe := true }), (.attest c, 0x02, {}), (.createAs c, 0x03, {}), (.destroyAs c, 0x04, {}),
      (.map c, 0x05, {}), (.unmap c, 0x06, {}), (.migrate c, 0x07, {}), (.loadCode c, 0x08, {}), (.createQueue c, 0x09, {}),
      (.destroyQueue c, 0x0A, {}), (.setKey c, 0x0B, {}), (.clearKey c, 0x0C, {}), (.setShare c, 0x0D, { pf := true }),
      (.setPowerCap c, 0x0E, { wide := true, pf := true }), (.createGroupTemplate c, 0x0F, {}), (.createCap c, 0x10, {}),
      (.createAstruct c, 0x11, {}), (.setRdc c, 0x12, { wide := true, pf := true }), (.pinQuota c, 0x13, { pf := true }),
      (.installHandlers c, 0x14, {}), (.setBudget c, 0x15, {}), (.resetVi c, 0x16, { reset := true }),
      (.readCounters c, 0x17, {}), (.traceStart c, 0x18, {}), (.traceStop c, 0x19, {}),
      (.sheetConfig c, 0x1A, { wide := true, pf := true }), (.bootRecord c, 0x1B, { wide := true, safe := true }),
      (.debug c, 0x1C, { wide := true, pf := true }), (.readErrors c, 0x1D, {}), (.setQmap c, 0x1E, {}), (.setTrap c, 0x1F, {}),
      (.assignMem c, 0x20, { pf := true }), (.setPool c, 0x21, {})] : List (Instr × Nat × CmdSort)) →
    c.vi < 128 → c.cq < 4 → ((s.vi c.vi).cmdq c.cq).todo.head? = some q →
      let named := c.clean = true ∧ c.tvi < 128 ∧
        (if c.vi % 64 = 0 then k.wide = true ∨ (c.tvi / 64 = c.vi / 64 ∧ (s.vi c.tvi).exists_ = true) else c.tvi = c.vi)
      let offered := s.fw.boot.recovery = false ∨ k.safe = true
      let allowed := k.pf = false ∨ c.vi % 64 = 0
      (q.cmd ≠ some (op, c) → exec i s = .next s) ∧
      (q.cmd = some (op, c) →
        (¬named → Refuses (exec i s) s c 0x01) ∧ (named → ¬offered → Refuses (exec i s) s c 0x0E) ∧
        (named → offered → ¬allowed → Refuses (exec i s) s c 0x04) ∧
        (named → offered → allowed → k.reset = false →
          (s.vi c.vi).active = false ∨ (k.wide = false ∧ (s.vi c.tvi).active = false) → exec i s = .next s)))

/-- From R345, R427, R428, R455, R458, R460: commands on address spaces and memory at their turn. CREATE_AS makes a space
and drops old translations of its ASID; DESTROY_AS waits while the space is used, or gives up with BUSY. MAP and UNMAP write
and clear leaves, MIGRATE copies a page and maps it at its new place, each dropping the translations it replaced and waiting
until no access holds one of them. LOAD_CODE places a good object. ASSIGN_MEM gives a VI a range and takes it back; SET_POOL
names its table pool. Where the rules leave a point open it states the choice of the model: notes/assumptions/56.md,
notes/assumptions/72.md, notes/assumptions/73.md, notes/assumptions/74.md, notes/assumptions/80.md, notes/assumptions/85.md
and notes/assumptions/150.md. -/
def Obligations.CommandsOnSpaces : Prop :=
  ∀ (s : State) (c : Cmd) (begun : Bool),
    let v := s.vi c.tvi
    let asid : BitVec 16 := c.a5.setWidth 16
    let tlbs := fun (u : State) (p : TlbEntry → Prop) => ∀ k, (∀ e ∈ (u.core k).tlb, ¬p e) ∧ (∀ e ∈ (u.core k).itlb, ¬p e) ∧
      ∀ b ∈ (u.core k).banks, ∀ e ∈ b.2, ¬p e
    let stale := fun (u : State) (inst : Bool) (n : Nat) (vas : List Nat) => u.xlatHeld u.numbered fun y => y.vi.toNat == c.tvi &&
      y.inst == inst && (vas.filter fun va => meetPages n [va] y.base y.pages).any fun va => u.leafGone y va
    let changes := fun (i : Instr) (u : State) (inst : Bool) (n : Nat) (vas : List Nat) =>
      (stale u inst n vas = false → Answers (exec i s) c 0 none fun t => t = u) ∧
      (stale u inst n vas = true → Waits (exec i s) s fun t => t.phys = u.phys ∧ t.cores = u.cores)
    (Issued s 0x03 c {} begun →
      let root := fun (a : Word) => a.toNat < 2 ^ 36 ∧ s.ownsRange c.tvi (a.toNat * 4096) 4096 = true
      (¬(root c.a1 ∧ root c.a2 ∧ c.a3.toNat < 2 ^ 16) → Refuses (exec (.createAs c) s) s c 2) ∧
      (root c.a1 → root c.a2 → c.a3.toNat < 2 ^ 16 → s.hasSpace c.tvi c.a3 = true → Refuses (exec (.createAs c) s) s c 5) ∧
      (root c.a1 → root c.a2 → c.a3.toNat < 2 ^ 16 → s.hasSpace c.tvi c.a3 = false →
        Answers (exec (.createAs c) s) c 0 none fun u => u.phys = s.phys ∧ u.harts = s.harts ∧
          tfind (u.vi c.tvi).spaces c.a3.toNat =
            some { iroot := c.a2.setWidth 36, droot := c.a1.setWidth 36, asid := c.a3.setWidth 16 } ∧
          tlbs u fun e => e.vi.toNat = c.tvi ∧ e.glob = false ∧ e.asid = c.a3.setWidth 16)) ∧
    (Issued s 0x04 c {} begun →
      (s.hasSpace c.tvi c.a3 = false → Refuses (exec (.destroyAs c) s) s c 2) ∧
      (s.hasSpace c.tvi c.a3 = true → s.spaceUsed c.tvi (c.a3.setWidth 16) = true →
        (Config.freeBit s.fresh = false → Waits (exec (.destroyAs c) s) s fun t => ∀ k, (t.vi k).spaces = (s.vi k).spaces) ∧
        (Config.freeBit s.fresh = true → Refuses (exec (.destroyAs c) s) s c 5)) ∧
      (s.hasSpace c.tvi c.a3 = true → s.spaceUsed c.tvi (c.a3.setWidth 16) = false →
        Answers (exec (.destroyAs c) s) c 0 none fun u => tfind (u.vi c.tvi).spaces c.a3.toNat = none ∧
          ∀ x ∈ (u.vi c.tvi).poolUsed, x.2 ≠ some (c.a3.setWidth 16))) ∧
    (Issued s 0x05 c {} begun →
      let pages := levelBytes c.level / 4096
      let held := match tfind s.fw.keys (ekey c.a3.toNat) with
        | some k => k.vi == c.tvi
        | none => false
      let pinned := (mapLeaves c).any fun l => s.pinIn (spans (eppn l.2 * 4096) (levelBytes c.level)) fun p => p.vi != c.tvi
      let span := begun = false ∧ s.spanOk c = true
      let ok := span ∧ pinned = false ∧ s.mapOk c = true ∧ (ebit c.a3.toNat 53 = true → held = true)
      let W := State.putLeaves c.tvi asid c.inst c.level (mapLeaves c) [] s
      (begun = true → changes (.map c) s c.inst pages ((mapLeaves c).map Prod.fst)) ∧
      (begun = false → s.spanOk c = false → Refuses (exec (.map c) s) s c 2) ∧
      (span → pinned = true → Refuses (exec (.map c) s) s c 6) ∧
      (span → pinned = false → s.mapOk c = false → Refuses (exec (.map c) s) s c 2) ∧
      (span → pinned = false → s.mapOk c = true → ebit c.a3.toNat 53 = true → held = false →
        Refuses (exec (.map c) s) s c 0x0D) ∧
      (ok → W = none → Refuses (exec (.map c) s) s c 0x10) ∧
      (∀ old t, ok → W = some (old, t) → changes (.map c) (t.dropPages c.tvi c.inst pages old) c.inst pages old) ∧
      ∀ l at_, mapLeaves c = [l] → s.slotAt c.tvi l.1 c.level (4 - c.level) (s.rootOf c.tvi asid c.inst) = some at_ →
        W = some (if ebit (s.physWord at_) 0 then [l.1] else [], s.physWrite 0 at_ (leBytes 8 l.2))) ∧
    (Issued s 0x06 c {} begun →
      let slot := s.slotAt c.tvi c.a1.toNat c.level (4 - c.level) (s.rootOf c.tvi asid c.inst)
      let pages := levelBytes c.level / 4096
      (begun = true → changes (.unmap c) s c.inst pages ((List.range c.a2.toNat).map fun k => c.a1.toNat + k * levelBytes c.level)) ∧
      (begun = false → s.spanOk c = false → Refuses (exec (.unmap c) s) s c 2) ∧
      ∀ at_, begun = false → s.spanOk c = true → c.a2 = 1 → slot = some at_ →
        (s.physWord at_ % 4 = 1 → changes (.unmap c)
          ((s.physWrite 0 at_ (leBytes 8 (s.physWord at_ - 1))).dropPages c.tvi c.inst pages [c.a1.toNat]) c.inst pages [c.a1.toNat]) ∧
        (s.physWord at_ % 2 = 0 → changes (.unmap c) s c.inst pages [])) ∧
    (Issued s 0x07 c {} true → changes (.migrate c) s false 1 [c.a1.toNat]) ∧
    (∀ lvl at_ e a t, Issued s 0x07 c {} false → s.hasSpace c.tvi c.a5 = true → canonical c.a1 = true →
      c.a1.toNat % 4096 = 0 → c.a2.toNat < 2 ^ 36 →
      (s.walk (s.whoVi c.tvi asid) false c.a1.toNat false).1 = .leaf lvl at_ e →
      let page := leafPage c.a1.toNat lvl e * 4096
      let tag := if ebit e 53 then some (BitVec.ofNat 10 (ekey e)) else none
      let new := e % 1024 + c.a2.toNat * 4096 + e / 2 ^ 48 * 2 ^ 48
      let pinned := s.pinIn (spans page 4096) fun _ => true
      isMemory page = true → isMemory (c.a2.toNat * 4096) = true → s.leafOk c.tvi false 0 c.a1.toNat new = true →
      (pinned = true → Refuses (exec (.migrate c) s) s c 6) ∧
      (pinned = false → State.ownEntry c.tvi asid c.a1.toNat lvl at_ e s = some (a, t) →
        let u := ((t.copyPage tag page (c.a2.toNat * 4096)).physWrite 0 a (leBytes 8 new)).dropPages c.tvi false 1 [c.a1.toNat]
        changes (.migrate c) u false 1 [c.a1.toNat] ∧
        tlbs u fun e => e.vi.toNat = c.tvi ∧ e.inst = false ∧ e.pages = 1 ∧ e.base = c.a1.toNat % 2 ^ 57 / 4096)) ∧
    (∀ bs t, Issued s 0x08 c {} begun → c.a3.toNat < 64 → c.a4.toNat % 0x200000 = 0 → c.a6.toNat % 0x1000 = 0 →
      s.hasSpace c.tvi c.a5 = true →
      let f := objField bs
      let pages := fun (n : Nat) => (n + 0xFFF) / 0x1000
      let units := (f 0x10 + 0x1FFFFF) / 0x200000
      let da := c.a6.toNat + 0x1000 * pages (f 0x14)
      let n := pages (f 0x14) + pages (f 0x18) + pages (f 0x1C)
      let part := fun (off len : Nat) => (bs.drop (objText bs + off)).take len
      let put := fun (inst : Bool) (lvl leaf va : Nat) (bs : List Byte) (n : Nat) (s : Option State) =>
        s.bind (State.placeSection c.tvi asid inst lvl leaf va bs n)
      let t1 := put true 1 codeLeaf c.a4.toNat (part 0 (f 0x10)) units (some t)
      let t2 := put false 0 codeLeaf c.a6.toNat (part (f 0x10) (f 0x14)) (pages (f 0x14)) t1
      let t3 := put false 0 (codeLeaf + 32) da (part (f 0x10 + f 0x14) (f 0x18)) (pages (f 0x18)) t2
      let t4 := put false 0 (codeLeaf + 32) (da + 0x1000 * pages (f 0x18)) [] (pages (f 0x1C)) t3
      let o := exec (.loadCode c) s
      ((tfind v.tables.codes c.a3.toNat).isSome = true → Refuses o s c 5) ∧
      (tfind v.tables.codes c.a3.toNat = none → s.bufRead c.vi c.a1 c.a2.toNat = (some bs, t) →
        (objOk t.stepping bs = false → Answers o c 8 none fun u => u = t) ∧
        (objOk t.stepping bs = true → objLives bs = false → Answers o c 9 none fun u => u = t) ∧
        (objOk t.stepping bs = true → objLives bs = true → rangeOk c.a4 units 0x200000 = true → rangeOk c.a6 n 0x1000 = true →
          t.unmapped c.tvi asid true 1 c.a4.toNat units = true → t.unmapped c.tvi asid false 0 c.a6.toNat n = true →
          (t4 = none → Answers o c 0x10 none fun u => u = t) ∧
          ∀ w, t4 = some w → Answers o c 0 (some c.a4) fun u =>
            u.phys = w.phys ∧ (u.vi c.tvi).log = (w.vi c.tvi).log ++ [sha384 bs] ∧
            ∃ k, tfind (u.vi c.tvi).tables.codes c.a3.toNat = some k ∧ k.text = c.a4 ∧ k.textsize.toNat = f 0x10 % 2 ^ 32 ∧
              k.nkernel.toNat = f 0x0C % 2 ^ 16 ∧ (k.handler = true ↔ 2 ^ 16 ≤ f 0x0C)))) ∧
    (Issued s 0x20 c { pf := true } begun →
      let xs := spans c.a1.toNat c.a2.toNat
      let ok := c.a1.toNat % 0x200000 = 0 ∧ c.a2.toNat % 0x200000 = 0 ∧ c.a3.toNat < 2 ∧ assignable c.a1.toNat c.a2.toNat = true
      let other := s.fw.assigned.any fun r => r.2.2 != c.tvi && meets xs [(r.1, r.2.1)]
      let pinned := s.pinIn xs fun _ => true
      (¬ok → Refuses (exec (.assignMem c) s) s c 2) ∧ (ok → other = true → Refuses (exec (.assignMem c) s) s c 5) ∧
      (ok → other = false → c.a3 = 0 → Answers (exec (.assignMem c) s) c 0 none fun u =>
        u.fw.assigned = s.fw.assigned ++ xs.map fun x => (x.1, x.2, c.tvi)) ∧
      (ok → other = false → c.a3 = 1 → pinned = true → Refuses (exec (.assignMem c) s) s c 6) ∧
      (ok → other = false → c.a3 = 1 → pinned = false → s.mapsInto c.tvi xs = true ∨ meets xs v.reserves = true →
        Refuses (exec (.assignMem c) s) s c 5) ∧
      (ok → other = false → c.a3 = 1 → pinned = false → s.mapsInto c.tvi xs = false → meets xs v.reserves = false →
        Answers (exec (.assignMem c) s) c 0 none fun u =>
          (∀ r ∈ u.fw.assigned, r.2.2 = c.tvi → meets xs [(r.1, r.2.1)] = false) ∧
          ∀ r ∈ s.fw.assigned, r.2.2 ≠ c.tvi → r ∈ u.fw.assigned)) ∧
    (Issued s 0x21 c {} begun →
      let base := c.a1.toNat
      let len := c.a2.toNat
      let ok := base % 0x200000 = 0 ∧ len % 0x200000 = 0 ∧ (len = 0 ∨ s.ownsRange c.tvi base len = true)
      let kept := v.poolUsed.all fun u => meets (spans base len) [(u.1 * 0x1000, u.1 * 0x1000 + 1)]
      (¬ok → Refuses (exec (.setPool c) s) s c 2) ∧ (ok → kept = false → Refuses (exec (.setPool c) s) s c 5) ∧
      (ok → kept = true → Answers (exec (.setPool c) s) c 0 none fun u =>
        u.vi c.tvi = { v with poolBase := base, poolLen := len } ∧ ∀ k, k ≠ c.tvi → u.vi k = s.vi k))

/-- From R202, R207, R208, R342, R348, R350, R351, R355, R358, R361, R419, R433, R457: commands on a VI's tables at their
turn. Each completes with BAD_ARG, EXISTS or its own status where a field breaks a limit or the entry is taken, and
otherwise writes the entry it names: queue, key slot, share, template, capability serial, AS entry, RDCWAYS, pin quota,
handler image, budget, handle and trap configuration. DESTROY_QUEUE of a queue with nothing in it frees its slot. Where the
rules leave a point open it states the choice of the model: notes/assumptions/60.md, notes/assumptions/71.md,
notes/assumptions/75.md, notes/assumptions/77.md, notes/assumptions/81.md, notes/assumptions/82.md, notes/assumptions/83.md
and notes/assumptions/150.md. -/
def Obligations.CommandsOnTables : Prop :=
  ∀ (s : State) (c : Cmd) (begun : Bool),
    let v := s.vi c.tvi
    let only := fun (u : State) (w : Vi) => u.vi c.tvi = w ∧ ∀ k, k ≠ c.tvi → u.vi k = s.vi k
    (∀ n, Issued s 0x09 c {} begun → findBelow (fun k => (tfind s.queues k).isNone) 4096 = some n →
      v.tables.slots.length < 256 → c.a1.toNat < 256 →
      let w0 := c.a2
      let w1 := c.a3
      bitsOf w0 11 5 = 0 → 1 ≤ bitsOf w0 4 0 → bitsOf w0 4 0 ≤ 16 → canonical (w0 &&& ~~~ 0xFFF#64) = true →
      bitsOf w1 47 40 = 0 → bitsOf w1 31 29 = 0 → bitsOf w1 23 19 = 0 → bitsOf w1 15 11 = 0 → w1.getLsbD 7 = false →
      bitsOf w1 6 0 = c.tvi → 1 ≤ bitsOf w1 28 24 → bitsOf w1 28 24 ≤ 16 → 1 ≤ bitsOf w1 39 32 →
      s.hasSpace c.tvi ((w1.extractLsb' 48 16).setWidth 64) = true →
        ((s.slotQueue c.tvi c.a1.toNat).isSome = true → Refuses (exec (.createQueue c) s) s c 5) ∧
        (s.slotQueue c.tvi c.a1.toNat = none → Answers (exec (.createQueue c) s) c 0 (some (BitVec.ofNat 64 n)) fun u =>
          u.slotQueue c.tvi c.a1.toNat = some n ∧ ∃ q, tfind u.queues n = some q ∧ q.vi = c.tvi ∧ q.slot = c.a1.toNat ∧
            q.st = .active ∧ q.head = 0 ∧ q.tail = 0 ∧ q.table = [] ∧ q.ring = w0 &&& ~~~ 0xFFF#64 ∧ q.logsize = bitsOf w0 4 0 ∧
            q.die = bitsOf w1 10 8 ∧ q.prio = w1.extractLsb' 16 3 ∧ q.ceil = w1.extractLsb' 24 5 ∧
            q.weight = bitsOf w1 39 32 ∧ q.asid = w1.extractLsb' 48 16)) ∧
    (Issued s 0x0A c {} begun → c.a1.toNat < 256 →
      (s.slotQueue c.tvi c.a1.toNat = none → begun = false → Refuses (exec (.destroyQueue c) s) s c 2) ∧
      (∀ n, s.slotQueue c.tvi c.a1.toNat = some n → (s.queue n).dying = true → begun = false →
        Waits (exec (.destroyQueue c) s) s fun t => t.queues = s.queues) ∧
      ∀ n, s.slotQueue c.tvi c.a1.toNat = some n → (s.queue n).dying = false → (s.queue n).table = [] → (s.queue n).vi = c.tvi →
        begun = false → Answers (exec (.destroyQueue c) s) c 0 none fun u =>
          tfind u.queues n = none ∧ u.slotQueue c.tvi c.a1.toNat ≠ some n) ∧
    (Issued s 0x0B c {} begun → c.a1.toNat < 1024 → v.tdiRun = true → c.tvi % 64 ≠ 0 → v.spdm ≠ .session →
      Refuses (exec (.setKey c) s) s c 4) ∧
    (Issued s 0x0B c {} begun → c.a1.toNat < 1024 → v.tdiRun = false ∨ c.tvi % 64 = 0 ∨ v.spdm = .session →
      (∀ k, tfind s.fw.keys c.a1.toNat = some k → k.vi ≠ c.tvi → Refuses (exec (.setKey c) s) s c 5) ∧
      ∀ bs t, (∀ k, tfind s.fw.keys c.a1.toNat = some k → k.vi = c.tvi) →
        s.bufRead c.vi c.a2 64 = (some bs, t) → Answers (exec (.setKey c) s) c 0 none fun u =>
          tfind u.fw.keys c.a1.toNat = some { vi := c.tvi, bytes := bs } ∧ u.vis = t.vis ∧
          ∀ k, k ≠ c.a1.toNat → tfind u.fw.keys k = tfind t.fw.keys k) ∧
    (Issued s 0x0C c {} begun → c.a1.toNat < 1024 →
      ((∀ k, tfind s.fw.keys c.a1.toNat = some k → k.vi ≠ c.tvi) → Refuses (exec (.clearKey c) s) s c 0x0D) ∧
      ∀ k, tfind s.fw.keys c.a1.toNat = some k → k.vi = c.tvi → Answers (exec (.clearKey c) s) c 0 none fun u =>
        tfind u.fw.keys c.a1.toNat = none ∧ ∀ line, tget none u.phys.tags line ≠ some (BitVec.ofNat 10 c.a1.toNat)) ∧
    (Issued s 0x0D c { pf := true } begun →
      let core := bitsOf c.a1 41 32
      let blocks := if c.a1.getLsbD 63 then (List.range (bitsOf c.a1 15 8 + 1 - bitsOf c.a1 7 0)).map (· + bitsOf c.a1 7 0) else []
      let owned := c.a1.getLsbD 62
      let o : Owner := { exp := c.a1.getLsbD 61, v := owned, vi := if owned then BitVec.ofNat 7 c.tvi else 0 }
      (shareOk s c = false → Refuses (exec (.setShare c) s) s c 2) ∧
      (shareOk s c = true → (blocks.any fun b => s.copyUses core b) = true →
        Waits (exec (.setShare c) s) s fun t => t.cores = s.cores ∧ t.queues = s.queues) ∧
      (shareOk s c = true → (blocks.any fun b => s.copyUses core b) = false → Answers (exec (.setShare c) s) c 0 none fun u =>
        (∀ b ∈ blocks, tget Owner.reset (u.core core).owners b = o) ∧
        (∀ n, c.a2.getLsbD 63 = true → s.slotQueue c.tvi (bitsOf c.a2 7 0) = some n → u.queue n = { s.queue n with
          weight := bitsOf c.a2 47 40, ceil := c.a2.extractLsb' 32 5, prio := c.a2.extractLsb' 24 3 }) ∧
        only u { v with reclaimWin := if c.a3.getLsbD 63 then bitsOf c.a3 24 0 else v.reclaimWin,
                        preemptDel := if c.a4.getLsbD 63 then bitsOf c.a4 31 0 else v.preemptDel })) ∧
    (∀ bs t, Issued s 0x0F c {} begun → c.a1.toNat < 256 →
      let k := c.a1.toNat
      let used := s.queues.any fun (q : Nat × DevQueue) => q.2.vi == c.tvi && q.2.table.any fun l => l.tmpl == some k
      let x := fun (k : Nat) => (wordsOf bs).getD k 0
      let good := ((wordsOf bs).take 4).all tmplOk = true ∧ x 4 = 0 ∧ x 5 = 0 ∧ x 6 = 0 ∧ bitsOf (x 7) 63 1 = 0
      (used = true → Refuses (exec (.createGroupTemplate c) s) s c 5) ∧
      (used = false → s.bufRead c.vi c.a2 64 = (some bs, t) →
        (¬good → Answers (exec (.createGroupTemplate c) s) c 0x0A none fun u => u = t) ∧
        (good → Answers (exec (.createGroupTemplate c) s) c 0 none fun u => tfind (u.vi c.tvi).tables.tmpls k =
          if (x 7).getLsbD 0 then some (((wordsOf bs).take 4).map tmplSlot) else none))) ∧
    (Issued s 0x10 c {} begun →
      let ok := c.a1 &&& ~~~ 0xFF0F#64 = 0 ∧ c.a2.toNat < 4
      (¬ok → Refuses (exec (.createCap c) s) s c 2) ∧
      (ok → v.serialnext = BitVec.allOnes 24 → Refuses (exec (.createCap c) s) s c 0x0B) ∧
      (ok → v.serialnext ≠ BitVec.allOnes 24 → c.a2 = 0 →
        Answers (exec (.createCap c) s) c 0
          (some (issueCap v.capKey c.tvi (bitsOf c.a1 3 0) (bitsOf c.a1 15 8) v.serialnext.toNat))
          fun u => only u { v with serialnext := v.serialnext + 1 }) ∧
      (ok → v.serialnext ≠ BitVec.allOnes 24 → c.a2 = 1 → Answers (exec (.createCap c) s) c 0 (some 0)
        fun u => only u { v with serialfloor := v.serialnext })) ∧
    (∀ bs t, Issued s 0x11 c {} begun → c.a1.toNat < 4096 → c.a2.toNat < 2 → c.a4.toNat < 2 ^ 32 →
      let ps := (wordsOf bs).map fun w => w.toNat
      ((v.as c.a1.toNat).v = true → Refuses (exec (.createAstruct c) s) s c 5) ∧
      ((v.as c.a1.toNat).v = false → c.a4 ≠ 0 → s.bufRead c.vi c.a3 (8 * c.a4.toNat) = (some bs, t) →
        let ok := ps.Nodup ∧ ∀ p ∈ ps, p < 2 ^ 36 ∧ t.ownsRange c.tvi (p * 4096) 4096 = true ∧
          ∀ e ∈ (t.vi c.tvi).tables.ases, p ∉ e.2.pool
        (¬ok → Answers (exec (.createAstruct c) s) c 2 none fun u => u = t) ∧
        (ok → Answers (exec (.createAstruct c) s) c 0 none fun u => (u.vi c.tvi).as c.a1.toNat =
          { AsEntry.none with v := true, kind := c.a2 == 1, total := ps.length, pool := ps }))) ∧
    (Issued s 0x12 c { wide := true, pf := true } begun →
      (¬(c.a1.toNat < 256 ∧ c.a2.toNat ≤ 8) → Refuses (exec (.setRdc c) s) s c 2) ∧
      (c.a1.toNat < 256 → c.a2.toNat ≤ 8 → Answers (exec (.setRdc c) s) c 0 none fun u => u.phys = s.phys ∧ ∀ d < 8,
        (u.die d).rdcways = if c.a1.getLsbD d then BitVec.ofNat 4 c.a2.toNat else (s.die d).rdcways)) ∧
    (Issued s 0x13 c { pf := true } begun → c.a1.toNat < 2 ^ 32 → Answers (exec (.pinQuota c) s) c 0 none fun u =>
      only u { v with pinquota := c.a1.toNat } ∧ (c.a1 = 0 → ∀ p ∈ u.phys.pins, p.2.vi ≠ c.tvi) ∧
      (c.a1 ≠ 0 → u.phys = s.phys)) ∧
    (∀ o bs t, Issued s 0x14 c {} begun → c.a1.toNat < 64 → tfind v.tables.codes c.a1.toNat = some o →
      let ws := (List.range 256).map fun n => leNat ((bs.drop (4 * n)).take 4)
      let rs : Tab Region := ws.zipIdx.filterMap fun w => (regionOf w.1).map fun r => (w.2, r)
      let shared := t.vis.any fun w => w.1 != c.tvi && w.2.tables.regions.any fun r => rs.any fun x => x.2.meets r.2
      let queued := t.slices.any fun k => k.2.msgs.any (fun m => m.vi == c.tvi) || k.2.reply.any (fun m => m.msg.vi == c.tvi)
      let busy := queued || s.net.entries.any fun e => e.sentBy c.tvi
      (o.handler = false → Refuses (exec (.installHandlers c) s) s c 8) ∧
      (o.handler = true → s.bufRead c.vi c.a2 1024 = (some bs, t) → ws.all regionOk = true →
        (shared = true → Answers (exec (.installHandlers c) s) c 0x0C none fun u => u = t) ∧
        (shared = false → busy = true → Waits (exec (.installHandlers c) s) s fun u => u.slices = s.slices) ∧
        (shared = false → busy = false → Answers (exec (.installHandlers c) s) c 0 none fun u =>
          (u.vi c.tvi).tables.image = some (o.text, o.textsize.toNat) ∧ (u.vi c.tvi).tables.regions = rs))) ∧
    (Issued s 0x15 c {} begun →
      (¬(1 ≤ c.a1.toNat ∧ c.a1.toNat ≤ 1024) → Refuses (exec (.setBudget c) s) s c 2) ∧
      (1 ≤ c.a1.toNat → c.a1.toNat ≤ 1024 → Answers (exec (.setBudget c) s) c 0 none fun u =>
        only u { v with hbudget := c.a1.toNat })) ∧
    (Issued s 0x1E c {} begun →
      (¬(c.a1.toNat < 16 ∧ s.qmapOk c.tvi c.a2 = true) → Refuses (exec (.setQmap c) s) s c 2) ∧
      (c.a1.toNat < 16 → s.qmapOk c.tvi c.a2 = true → ∃ old, v.tables.handles.toList[c.a1.toNat]? = some old ∧
        Answers (exec (.setQmap c) s) c 0 (some old.word) fun u =>
          ∀ k, (u.vi c.tvi).tables.handles.toList[k]? =
            if k = c.a1.toNat then some (QEntry.ofWord c.a2) else v.tables.handles.toList[k]?)) ∧
    (Issued s 0x1F c {} begun →
      let area := fun (k : Nat) => renumber v.trap.saves.toNat c.a3.toNat saveAreaSize c.a4.toNat k
      let unit_ := fun (k : Nat) => renumber v.trap.pool.toNat c.a5.toNat 0x80000 c.a6.toNat k
      let kept := (v.trap.used.all fun k => (area k).isSome) && v.trap.units.all fun k => (unit_ k).isSome
      (s.trapConfOk c = false → Refuses (exec (.setTrap c) s) s c 2) ∧
      (s.trapConfOk c = true → kept = false → Refuses (exec (.setTrap c) s) s c 5) ∧
      (s.trapConfOk c = true → kept = true → Answers (exec (.setTrap c) s) c 0 none fun u => u.phys = s.phys ∧
        (u.vi c.tvi).trap = { vector := c.a1, tdeleg := c.a2, saves := c.a3, nsave := c.a4.toNat, pool := c.a5,
                              npool := c.a6.toNat, used := v.trap.used.filterMap area,
                              units := v.trap.units.filterMap unit_ } ∧
        ∀ h, (u.hart h).core = (s.hart h).core ∧ (u.hart h).sys = (s.hart h).sys))

/-- From R389, R391, R397–R399, R427, R428, R430, R432, R435, R438, R456: commands on the module at their turn, and the
creation and removal of a VF's VI. IDENTIFY, ATTEST, BOOT_RECORD and READ_ERRORS write their buffers; READ_COUNTERS sets the
cores' selectors and copies their counters; TRACE_START and TRACE_STOP switch a trace; SET_POWER_CAP sets the caps;
SHEET_CONFIG gives a VI its sheet window; DEBUG writes a stop register. RESET_VI frees a VI's harts, queues and keys, and
waits until they can stop. Where the rules leave a point open it states the choice of the model: notes/assumptions/71.md,
notes/assumptions/76.md, notes/assumptions/77.md, notes/assumptions/78.md, notes/assumptions/84.md, notes/assumptions/85.md
and notes/assumptions/161.md. -/
def Obligations.CommandsOnModule : Prop :=
  (∀ (s : State) (c : Cmd) (begun : Bool),
    let v := s.vi c.tvi
    let same := fun (t u : State) => u = t
    let writes := fun (i : Instr) (bs : List Byte) (r : Option Word) (P : State → State → Prop) =>
      (s.bufWrite c.vi c.a1 bs = none → Refuses (exec i s) s c 3) ∧
      ∀ t, s.bufWrite c.vi c.a1 bs = some t → Answers (exec i s) c 0 r (P t)
    (Issued s 0x01 c { safe := true } begun →
      writes (.identify c) (s.identity c.tvi) (some (if s.stepping = .a0 then 0 else 1)) same) ∧
    (∀ bs t, Issued s 0x02 c {} begun → s.bufRead c.vi c.a1 c.a2.toNat = (some bs, t) →
      let R := spdmReply t.fresh (t.measurements c.tvi) (t.vi c.tvi).spdm bs
      let r := R.1
      let u0 := { t with fresh := t.fresh + 1 }
      (c.a4.toNat < r.length → Answers (exec (.attest c) s) c 0x10 none (same u0)) ∧
      ∀ w, r.length ≤ c.a4.toNat → u0.bufWrite c.vi c.a3 r = some w →
        Answers (exec (.attest c) s) c 0 (some (BitVec.ofNat 64 r.length)) (same (w.modVi c.tvi fun v => { v with spdm := R.2 }))) ∧
    (Issued s 0x0E c { wide := true, pf := true } begun →
      (¬(600 ≤ c.a1.toNat ∧ c.a1.toNat ≤ 2100) → Refuses (exec (.setPowerCap c) s) s c 2) ∧
      (600 ≤ c.a1.toNat → c.a1.toNat ≤ 2100 → Answers (exec (.setPowerCap c) s) c 0 (some c.a1) fun u =>
        u.fw.modCap = c.a1.toNat ∧ u.phys = s.phys ∧ ∀ d < 8, (u.die d).cap =
          if bitsOf c.a2 (8 * d + 7) (8 * d) = 0 then none else some (2 * bitsOf c.a2 (8 * d + 7) (8 * d)))) ∧
    (Issued s 0x16 c { reset := true } begun →
      (s.canStop c.tvi = false → Waits (exec (.resetVi c) s) s fun t => (t.vi c.tvi).active = false ∧ t.harts = s.harts) ∧
      (s.canStop c.tvi = true → Answers (exec (.resetVi c) s) c 0 none fun u =>
        let w := u.vi c.tvi
        w.exists_ = true ∧ w.active = true ∧ w.tables = ViTables.reset ∧ w.spaces = [] ∧ w.poolLen = 0 ∧ w.ctxs = [] ∧
        w.hbudget = 256 ∧ w.trap = TrapConf.reset ∧ w.trace = none ∧ w.cmdqs = v.cmdqs ∧
        (∀ h, isFirmwareHart h = false → (s.hart h).core.st ≠ .free → (s.hart h).who.vi.toNat = c.tvi → u.hart h = Hart.reset) ∧
        (∀ n q, tfind u.queues n = some q → q.vi ≠ c.tvi) ∧ (∀ n k, tfind u.fw.keys n = some k → k.vi ≠ c.tvi) ∧
        (∀ p ∈ u.phys.pins, p.2.vi ≠ c.tvi) ∧
        ∀ core b, (tget Owner.reset (u.core core).owners b).v = true →
          (tget Owner.reset (u.core core).owners b).vi.toNat ≠ c.tvi)) ∧
    (∀ bs t, Issued s 0x17 c {} begun → (∀ k < 4, bitsOf c.a3 (16 * k + 15) (16 * k + 8) = 0) →
      s.bufRead c.vi c.a2 128 = (some bs, t) →
      let sel := fun (j : Nat) => BitVec.ofNat 64 (bitsOf c.a3 (16 * j + 7) (16 * j) + c.tvi * 2 ^ 16 + 2 ^ 23)
      let set := (coreMask bs).foldl (fun (u : State) k => (List.range 4).foldl (fun (u : State) j =>
        u.windowPut (dieOfCore k) (0x101000 + 128 * (k % 128) + 8 * j) (sel j)) u) t
      let counts := (coreMask bs).flatMap fun k => (t.core k).events.toList.flatMap fun e => leBytes 8 e.count.toNat
      (set.bufWrite c.vi c.a1 counts = none → Answers (exec (.readCounters c) s) c 3 none (fun u => { u with fresh := t.fresh } = t)) ∧
      (∀ w, set.bufWrite c.vi c.a1 counts = some w →
        Answers (exec (.readCounters c) s) c 0 (some (BitVec.ofNat 64 (32 * (coreMask bs).length))) (same w)) ∧
      { set with cores := t.cores } = t ∧
      ∀ k ∈ coreMask bs, ∀ j < 4, ∀ e f, (t.core k).events.toList[j]? = some f → (set.core k).events.toList[j]? = some e →
        e.count = f.count ∧ e.vien = true ∧ e.vi.toNat = c.tvi ∧
          e.event.toNat = if bitsOf c.a3 (16 * j + 7) (16 * j) ≤ 0x10 then bitsOf c.a3 (16 * j + 7) (16 * j) else 0) ∧
    (Issued s 0x17 c {} begun → (∃ k < 4, bitsOf c.a3 (16 * k + 15) (16 * k + 8) ≠ 0) → Refuses (exec (.readCounters c) s) s c 2) ∧
    (Issued s 0x18 c {} begun →
      let ok := 12 ≤ c.a2.toNat ∧ c.a2.toNat ≤ 30 ∧ 1 ≤ c.a5.toNat ∧ c.a5.toNat ≤ 2 ^ 20
      (¬ok → Refuses (exec (.traceStart c) s) s c 2) ∧
      (ok → v.trace.isSome = true → Refuses (exec (.traceStart c) s) s c 5) ∧
      ∀ bs t w, ok → v.trace = none → s.bufRead c.vi c.a3 128 = (some bs, t) → t.bufWrite c.vi c.a1 (leBytes 8 0) = some w →
        Answers (exec (.traceStart c) s) c 0 none fun u => u.phys = w.phys ∧ (u.vi c.tvi).trace = some
          { owner := c.vi, buf := c.a1, logb := c.a2.toNat, cores := coreMask bs, kinds := c.a4, period := c.a5.toNat, widx := 0 }) ∧
    (Issued s 0x19 c {} begun → Answers (exec (.traceStop c) s) c 0 (v.trace.map fun t => t.widx) fun u =>
      u.vi c.tvi = { v with trace := none } ∧ ∀ k, k ≠ c.tvi → u.vi k = s.vi k) ∧
    (Issued s 0x1A c { wide := true, pf := true } begun →
      (64 ≤ c.a1.toNat → Refuses (exec (.sheetConfig c) s) s c 2) ∧
      (c.a1.toNat < 64 → s.sheetBusy = true → Refuses (exec (.sheetConfig c) s) s c 5) ∧
      ∀ bs t, c.a1.toNat < 64 → s.sheetBusy = false → s.bufRead c.vi c.a2 128 = (some bs, t) →
        Answers (exec (.sheetConfig c) s) c 0 none fun u =>
          ∃ x, (u.fw.sheets.find? fun y => y.vi == c.tvi) = some x ∧ x.number = c.a1.toNat ∧ x.base = c.a3 ∧ x.length = c.a4 ∧
            x.routes = (List.range 64).map fun k => BitVec.ofNat 16 (leNat ((bs.drop (2 * k)).take 2))) ∧
    (Issued s 0x1B c { wide := true, safe := true } begun →
      (2 ≤ c.a2.toNat → Refuses (exec (.bootRecord c) s) s c 2) ∧
      (c.a2 = 1 → c.vi % 64 ≠ 0 → Refuses (exec (.bootRecord c) s) s c 4) ∧
      (c.a2 = 0 → writes (.bootRecord c) s.fw.boot.bytes none same) ∧
      (c.a2 = 1 → c.vi % 64 = 0 → writes (.bootRecord c) s.fw.boot.bytes none fun t u => u.phys = t.phys ∧
        u.fw.boot.recovery = false ∧ u.fw.boot.boots = t.fw.boot.boots ∧ u.fw.flash = u.fw.boot ∧ ∀ k, u.fw.boot.entry k = (0, false, 0))) ∧
    (Issued s 0x1C c { wide := true, pf := true } begun →
      (8192 ≤ c.a1.toNat → Refuses (exec (.debug c) s) s c 2) ∧
      (c.a1.toNat < 8192 →
        let q := (s.hart c.a1.toNat).irq
        Answers (exec (.debug c) s) c 0 (some ((if q.stopReg then 1 else 0) + (if q.stepReg then 2 else 0))) fun u =>
          exec (.stopRegisterWrite c.a1.toNat c.a2) s = .next u)) ∧
    (Issued s 0x1D c {} begun →
      let die := c.a2.getLsbD 1
      let ok := c.a2.toNat < 4 ∧ (die = true → c.a3.toNat < 8)
      (¬ok → Refuses (exec (.readErrors c) s) s c 2) ∧
      (ok → die = true → c.vi % 64 ≠ 0 → Refuses (exec (.readErrors c) s) s c 4) ∧
      (ok → die = true → c.vi % 64 = 0 → writes (.readErrors c) (s.dieRecords c.a3.toNat) (some 32832) same) ∧
      (ok → die = false → writes (.readErrors c) v.errs.bytes (some 2112) fun t u => u.phys = t.phys ∧
        (c.a2.getLsbD 0 = false → u = t) ∧ (c.a2.getLsbD 0 = true → (u.vi c.tvi).errs = { (t.vi c.tvi).errs with
          counts := [], ring := [] })))) ∧
  (∀ (s : State) (port n : Nat), port < 2 → 1 ≤ n → n < 64 →
    let k := 64 * port + n
    s.portUp (64 * port) = true →
    ((s.vi k).exists_ = false → Becomes (exec (.vfEnable port n) s) fun t => (∀ j, j ≠ k → t.vi j = s.vi j) ∧
      t.harts = s.harts ∧ t.phys = s.phys ∧ let w := t.vi k
      w.exists_ = true ∧ w.active = true ∧ w.hbudget = 256 ∧ w.pinquota = 0 ∧ w.tables = ViTables.reset ∧ w.spaces = [] ∧
        w.serialnext = 0 ∧ w.serialfloor = 0) ∧
    ((s.vi k).exists_ = true → s.canStop k = true → Becomes (exec (.vfDisable port n) s) fun t => (t.vi k).exists_ = false ∧
      (∀ h, isFirmwareHart h = false → (s.hart h).core.st ≠ .free → (s.hart h).who.vi.toNat = k → t.hart h = Hart.reset) ∧
      (∀ j q, tfind t.queues j = some q → q.vi ≠ k) ∧ ∀ j y, tfind t.fw.keys j = some y → y.vi ≠ k) ∧
    ((s.vi k).exists_ = true → s.canStop k = false → Becomes (exec (.vfDisable port n) s) fun t =>
      t.vi k = { s.vi k with active := false } ∧ t.harts = s.harts)) ∧
  ∀ (s : State) (port : Nat) (request : List Byte), port < 2 →
    let st := tget .idle s.fw.spdm port
    let R := spdmReply s.fresh (s.measurements (64 * port)) st request
    let keys := st = .session ∧ spdmCode (request.getD 1 0).toNat = none
    (s.fw.ready = false ∨ s.portUp (64 * port) = false → exec (.spdmOverDoe port request) s = .next s) ∧
    (s.fw.ready = true → s.portUp (64 * port) = true → Becomes (exec (.spdmOverDoe port request) s) fun t =>
      t.harts = s.harts ∧ t.phys = s.phys ∧ t.fw.log = s.fw.log ∧
      (¬keys → tfind t.fw.doe port = some R.1 ∧ tfind t.fw.spdm port = some R.2 ∧ t.vis = s.vis) ∧
      (keys → (tfind t.fw.doe port).isSome ∧ tget .idle t.fw.spdm port = st ∧
        ∀ v, { t.vi v with tdiRun := (s.vi v).tdiRun, ide := (s.vi v).ide } = s.vi v))

/-- From R305–R314, R320–R328, R362–R372, R7, R190, R202, R423–R429, R434, R435: each event of the mesh distributor, the
reprojection agent, the blend units, the builder, the power controller, the boot sequence, the functions, the command queues
and the registers answers a next state that holds its own effect, under conditions on the state and on the event's fields
alone: PRIMITIVE_RECORD, DISTRIBUTOR_SETUP, DISTRIBUTOR_FLUSH, DISTRIBUTOR_FENCE, DISTRIBUTOR_CLOSE,
DISTRIBUTOR_FENCE_COUNT, BUFFER_FULL_RESUME, TILE_POST, PASS_END, REPROJECTION_SETUP, BLOCK_REQUEST, BLEND_REQUEST,
TICKET_COMMIT; BUILD, REFIT, REBALANCE, PUBLISH, RETIRE, QUERY; POWER_INTERVAL, POWER_CAP_OVERRUN, POWER_ON_RESET,
VF_ENABLE, VF_DISABLE; COMMAND_DOORBELL, CQBASE_WRITE, RDCWAYS_WRITE, OWNERSHIP_WRITE, REGISTER_WRITE. Where the rules leave
a point open it states the choice of the model: notes/assumptions/50.md, notes/assumptions/70.md, notes/assumptions/78.md,
notes/assumptions/79.md, notes/assumptions/94.md, notes/assumptions/97.md, notes/assumptions/99.md, notes/assumptions/100.md
and notes/assumptions/161.md. -/
def Obligations.AgentEventsComplete : Prop :=
  (∀ (s : State) (die vi : Nat) (r : BitVec 512) (l : List (BitVec 512 × Bool)), die < 8 → vi < 128 →
    let d := s.dist die vi
    let recs := fun (t : State) (p : Nat) => (t.port die vi p).recs
    let first := d.busy = false ∧ recs s 0 = (r, false) :: l
    (∀ r2 rest u, first → l = (r2, false) :: rest → d.setup = some u → (recWord r 0).toNat = 2 →
      (recWord r 1).getLsbD 31 = false → (recWord r 3).toNat / 2 ^ 32 = 0 →
        ∃ t, exec (.primitiveRecord die vi) s = .next t ∧ recs t 0 = rest ∧ d.culled ≤ (t.dist die vi).culled) ∧
    (∀ u, first → (recWord r 0).toNat % 256 = 1 → distSetup r = some u →
      ∃ t, exec (.distributorSetup die vi) s = .next t ∧ recs t 0 = l ∧ (t.dist die vi).setup = some u) ∧
    (first → r.toNat = 3 →
      ∃ t, exec (.distributorFlush die vi) s = .next t ∧ recs t 0 = l ∧ (t.dist die vi).tiles = []) ∧
    (first → (recWord r 0).toNat = 4 → (recWord r 1).toNat % 8 = 0 → r.toNat / 2 ^ 128 = 0 →
      ∃ t, exec (.distributorFence die vi) s = .next t ∧ recs t 0 = l ∧ (t.dist die vi).tiles = [] ∧
        (t.dist die vi).fences.map Prod.fst = d.fences.map Prod.fst ++ [recWord r 1]) ∧
    (first → r.toNat = 5 → d.tiles = [] → d.passes = [] →
      ∃ t, exec (.distributorClose die vi) s = .next t ∧ recs t 0 = l ∧ (t.port die vi 1).closed = true) ∧
    (∀ a rest, d.fences = (a, []) :: rest → s.acked = true →
      ∃ t, exec (.distributorFenceCount die vi) s = .next t ∧ (t.dist die vi).fences = rest) ∧
    (∀ u, d.setup = some u → d.stalled = true → d.work = [] → d.passes = [] → d.freeChunks ≠ [] →
      ∃ t, exec (.bufferFullResume die vi) s = .next t ∧ (t.dist die vi).stalled = false) ∧
    (∀ p, d.passes = [p] → p.posted = false → (recs s 1).length < 256 →
      ∃ t, exec (.tilePost die vi p.tx p.ty) s = .next t ∧ (t.dist die vi).passes = [{ p with posted := true }] ∧
        (recs t 1).length = (recs s 1).length + 1) ∧
    (∀ p, d.passes = [p] → p.posted = true → p.tickets = none → p.commits = 0 → recs s 5 = (r, false) :: l →
      recWord r 0 = BitVec.ofNat 64 (p.tag.toNat + 2 ^ 32) → recZero r 1 = true →
        ∃ t, exec (.passEnd die vi) s = .next t ∧ recs t 5 = l ∧ (t.dist die vi).passes = [{ p with tickets := some 1 }]) ∧
    (∀ u, recs s 2 = (r, false) :: l → recType r = 1 → reprSetup r = some u →
      ∃ t, exec (.reprojectionSetup die vi) s = .next t ∧ recs t 2 = l ∧ tfind (t.die die).repr vi = some u) ∧
    (∀ r1 r2 r3 rest u, recs s 2 = (r, false) :: l → l = (r1, false) :: (r2, false) :: (r3, false) :: rest → recType r = 2 →
      blockClean r = true → tfind (s.die die).repr vi = some u → (∀ k, (s.slice k).blend = []) → recs s 3 = [] →
        ∃ t k q, exec (.blockRequest die vi) s = .next t ∧ recs t 2 = rest ∧ (t.slice k).blend = [q] ∧ q.vi = vi ∧
          q.ticket = (recWord r 1).setWidth 48 ∧ q.shader = none) ∧
    (∀ x unit_ q, recs s 4 = (r, false) :: l → l = [(x, false)] → (recWord r 0).toNat = 2 * 2 ^ 24 + 0xFFFF → recZero r 3 = true →
      bitsOf (recWord r 1) 63 48 = 0 → s.ticketUnit vi ((recWord r 1).setWidth 48) = some (unit_, q) → q.shader = none →
        ∃ t, exec (.blendRequest die vi) s = .next t ∧ recs t 4 = [] ∧
          ∀ p ∈ (t.slice unit_).blend, p.vi = vi → p.ticket = q.ticket → p.shader.isSome = true) ∧
    ∀ slice ticket q, slice < 512 → (s.slice slice).blend.find? (fun q => q.vi == vi && q.ticket == ticket) = some q →
      q.complete = true → ticket.toNat % 65536 = s.seqDue vi ticket →
        ∃ t, exec (.ticketCommit slice vi ticket) s = .next t ∧ t.seqDue vi ticket = ticket.toNat % 65536 + 1 ∧
          ∀ q ∈ (t.slice slice).blend, q.vi ≠ vi ∨ q.ticket ≠ ticket) ∧
  (∀ (s : State) (die vi k : Nat) (c : BuildCmd), die < 8 → vi < 128 → c.clean = true →
    let e := (s.vi vi).as c.as_
    let next := fun (op : Nat) => c.op = op ∧ e.v = true ∧ c.fieldsOk e.kind = true ∧
      s.buildNext die vi k (fun _ => true) = some c
    let room := fun (count : Nat) => tfind e.slots 4 = none ∧
      pageEstimate count e.kind ≤ (e.pool.filter fun p => !e.usedPages.contains p).length
    let gathers := fun (ids : List Nat) => (State.gather (s.builderWho die vi c) c e.kind ids [] 0 s).1.isOk = true
    let left := fun (t : State) => (t.builderQ die vi).cmds = (s.builderQ die vi).cmds.eraseIdx k
    let source := e.source c
    let staged := fun (t : State) => left t ∧ (tfind ((t.vi vi).as c.as_).slots 4).map Generation.gen = some e.nextgen
    (next 1 → room c.count → gathers (List.range c.count) → ∃ t, exec (.build die vi k) s = .next t ∧ staged t) ∧
    (∀ g, next 2 → room c.count → source = some g → c.count = g.count →
      gathers (if e.kind then g.insts.map InstPrim.index else g.tris.map TriPrim.index) →
        ∃ t, exec (.refit die vi k) s = .next t ∧ staged t) ∧
    (∀ g, next 3 → room g.count → source = some g → ∃ t, exec (.rebalance die vi k) s = .next t ∧ staged t) ∧
    (∀ g, next 4 → tfind e.slots 4 = some g → (∃ j < 4, tfind e.slots j = none) →
      ∃ t, exec (.publish die vi k) s = .next t ∧ left t ∧ ((t.vi vi).as c.as_).cur = g.gen ∧
        ((t.vi vi).as c.as_).hascur = true) ∧
    (∀ g, next 5 → c.usecur = false → tfind e.slots 4 = some g → g.gen = c.gen →
      ∃ t, exec (.retire die vi k) s = .next t ∧ left t ∧ tfind ((t.vi vi).as c.as_).slots 4 = none) ∧
    ∀ g, next 6 → source = some g → ∃ t, exec (.query die vi k) s = .next t ∧ left t ∧
      ((t.vi vi).as c.as_).slots = e.slots) ∧
  (∀ (s : State) (die : Nat) (power : List Nat) (fails : List BootFailure) (v : Word), die < 8 →
    (∃ t, exec (.powerInterval die power) s = .next t ∧
      ∀ n < 64, ((t.die die).island n).power.toNat = min (power.getD n 0) 0xFFFF) ∧
    (100 ≤ (s.die die).overcap → ∃ t, exec (.powerCapOverrun die (s.die die).measured) s = .next t ∧
      t.fw.msix = s.fw.msix ++ [(0, 31), (64, 31)]) ∧
    (∃ t, exec (.powerOnReset fails) s = .next t ∧ t.harts = [] ∧ t.phys.dram = [] ∧ t.queues = []) ∧
    (v.toNat % 16 ≤ 8 → ∃ t, exec (.rdcwaysWrite die v) s = .next t ∧ (t.die die).rdcways = BitVec.ofNat 4 v.toNat)) ∧
  (∀ (s : State) (port n : Nat), port < 2 → 1 ≤ n → n < 64 →
    let k := 64 * port + n
    s.portUp (64 * port) = true →
    ((s.vi k).exists_ = false → ∃ t, exec (.vfEnable port n) s = .next t ∧ (t.vi k).exists_ = true) ∧
    ((s.vi k).exists_ = true → s.canStop k = true → ∃ t, exec (.vfDisable port n) s = .next t ∧ (t.vi k).exists_ = false)) ∧
  ∀ (s : State) (vi cq core block : Nat) (tail v : BitVec 32) (w : Word), vi < 128 → cq < 4 → core < 1024 → block < 256 →
    let q := (s.vi vi).cmdq cq
    let hears := s.portUp vi = true ∧ (s.vi vi).tdiRun = false
    (hears → s.queueOpen vi cq = true → q.ready = true → (0#32).slt (tail - q.tail) = true →
      ∃ t, exec (.commandDoorbell vi cq tail) s = .next t ∧ ((t.vi vi).cmdq cq).tail = tail) ∧
    (hears → (s.vi vi).exists_ = true →
      (∃ t, exec (.cqbaseWrite vi cq w) s = .next t ∧ (t.vi vi).cmdq cq = { q with base := w, head := 0, tail := 0, done := 0 }) ∧
      ∃ t, exec (.registerWrite (.bar vi (0x1008 + 0x20 * cq) 8) w) s = .next t ∧ (t.vi vi).cmdq cq = { q with cpl := w }) ∧
    (s.copyUses core block = false → ∃ t, exec (.ownershipWrite core block .firmware v) s = .next t ∧
      tget Owner.reset (t.core core).owners block = { exp := v.getLsbD 9, v := v.getLsbD 8, vi := v.setWidth 7 })
/-! ## Decoding, steps, reset and what every step keeps -/

/-- From R46-R53: for every well-formed instruction that is fetched, the decoder reads back from its word the instruction
itself with every operand; and a word that the decoder accepts is the word of the well-formed instruction it gives. -/
def Obligations.DecodeEncodeAgree : Prop :=
  (∀ (i : Instr) (w : BitVec 128), i.wf = true → encode i = some w → decode w = .ok i) ∧
  ∀ (w : BitVec 128) (i : Instr), decode w = .ok i → encode i = some w ∧ i.wf = true

/-- Words written out from the spec's own examples (spec/02_encoding.md, 05, 06, 07, 09, 11, 12) decode to the instructions
they stand for; one of an OPC that no mnemonic has, and one with a reserved field set, do not decode. -/
def Obligations.DecodedWords : Prop :=
  let word := fun (imm low : BitVec 64) => imm ++ low
  decode (word 0 0x000000C918510140) = .ok (.vadd 4 5 (.vec 6) (.off 9)) ∧
  decode (word 0xFFFFFFFFFFFFFFFD 0x0000000000614004) = .ok (.addi 5 6 0xFFFFFFFFFFFFFFFD) ∧
  decode (word 0 0x000000002CA24C09) = .ok (.div 9 10 11 3) ∧
  decode (word 2 0x0000000000500089) = .ok (.loop 5 2) ∧
  decode (word 3 0x0014000000A00285) = .ok (.qPush 5 10 3 0) ∧
  decode (word 0 0x000000000001C281) = .ok (.cpSeal 7 0) ∧
  decode (word 0 0x0000000000000345) = .ok .sret ∧
  decode (word 0 0x00000000000000A0) = .illegal ∧
  decode (word 0 0x0000000000000340 ||| (1#128 <<< 20)) = .reserved

/-- From R36, R47, R48, R55, R58, Table 02.2: at its turn, with nothing due before it, a hart outside a gang runs the
instruction at its pc: a pc that is no multiple of 16 and a fetch that fails trap, a word that does not decode traps ILLEGAL
or RSVD_FIELD with its low word, and the instruction of a word that decodes waits until the windows that end there have
landed. It then reports the error that one of them left, waits for an atomic that holds it back, or is executed; one that
enters the vector unit with a charge is executed when its core's sequencer grants it a strip. The word is the first of the
line fetched at the pc when the hart holds none, it has room in the VIQ and no other hart of its core takes a turn of the
front-end; with no room it waits. What g registers hold by a read of memory is noted as the instruction completes
(State.depend). An agenda that begins with a turn gives it to that hart, and one that begins with an event performs it.
Where the rules leave a point open it states the choice of the model: notes/assumptions/1.md, notes/assumptions/4.md,
notes/assumptions/66.md, notes/assumptions/67.md, notes/assumptions/143.md, notes/assumptions/151.md,
notes/assumptions/152.md and notes/assumptions/158.md. -/
def Obligations.StepRunsDecoded : Prop :=
  (∀ (s : State),
    let x := s.me
    let pc := x.core.pc
    s.agenda = [] → x.core.st = x.runSt → x.core.st ≠ .free → isFirmwareHart s.cur = false → x.served = false →
    s.before s.cur = none → x.gang = none → x.irq.split = none →
      (pc.toNat % 16 ≠ 0 → Traps (step s) s .ifetchAlign pc) ∧
      (x.fetched = [] → (∀ k ∈ hartsOf (coreOf s.cur), k ≠ s.cur → s.fetches k = false) →
        (s.viqRoom s.cur = 0 → s.nextWord.1 = none) ∧
        ∀ w ws u, 0 < s.viqRoom s.cur → s.fetch s.cur pc = (.ok (w :: ws), u) → u.me.ahead = [] → u.me.core.pc = pc →
          0 < u.viqRoom s.cur → s.nextWord.1 = some (.ok w)) ∧
      ∀ r u, pc.toNat % 16 = 0 → s.nextWord = (r, u) →
        (r = none → step s = .next u) ∧
        (∀ c, r = some (.error c) → Traps (step s) u c pc) ∧
        ∀ w, r = some (.ok w) →
          (decode w = .illegal → Traps (step s) u .illegal (w.setWidth 64)) ∧
          (decode w = .reserved → Traps (step s) u .rsvdField (w.setWidth 64)) ∧
          ∀ i, decode w = .ok i →
            (u.me.counting = none → step s = if u.waitDue i then u.waitPoll else .next u) ∧
            ∀ y, u.me.counting = some y →
              let z := u.setMe y
              (∀ p, y.dueError = some p → Traps (step s) z p.cause.toCause p.addr) ∧
              (y.dueError = none → z.atomicHolds i (classOf w) = true → step s = .next z) ∧
              (y.dueError = none → z.atomicHolds i (classOf w) = false →
                (viqClass (classOf w) = false → step s = z.depend i (classOf w) (exec i z)) ∧
                (viqClass (classOf w) = true → ∀ n t, z.measured i = (n, .next t) →
                  (n = 0 → step s = z.depend i (classOf w) (.next t)) ∧
                  (n ≠ 0 → z.grant z.cur n = none → step s = .next z) ∧
                  ∀ c, n ≠ 0 → z.grant z.cur n = some c →
                    step s = z.depend i (classOf w) (.next (t.setArbiter (coreOf z.cur) c))))) ∧
  ∀ (s : State) (rest : List Act),
    (∀ h, s.agenda = .turn h :: rest → h < 8192 → step s = State.turn { s with agenda := rest, cur := h }) ∧
    (∀ i, s.agenda = .ev i :: rest → encode i = none → step s = exec i { s with agenda := rest }) ∧
    (∀ i w, s.agenda = .ev i :: rest → encode i = some w → step s = .next { s with agenda := rest })

/-- From R1, R15, R28, R73, R428-R431 and Table 03.3: the module right after reset. Every task hart is FREE in mode U, and a
firmware hart waits in mode M, with every register that the spec gives a task-entry value at that value, the vector state is
empty, DRAM reads 0, the VIs of the two PFs exist with their creation values and no other VI does. The zeros of g registers,
of the pc, of lane memory and of slice scratch before anything is dispatched are the model's choice
(notes/assumptions/2.md), and so are BOOTS = 1 and PCIe ports that trained in full (notes/assumptions/9.md). -/
def Obligations.ResetValues : Prop :=
  let s := State.reset
  (∀ h, let x := s.hart h
    (isFirmwareHart h = false → x.core.st = .free ∧ x.core.mode = .u) ∧
    (isFirmwareHart h = true → x.core.st = .waiting .wfi ∧ x.core.mode = .m) ∧ (∀ r, x.readG r = 0) ∧ x.core.pc = 0 ∧ x.core.fflags = 0 ∧ x.G = 0 ∧
    x.core.vs.cfg = { vl := 0, rm := .rne, sc := 1, grp := 0, ew := .e32 } ∧ x.core.vs.em = BitVec.allOnes 16384 ∧
    x.core.vs.mstack = [] ∧ x.core.vs.vstart = 0 ∧ x.core.vs.binds = [] ∧ (∀ r, x.core.vs.reg r = 0) ∧
    (∀ q, (x.set q).isOpen = false) ∧ (∀ k, (x.core.vs.slot k).v = false) ∧ x.core.loop = { lpc := 0, lcnt := 0, lend := 0 } ∧
    x.sys.strap.migen = true ∧ x.sys.strap.ie = false ∧ x.windows = [] ∧ x.frames = [] ∧ x.fetched = [] ∧ x.gang = none ∧ x.inval = none) ∧
  (∀ c, let k := s.core c
    (∀ a, k.lane.read a = 0) ∧ k.mat.claim = none ∧ (∀ b, (tget Owner.reset k.owners b).v = false) ∧ k.tlb = [] ∧
    k.itlb = [] ∧ k.banks = [] ∧ k.l1 = [] ∧ k.icache = [] ∧ k.resv = [] ∧ k.deficit = [] ∧ k.serving = []) ∧
  (∀ k, (∀ a, (s.slice k).scratch.read a = 0) ∧ (s.slice k).msgs = []) ∧
  (∀ a, s.phys.dram.read a = 0) ∧ s.phys.pins = [] ∧ s.phys.poison = [] ∧
  (∀ v, ((s.vi v).exists_ = true ↔ v = 0 ∨ v = 64) ∧ (s.vi v).hbudget = 256 ∧ (s.vi v).pinquota = 0 ∧
    (s.vi v).serialnext = 0 ∧ (s.vi v).serialfloor = 0 ∧ (s.vi v).spaces = []) ∧
  (∀ d, (s.die d).rdcways = 0 ∧ (∀ n < 32, ((s.die d).island n).reef = 16 ∧ ((s.die d).island n).gated = false)) ∧ s.queues = [] ∧ s.fw.keys = [] ∧
  s.net.entries = [] ∧ s.net.atms = [] ∧ s.net.stores = [] ∧ (∀ l ∈ s.net.links.toList, l.up = true) ∧
  s.fw.pcie = List.replicate 2 { up := true, rate := 64, lanes := 8 } ∧ s.fw.ready = true ∧ s.fw.boot.boots = 1 ∧ s.fw.boot.recovery = false ∧ s.agenda = []

/-- The memories of the module right after reset are in canonical form (notes/assumptions/2.md): they list nothing. -/
def Obligations.MemoryCanonicalAtReset : Prop := Canonical State.reset

/-- Every step keeps the canonical form of every memory: DRAM, the host's memories, lane memory and slice scratch. Where the
rules leave a point open it states the choice of the model: notes/assumptions/2.md. -/
def Obligations.MemoryCanonicalKept : Prop := ∀ s t, Canonical s → step s = .next t → Canonical t

/-- R62, R71: the assigned opcodes of classes 0x0 to 0xD are of class P; those of class 0xE are vmld, vmst and bmsk, of
class D with removal generation 11; those of class 0xF are mma.s48 and rq.sort, of class X for stepping B0, and trap
LIFETIME on A0. 789 values of OPC are not assigned, and a word of one of them is ILLEGAL. -/
def Obligations.LifetimeClasses : Prop :=
  (∀ (i : Instr) (w : BitVec 128), encode i = some w →
    let n := w.toNat % 1024
    let e := lifetimeEntry n
    (n / 64 ≤ 0xD ↔ e / 2 ^ 29 % 4 = 0) ∧ (n / 64 = 0xE ↔ e / 2 ^ 29 % 4 = 1 ∧ e / 2 ^ 16 % 2 ^ 8 = 11) ∧
    (n / 64 = 0xF ↔ e / 2 ^ 29 % 4 = 2 ∧ e / 2 ^ 8 % 4 = 2) ∧ e / 2 ^ 31 = 1 ∧
    (n / 64 = 0xE ↔ (∃ t a b imm la, i = .vmld t a b imm la) ∨ (∃ t a b imm la, i = .vmst t a b imm la) ∨
      ∃ d a m, i = .bmsk d a m) ∧
    (n / 64 = 0xF ↔ (∃ sat t a slot panel row0 la, i = .mmaS48 sat t a slot panel row0 la) ∨ ∃ q d m la, i = .rqSort q d m la)) ∧
  (∀ w : BitVec 128, lifetimeEntry (w.toNat % 1024) = 0 ↔ decode w = .illegal) ∧
  ((List.range 1024).filter fun n => lifetimeEntry n == 0).length = 789 ∧
  ∀ (s : State) (i : Instr), s.stepping = .a0 →
    ((∃ sat t a slot panel row0 la, i = .mmaS48 sat t a slot panel row0 la) ∨ ∃ q d m la, i = .rqSort q d m la) →
      Traps (exec i s) s .lifetime (lowWord i)

/-- R74, Table 03.2: crr, crw, crset and crclr with a number that the table does not assign raise RSVD_FIELD at decode, with
the low word of the instruction in TVAL; with an assigned number they decode. -/
def Obligations.ControlRegisterNumbers : Prop :=
  let assigned := fun (n : Nat) => n = 0x008 ∨ n = 0x00A ∨ (0x00C ≤ n ∧ n ≤ 0x00E) ∨ (0x010 ≤ n ∧ n ≤ 0x014) ∨
    (0x018 ≤ n ∧ n ≤ 0x01A) ∨ (0x020 ≤ n ∧ n ≤ 0x024) ∨ (0x028 ≤ n ∧ n ≤ 0x02B) ∨ n = 0x030 ∨ n = 0x038 ∨
    (0x040 ≤ n ∧ n ≤ 0x049) ∨ (0x050 ≤ n ∧ n ≤ 0x052) ∨ (0x060 ≤ n ∧ n ≤ 0x062) ∨ (0x070 ≤ n ∧ n ≤ 0x07B) ∨
    (0x080 ≤ n ∧ n ≤ 0x087) ∨ (0x090 ≤ n ∧ n ≤ 0x09F)
  (∀ (w : BitVec 128) (s : State), w.extractLsb' 0 10 ∈ [0x340#10, 0x341#10, 0x342#10, 0x343#10] →
    ¬assigned (w.extractLsb' 64 12).toNat → decode w = .reserved ∧ Traps (s.runWord w) s .rsvdField (w.setWidth 64)) ∧
  ∀ (d a : Reg) (cr : BitVec 12), assigned cr.toNat → ∀ i ∈ [Instr.crr d cr, .crw d a cr, .crset d a cr, .crclr d a cr],
    ∃ w, encode i = some w ∧ decode w = .ok i
end

