-- ==== Sys2Proof/Laws/State.lean ====
section
/-! SUPPORT. What each update of a part of the state leaves in each field: true by unfolding, so that no proof unfolds a
record update. -/

namespace Sys2Proof.Machine

open Sys2Proof

/-! ## Tables -/

@[simp] theorem tget_tset_same {α : Type} (d : α) (t : Tab α) (k : Nat) (x : α) : tget d (tset t k x) k = x := by
  induction t with
  | nil => simp [tset, tget]
  | cons e t ih =>
    obtain ⟨j, y⟩ := e
    simp only [tset]
    split
    · simp [tget]
    · split
      · simp [tget]
      · simp [tget, *]

theorem tget_tset_other {α : Type} (d : α) (t : Tab α) {j k : Nat} (x : α) (h : j ≠ k) :
    tget d (tset t k x) j = tget d t j := by
  induction t with
  | nil => simp [tset, tget, h]
  | cons e t ih =>
    obtain ⟨i, y⟩ := e
    simp only [tset]
    split
    · simp [tget, h]
    · split
      · next hk => subst hk; simp [tget, h]
      · simp [tget, ih]

/-! ## Fields of the state -/

@[simp] theorem State.setHart_cores (s : State) (h : Nat) (x : Hart) : (s.setHart h x).cores = s.cores := rfl
@[simp] theorem State.setHart_dies (s : State) (h : Nat) (x : Hart) : (s.setHart h x).dies = s.dies := rfl
@[simp] theorem State.setHart_slices (s : State) (h : Nat) (x : Hart) : (s.setHart h x).slices = s.slices := rfl
@[simp] theorem State.setHart_vis (s : State) (h : Nat) (x : Hart) : (s.setHart h x).vis = s.vis := rfl
@[simp] theorem State.setHart_queues (s : State) (h : Nat) (x : Hart) : (s.setHart h x).queues = s.queues := rfl
@[simp] theorem State.setHart_phys (s : State) (h : Nat) (x : Hart) : (s.setHart h x).phys = s.phys := rfl
@[simp] theorem State.setHart_net (s : State) (h : Nat) (x : Hart) : (s.setHart h x).net = s.net := rfl
@[simp] theorem State.setHart_fw (s : State) (h : Nat) (x : Hart) : (s.setHart h x).fw = s.fw := rfl
@[simp] theorem State.setHart_stepping (s : State) (h : Nat) (x : Hart) : (s.setHart h x).stepping = s.stepping := rfl
@[simp] theorem State.setHart_agenda (s : State) (h : Nat) (x : Hart) : (s.setHart h x).agenda = s.agenda := rfl
@[simp] theorem State.setHart_cur (s : State) (h : Nat) (x : Hart) : (s.setHart h x).cur = s.cur := rfl
@[simp] theorem State.setHart_fresh (s : State) (h : Nat) (x : Hart) : (s.setHart h x).fresh = s.fresh := rfl
@[simp] theorem State.modHart_cores (s : State) (h : Nat) (f : Hart → Hart) : (s.modHart h f).cores = s.cores := rfl
@[simp] theorem State.modHart_dies (s : State) (h : Nat) (f : Hart → Hart) : (s.modHart h f).dies = s.dies := rfl
@[simp] theorem State.modHart_slices (s : State) (h : Nat) (f : Hart → Hart) : (s.modHart h f).slices = s.slices := rfl
@[simp] theorem State.modHart_vis (s : State) (h : Nat) (f : Hart → Hart) : (s.modHart h f).vis = s.vis := rfl
@[simp] theorem State.modHart_queues (s : State) (h : Nat) (f : Hart → Hart) : (s.modHart h f).queues = s.queues := rfl
@[simp] theorem State.modHart_phys (s : State) (h : Nat) (f : Hart → Hart) : (s.modHart h f).phys = s.phys := rfl
@[simp] theorem State.modHart_net (s : State) (h : Nat) (f : Hart → Hart) : (s.modHart h f).net = s.net := rfl
@[simp] theorem State.modHart_fw (s : State) (h : Nat) (f : Hart → Hart) : (s.modHart h f).fw = s.fw := rfl
@[simp] theorem State.modHart_stepping (s : State) (h : Nat) (f : Hart → Hart) : (s.modHart h f).stepping = s.stepping := rfl
@[simp] theorem State.modHart_agenda (s : State) (h : Nat) (f : Hart → Hart) : (s.modHart h f).agenda = s.agenda := rfl
@[simp] theorem State.modHart_cur (s : State) (h : Nat) (f : Hart → Hart) : (s.modHart h f).cur = s.cur := rfl
@[simp] theorem State.modHart_fresh (s : State) (h : Nat) (f : Hart → Hart) : (s.modHart h f).fresh = s.fresh := rfl

@[simp] theorem State.setCore_harts (s : State) (c : Nat) (x : Core) : (s.setCore c x).harts = s.harts := rfl
@[simp] theorem State.setCore_dies (s : State) (c : Nat) (x : Core) : (s.setCore c x).dies = s.dies := rfl
@[simp] theorem State.setCore_slices (s : State) (c : Nat) (x : Core) : (s.setCore c x).slices = s.slices := rfl
@[simp] theorem State.setCore_vis (s : State) (c : Nat) (x : Core) : (s.setCore c x).vis = s.vis := rfl
@[simp] theorem State.setCore_queues (s : State) (c : Nat) (x : Core) : (s.setCore c x).queues = s.queues := rfl
@[simp] theorem State.setCore_phys (s : State) (c : Nat) (x : Core) : (s.setCore c x).phys = s.phys := rfl
@[simp] theorem State.setCore_net (s : State) (c : Nat) (x : Core) : (s.setCore c x).net = s.net := rfl
@[simp] theorem State.setCore_fw (s : State) (c : Nat) (x : Core) : (s.setCore c x).fw = s.fw := rfl
@[simp] theorem State.setCore_stepping (s : State) (c : Nat) (x : Core) : (s.setCore c x).stepping = s.stepping := rfl
@[simp] theorem State.setCore_agenda (s : State) (c : Nat) (x : Core) : (s.setCore c x).agenda = s.agenda := rfl
@[simp] theorem State.setCore_cur (s : State) (c : Nat) (x : Core) : (s.setCore c x).cur = s.cur := rfl
@[simp] theorem State.setCore_fresh (s : State) (c : Nat) (x : Core) : (s.setCore c x).fresh = s.fresh := rfl
@[simp] theorem State.modCore_harts (s : State) (c : Nat) (f : Core → Core) : (s.modCore c f).harts = s.harts := rfl
@[simp] theorem State.modCore_dies (s : State) (c : Nat) (f : Core → Core) : (s.modCore c f).dies = s.dies := rfl
@[simp] theorem State.modCore_slices (s : State) (c : Nat) (f : Core → Core) : (s.modCore c f).slices = s.slices := rfl
@[simp] theorem State.modCore_vis (s : State) (c : Nat) (f : Core → Core) : (s.modCore c f).vis = s.vis := rfl
@[simp] theorem State.modCore_queues (s : State) (c : Nat) (f : Core → Core) : (s.modCore c f).queues = s.queues := rfl
@[simp] theorem State.modCore_phys (s : State) (c : Nat) (f : Core → Core) : (s.modCore c f).phys = s.phys := rfl
@[simp] theorem State.modCore_net (s : State) (c : Nat) (f : Core → Core) : (s.modCore c f).net = s.net := rfl
@[simp] theorem State.modCore_fw (s : State) (c : Nat) (f : Core → Core) : (s.modCore c f).fw = s.fw := rfl
@[simp] theorem State.modCore_stepping (s : State) (c : Nat) (f : Core → Core) : (s.modCore c f).stepping = s.stepping := rfl
@[simp] theorem State.modCore_agenda (s : State) (c : Nat) (f : Core → Core) : (s.modCore c f).agenda = s.agenda := rfl
@[simp] theorem State.modCore_cur (s : State) (c : Nat) (f : Core → Core) : (s.modCore c f).cur = s.cur := rfl
@[simp] theorem State.modCore_fresh (s : State) (c : Nat) (f : Core → Core) : (s.modCore c f).fresh = s.fresh := rfl

@[simp] theorem State.setDie_harts (s : State) (d : Nat) (x : Die) : (s.setDie d x).harts = s.harts := rfl
@[simp] theorem State.setDie_cores (s : State) (d : Nat) (x : Die) : (s.setDie d x).cores = s.cores := rfl
@[simp] theorem State.setDie_slices (s : State) (d : Nat) (x : Die) : (s.setDie d x).slices = s.slices := rfl
@[simp] theorem State.setDie_vis (s : State) (d : Nat) (x : Die) : (s.setDie d x).vis = s.vis := rfl
@[simp] theorem State.setDie_queues (s : State) (d : Nat) (x : Die) : (s.setDie d x).queues = s.queues := rfl
@[simp] theorem State.setDie_phys (s : State) (d : Nat) (x : Die) : (s.setDie d x).phys = s.phys := rfl
@[simp] theorem State.setDie_net (s : State) (d : Nat) (x : Die) : (s.setDie d x).net = s.net := rfl
@[simp] theorem State.setDie_fw (s : State) (d : Nat) (x : Die) : (s.setDie d x).fw = s.fw := rfl
@[simp] theorem State.setDie_stepping (s : State) (d : Nat) (x : Die) : (s.setDie d x).stepping = s.stepping := rfl
@[simp] theorem State.setDie_agenda (s : State) (d : Nat) (x : Die) : (s.setDie d x).agenda = s.agenda := rfl
@[simp] theorem State.setDie_cur (s : State) (d : Nat) (x : Die) : (s.setDie d x).cur = s.cur := rfl
@[simp] theorem State.setDie_fresh (s : State) (d : Nat) (x : Die) : (s.setDie d x).fresh = s.fresh := rfl
@[simp] theorem State.modDie_harts (s : State) (d : Nat) (f : Die → Die) : (s.modDie d f).harts = s.harts := rfl
@[simp] theorem State.modDie_cores (s : State) (d : Nat) (f : Die → Die) : (s.modDie d f).cores = s.cores := rfl
@[simp] theorem State.modDie_slices (s : State) (d : Nat) (f : Die → Die) : (s.modDie d f).slices = s.slices := rfl
@[simp] theorem State.modDie_vis (s : State) (d : Nat) (f : Die → Die) : (s.modDie d f).vis = s.vis := rfl
@[simp] theorem State.modDie_queues (s : State) (d : Nat) (f : Die → Die) : (s.modDie d f).queues = s.queues := rfl
@[simp] theorem State.modDie_phys (s : State) (d : Nat) (f : Die → Die) : (s.modDie d f).phys = s.phys := rfl
@[simp] theorem State.modDie_net (s : State) (d : Nat) (f : Die → Die) : (s.modDie d f).net = s.net := rfl
@[simp] theorem State.modDie_fw (s : State) (d : Nat) (f : Die → Die) : (s.modDie d f).fw = s.fw := rfl
@[simp] theorem State.modDie_stepping (s : State) (d : Nat) (f : Die → Die) : (s.modDie d f).stepping = s.stepping := rfl
@[simp] theorem State.modDie_agenda (s : State) (d : Nat) (f : Die → Die) : (s.modDie d f).agenda = s.agenda := rfl
@[simp] theorem State.modDie_cur (s : State) (d : Nat) (f : Die → Die) : (s.modDie d f).cur = s.cur := rfl
@[simp] theorem State.modDie_fresh (s : State) (d : Nat) (f : Die → Die) : (s.modDie d f).fresh = s.fresh := rfl

@[simp] theorem State.setSlice_harts (s : State) (k : Nat) (x : Slice) : (s.setSlice k x).harts = s.harts := rfl
@[simp] theorem State.setSlice_cores (s : State) (k : Nat) (x : Slice) : (s.setSlice k x).cores = s.cores := rfl
@[simp] theorem State.setSlice_dies (s : State) (k : Nat) (x : Slice) : (s.setSlice k x).dies = s.dies := rfl
@[simp] theorem State.setSlice_vis (s : State) (k : Nat) (x : Slice) : (s.setSlice k x).vis = s.vis := rfl
@[simp] theorem State.setSlice_queues (s : State) (k : Nat) (x : Slice) : (s.setSlice k x).queues = s.queues := rfl
@[simp] theorem State.setSlice_phys (s : State) (k : Nat) (x : Slice) : (s.setSlice k x).phys = s.phys := rfl
@[simp] theorem State.setSlice_net (s : State) (k : Nat) (x : Slice) : (s.setSlice k x).net = s.net := rfl
@[simp] theorem State.setSlice_fw (s : State) (k : Nat) (x : Slice) : (s.setSlice k x).fw = s.fw := rfl
@[simp] theorem State.setSlice_stepping (s : State) (k : Nat) (x : Slice) : (s.setSlice k x).stepping = s.stepping := rfl
@[simp] theorem State.setSlice_agenda (s : State) (k : Nat) (x : Slice) : (s.setSlice k x).agenda = s.agenda := rfl
@[simp] theorem State.setSlice_cur (s : State) (k : Nat) (x : Slice) : (s.setSlice k x).cur = s.cur := rfl
@[simp] theorem State.setSlice_fresh (s : State) (k : Nat) (x : Slice) : (s.setSlice k x).fresh = s.fresh := rfl
@[simp] theorem State.modSlice_harts (s : State) (k : Nat) (f : Slice → Slice) : (s.modSlice k f).harts = s.harts := rfl
@[simp] theorem State.modSlice_cores (s : State) (k : Nat) (f : Slice → Slice) : (s.modSlice k f).cores = s.cores := rfl
@[simp] theorem State.modSlice_dies (s : State) (k : Nat) (f : Slice → Slice) : (s.modSlice k f).dies = s.dies := rfl
@[simp] theorem State.modSlice_vis (s : State) (k : Nat) (f : Slice → Slice) : (s.modSlice k f).vis = s.vis := rfl
@[simp] theorem State.modSlice_queues (s : State) (k : Nat) (f : Slice → Slice) : (s.modSlice k f).queues = s.queues := rfl
@[simp] theorem State.modSlice_phys (s : State) (k : Nat) (f : Slice → Slice) : (s.modSlice k f).phys = s.phys := rfl
@[simp] theorem State.modSlice_net (s : State) (k : Nat) (f : Slice → Slice) : (s.modSlice k f).net = s.net := rfl
@[simp] theorem State.modSlice_fw (s : State) (k : Nat) (f : Slice → Slice) : (s.modSlice k f).fw = s.fw := rfl
@[simp] theorem State.modSlice_stepping (s : State) (k : Nat) (f : Slice → Slice) : (s.modSlice k f).stepping = s.stepping := rfl
@[simp] theorem State.modSlice_agenda (s : State) (k : Nat) (f : Slice → Slice) : (s.modSlice k f).agenda = s.agenda := rfl
@[simp] theorem State.modSlice_cur (s : State) (k : Nat) (f : Slice → Slice) : (s.modSlice k f).cur = s.cur := rfl
@[simp] theorem State.modSlice_fresh (s : State) (k : Nat) (f : Slice → Slice) : (s.modSlice k f).fresh = s.fresh := rfl

@[simp] theorem State.setVi_harts (s : State) (v : Nat) (x : Vi) : (s.setVi v x).harts = s.harts := rfl
@[simp] theorem State.setVi_cores (s : State) (v : Nat) (x : Vi) : (s.setVi v x).cores = s.cores := rfl
@[simp] theorem State.setVi_dies (s : State) (v : Nat) (x : Vi) : (s.setVi v x).dies = s.dies := rfl
@[simp] theorem State.setVi_slices (s : State) (v : Nat) (x : Vi) : (s.setVi v x).slices = s.slices := rfl
@[simp] theorem State.setVi_queues (s : State) (v : Nat) (x : Vi) : (s.setVi v x).queues = s.queues := rfl
@[simp] theorem State.setVi_phys (s : State) (v : Nat) (x : Vi) : (s.setVi v x).phys = s.phys := rfl
@[simp] theorem State.setVi_net (s : State) (v : Nat) (x : Vi) : (s.setVi v x).net = s.net := rfl
@[simp] theorem State.setVi_fw (s : State) (v : Nat) (x : Vi) : (s.setVi v x).fw = s.fw := rfl
@[simp] theorem State.setVi_stepping (s : State) (v : Nat) (x : Vi) : (s.setVi v x).stepping = s.stepping := rfl
@[simp] theorem State.setVi_agenda (s : State) (v : Nat) (x : Vi) : (s.setVi v x).agenda = s.agenda := rfl
@[simp] theorem State.setVi_cur (s : State) (v : Nat) (x : Vi) : (s.setVi v x).cur = s.cur := rfl
@[simp] theorem State.setVi_fresh (s : State) (v : Nat) (x : Vi) : (s.setVi v x).fresh = s.fresh := rfl
@[simp] theorem State.modVi_harts (s : State) (v : Nat) (f : Vi → Vi) : (s.modVi v f).harts = s.harts := rfl
@[simp] theorem State.modVi_cores (s : State) (v : Nat) (f : Vi → Vi) : (s.modVi v f).cores = s.cores := rfl
@[simp] theorem State.modVi_dies (s : State) (v : Nat) (f : Vi → Vi) : (s.modVi v f).dies = s.dies := rfl
@[simp] theorem State.modVi_slices (s : State) (v : Nat) (f : Vi → Vi) : (s.modVi v f).slices = s.slices := rfl
@[simp] theorem State.modVi_queues (s : State) (v : Nat) (f : Vi → Vi) : (s.modVi v f).queues = s.queues := rfl
@[simp] theorem State.modVi_phys (s : State) (v : Nat) (f : Vi → Vi) : (s.modVi v f).phys = s.phys := rfl
@[simp] theorem State.modVi_net (s : State) (v : Nat) (f : Vi → Vi) : (s.modVi v f).net = s.net := rfl
@[simp] theorem State.modVi_fw (s : State) (v : Nat) (f : Vi → Vi) : (s.modVi v f).fw = s.fw := rfl
@[simp] theorem State.modVi_stepping (s : State) (v : Nat) (f : Vi → Vi) : (s.modVi v f).stepping = s.stepping := rfl
@[simp] theorem State.modVi_agenda (s : State) (v : Nat) (f : Vi → Vi) : (s.modVi v f).agenda = s.agenda := rfl
@[simp] theorem State.modVi_cur (s : State) (v : Nat) (f : Vi → Vi) : (s.modVi v f).cur = s.cur := rfl
@[simp] theorem State.modVi_fresh (s : State) (v : Nat) (f : Vi → Vi) : (s.modVi v f).fresh = s.fresh := rfl

@[simp] theorem State.setQueue_harts (s : State) (q : Nat) (x : DevQueue) : (s.setQueue q x).harts = s.harts := rfl
@[simp] theorem State.setQueue_cores (s : State) (q : Nat) (x : DevQueue) : (s.setQueue q x).cores = s.cores := rfl
@[simp] theorem State.setQueue_dies (s : State) (q : Nat) (x : DevQueue) : (s.setQueue q x).dies = s.dies := rfl
@[simp] theorem State.setQueue_slices (s : State) (q : Nat) (x : DevQueue) : (s.setQueue q x).slices = s.slices := rfl
@[simp] theorem State.setQueue_vis (s : State) (q : Nat) (x : DevQueue) : (s.setQueue q x).vis = s.vis := rfl
@[simp] theorem State.setQueue_phys (s : State) (q : Nat) (x : DevQueue) : (s.setQueue q x).phys = s.phys := rfl
@[simp] theorem State.setQueue_net (s : State) (q : Nat) (x : DevQueue) : (s.setQueue q x).net = s.net := rfl
@[simp] theorem State.setQueue_fw (s : State) (q : Nat) (x : DevQueue) : (s.setQueue q x).fw = s.fw := rfl
@[simp] theorem State.setQueue_stepping (s : State) (q : Nat) (x : DevQueue) : (s.setQueue q x).stepping = s.stepping := rfl
@[simp] theorem State.setQueue_agenda (s : State) (q : Nat) (x : DevQueue) : (s.setQueue q x).agenda = s.agenda := rfl
@[simp] theorem State.setQueue_cur (s : State) (q : Nat) (x : DevQueue) : (s.setQueue q x).cur = s.cur := rfl
@[simp] theorem State.setQueue_fresh (s : State) (q : Nat) (x : DevQueue) : (s.setQueue q x).fresh = s.fresh := rfl
@[simp] theorem State.modQueue_harts (s : State) (q : Nat) (f : DevQueue → DevQueue) : (s.modQueue q f).harts = s.harts := rfl
@[simp] theorem State.modQueue_cores (s : State) (q : Nat) (f : DevQueue → DevQueue) : (s.modQueue q f).cores = s.cores := rfl
@[simp] theorem State.modQueue_dies (s : State) (q : Nat) (f : DevQueue → DevQueue) : (s.modQueue q f).dies = s.dies := rfl
@[simp] theorem State.modQueue_slices (s : State) (q : Nat) (f : DevQueue → DevQueue) : (s.modQueue q f).slices = s.slices := rfl
@[simp] theorem State.modQueue_vis (s : State) (q : Nat) (f : DevQueue → DevQueue) : (s.modQueue q f).vis = s.vis := rfl
@[simp] theorem State.modQueue_phys (s : State) (q : Nat) (f : DevQueue → DevQueue) : (s.modQueue q f).phys = s.phys := rfl
@[simp] theorem State.modQueue_net (s : State) (q : Nat) (f : DevQueue → DevQueue) : (s.modQueue q f).net = s.net := rfl
@[simp] theorem State.modQueue_fw (s : State) (q : Nat) (f : DevQueue → DevQueue) : (s.modQueue q f).fw = s.fw := rfl
@[simp] theorem State.modQueue_stepping (s : State) (q : Nat) (f : DevQueue → DevQueue) : (s.modQueue q f).stepping = s.stepping := rfl
@[simp] theorem State.modQueue_agenda (s : State) (q : Nat) (f : DevQueue → DevQueue) : (s.modQueue q f).agenda = s.agenda := rfl
@[simp] theorem State.modQueue_cur (s : State) (q : Nat) (f : DevQueue → DevQueue) : (s.modQueue q f).cur = s.cur := rfl
@[simp] theorem State.modQueue_fresh (s : State) (q : Nat) (f : DevQueue → DevQueue) : (s.modQueue q f).fresh = s.fresh := rfl

@[simp] theorem State.setMe_cores (s : State) (x : Hart) : (s.setMe x).cores = s.cores := rfl
@[simp] theorem State.modMe_cores (s : State) (f : Hart → Hart) : (s.modMe f).cores = s.cores := rfl
@[simp] theorem State.setMe_dies (s : State) (x : Hart) : (s.setMe x).dies = s.dies := rfl
@[simp] theorem State.modMe_dies (s : State) (f : Hart → Hart) : (s.modMe f).dies = s.dies := rfl
@[simp] theorem State.setMe_slices (s : State) (x : Hart) : (s.setMe x).slices = s.slices := rfl
@[simp] theorem State.modMe_slices (s : State) (f : Hart → Hart) : (s.modMe f).slices = s.slices := rfl
@[simp] theorem State.setMe_vis (s : State) (x : Hart) : (s.setMe x).vis = s.vis := rfl
@[simp] theorem State.modMe_vis (s : State) (f : Hart → Hart) : (s.modMe f).vis = s.vis := rfl
@[simp] theorem State.setMe_queues (s : State) (x : Hart) : (s.setMe x).queues = s.queues := rfl
@[simp] theorem State.modMe_queues (s : State) (f : Hart → Hart) : (s.modMe f).queues = s.queues := rfl
@[simp] theorem State.setMe_phys (s : State) (x : Hart) : (s.setMe x).phys = s.phys := rfl
@[simp] theorem State.modMe_phys (s : State) (f : Hart → Hart) : (s.modMe f).phys = s.phys := rfl
@[simp] theorem State.setMe_net (s : State) (x : Hart) : (s.setMe x).net = s.net := rfl
@[simp] theorem State.modMe_net (s : State) (f : Hart → Hart) : (s.modMe f).net = s.net := rfl
@[simp] theorem State.setMe_fw (s : State) (x : Hart) : (s.setMe x).fw = s.fw := rfl
@[simp] theorem State.modMe_fw (s : State) (f : Hart → Hart) : (s.modMe f).fw = s.fw := rfl
@[simp] theorem State.setMe_stepping (s : State) (x : Hart) : (s.setMe x).stepping = s.stepping := rfl
@[simp] theorem State.modMe_stepping (s : State) (f : Hart → Hart) : (s.modMe f).stepping = s.stepping := rfl
@[simp] theorem State.setMe_agenda (s : State) (x : Hart) : (s.setMe x).agenda = s.agenda := rfl
@[simp] theorem State.modMe_agenda (s : State) (f : Hart → Hart) : (s.modMe f).agenda = s.agenda := rfl
@[simp] theorem State.setMe_cur (s : State) (x : Hart) : (s.setMe x).cur = s.cur := rfl
@[simp] theorem State.modMe_cur (s : State) (f : Hart → Hart) : (s.modMe f).cur = s.cur := rfl
@[simp] theorem State.setMe_fresh (s : State) (x : Hart) : (s.setMe x).fresh = s.fresh := rfl
@[simp] theorem State.modMe_fresh (s : State) (f : Hart → Hart) : (s.modMe f).fresh = s.fresh := rfl

/-! ## Units -/

@[simp] theorem State.hart_setHart (s : State) (h : Nat) (x : Hart) : (s.setHart h x).hart h = x := by
  simp [State.hart, State.setHart]
theorem State.hart_setHart_other (s : State) {j h : Nat} (x : Hart) (hj : j ≠ h) : (s.setHart h x).hart j = s.hart j := by
  simp [State.hart, State.setHart, tget_tset_other _ _ _ hj]
@[simp] theorem State.hart_modHart (s : State) (h : Nat) (f : Hart → Hart) : (s.modHart h f).hart h = f (s.hart h) := by
  simp [State.modHart]
theorem State.hart_modHart_other (s : State) {j h : Nat} (f : Hart → Hart) (hj : j ≠ h) :
    (s.modHart h f).hart j = s.hart j := State.hart_setHart_other s _ hj
@[simp] theorem State.core_setHart (s : State) (h c : Nat) (x : Hart) : (s.setHart h x).core c = s.core c := rfl
@[simp] theorem State.core_modHart (s : State) (h c : Nat) (f : Hart → Hart) : (s.modHart h f).core c = s.core c := rfl
@[simp] theorem State.die_setHart (s : State) (h d : Nat) (x : Hart) : (s.setHart h x).die d = s.die d := rfl
@[simp] theorem State.die_modHart (s : State) (h d : Nat) (f : Hart → Hart) : (s.modHart h f).die d = s.die d := rfl
@[simp] theorem State.slice_setHart (s : State) (h k : Nat) (x : Hart) : (s.setHart h x).slice k = s.slice k := rfl
@[simp] theorem State.slice_modHart (s : State) (h k : Nat) (f : Hart → Hart) : (s.modHart h f).slice k = s.slice k := rfl
@[simp] theorem State.vi_setHart (s : State) (h v : Nat) (x : Hart) : (s.setHart h x).vi v = s.vi v := rfl
@[simp] theorem State.vi_modHart (s : State) (h v : Nat) (f : Hart → Hart) : (s.modHart h f).vi v = s.vi v := rfl
@[simp] theorem State.queue_setHart (s : State) (h q : Nat) (x : Hart) : (s.setHart h x).queue q = s.queue q := rfl
@[simp] theorem State.queue_modHart (s : State) (h q : Nat) (f : Hart → Hart) : (s.modHart h f).queue q = s.queue q := rfl

@[simp] theorem State.core_setCore (s : State) (c : Nat) (x : Core) : (s.setCore c x).core c = x := by
  simp [State.core, State.setCore]
theorem State.core_setCore_other (s : State) {j c : Nat} (x : Core) (hj : j ≠ c) : (s.setCore c x).core j = s.core j := by
  simp [State.core, State.setCore, tget_tset_other _ _ _ hj]
@[simp] theorem State.core_modCore (s : State) (c : Nat) (f : Core → Core) : (s.modCore c f).core c = f (s.core c) := by
  simp [State.modCore]
theorem State.core_modCore_other (s : State) {j c : Nat} (f : Core → Core) (hj : j ≠ c) :
    (s.modCore c f).core j = s.core j := State.core_setCore_other s _ hj
@[simp] theorem State.hart_setCore (s : State) (c h : Nat) (x : Core) : (s.setCore c x).hart h = s.hart h := rfl
@[simp] theorem State.hart_modCore (s : State) (c h : Nat) (f : Core → Core) : (s.modCore c f).hart h = s.hart h := rfl
@[simp] theorem State.die_setCore (s : State) (c d : Nat) (x : Core) : (s.setCore c x).die d = s.die d := rfl
@[simp] theorem State.die_modCore (s : State) (c d : Nat) (f : Core → Core) : (s.modCore c f).die d = s.die d := rfl
@[simp] theorem State.slice_setCore (s : State) (c k : Nat) (x : Core) : (s.setCore c x).slice k = s.slice k := rfl
@[simp] theorem State.slice_modCore (s : State) (c k : Nat) (f : Core → Core) : (s.modCore c f).slice k = s.slice k := rfl
@[simp] theorem State.vi_setCore (s : State) (c v : Nat) (x : Core) : (s.setCore c x).vi v = s.vi v := rfl
@[simp] theorem State.vi_modCore (s : State) (c v : Nat) (f : Core → Core) : (s.modCore c f).vi v = s.vi v := rfl
@[simp] theorem State.queue_setCore (s : State) (c q : Nat) (x : Core) : (s.setCore c x).queue q = s.queue q := rfl
@[simp] theorem State.queue_modCore (s : State) (c q : Nat) (f : Core → Core) : (s.modCore c f).queue q = s.queue q := rfl

@[simp] theorem State.die_setDie (s : State) (d : Nat) (x : Die) : (s.setDie d x).die d = x := by
  simp [State.die, State.setDie]
theorem State.die_setDie_other (s : State) {j d : Nat} (x : Die) (hj : j ≠ d) : (s.setDie d x).die j = s.die j := by
  simp [State.die, State.setDie, tget_tset_other _ _ _ hj]
@[simp] theorem State.die_modDie (s : State) (d : Nat) (f : Die → Die) : (s.modDie d f).die d = f (s.die d) := by
  simp [State.modDie]
theorem State.die_modDie_other (s : State) {j d : Nat} (f : Die → Die) (hj : j ≠ d) :
    (s.modDie d f).die j = s.die j := State.die_setDie_other s _ hj
@[simp] theorem State.hart_setDie (s : State) (d h : Nat) (x : Die) : (s.setDie d x).hart h = s.hart h := rfl
@[simp] theorem State.hart_modDie (s : State) (d h : Nat) (f : Die → Die) : (s.modDie d f).hart h = s.hart h := rfl
@[simp] theorem State.core_setDie (s : State) (d c : Nat) (x : Die) : (s.setDie d x).core c = s.core c := rfl
@[simp] theorem State.core_modDie (s : State) (d c : Nat) (f : Die → Die) : (s.modDie d f).core c = s.core c := rfl
@[simp] theorem State.slice_setDie (s : State) (d k : Nat) (x : Die) : (s.setDie d x).slice k = s.slice k := rfl
@[simp] theorem State.slice_modDie (s : State) (d k : Nat) (f : Die → Die) : (s.modDie d f).slice k = s.slice k := rfl
@[simp] theorem State.vi_setDie (s : State) (d v : Nat) (x : Die) : (s.setDie d x).vi v = s.vi v := rfl
@[simp] theorem State.vi_modDie (s : State) (d v : Nat) (f : Die → Die) : (s.modDie d f).vi v = s.vi v := rfl
@[simp] theorem State.queue_setDie (s : State) (d q : Nat) (x : Die) : (s.setDie d x).queue q = s.queue q := rfl
@[simp] theorem State.queue_modDie (s : State) (d q : Nat) (f : Die → Die) : (s.modDie d f).queue q = s.queue q := rfl

@[simp] theorem State.slice_setSlice (s : State) (k : Nat) (x : Slice) : (s.setSlice k x).slice k = x := by
  simp [State.slice, State.setSlice]
theorem State.slice_setSlice_other (s : State) {j k : Nat} (x : Slice) (hj : j ≠ k) : (s.setSlice k x).slice j = s.slice j := by
  simp [State.slice, State.setSlice, tget_tset_other _ _ _ hj]
@[simp] theorem State.slice_modSlice (s : State) (k : Nat) (f : Slice → Slice) : (s.modSlice k f).slice k = f (s.slice k) := by
  simp [State.modSlice]
theorem State.slice_modSlice_other (s : State) {j k : Nat} (f : Slice → Slice) (hj : j ≠ k) :
    (s.modSlice k f).slice j = s.slice j := State.slice_setSlice_other s _ hj
@[simp] theorem State.hart_setSlice (s : State) (k h : Nat) (x : Slice) : (s.setSlice k x).hart h = s.hart h := rfl
@[simp] theorem State.hart_modSlice (s : State) (k h : Nat) (f : Slice → Slice) : (s.modSlice k f).hart h = s.hart h := rfl
@[simp] theorem State.core_setSlice (s : State) (k c : Nat) (x : Slice) : (s.setSlice k x).core c = s.core c := rfl
@[simp] theorem State.core_modSlice (s : State) (k c : Nat) (f : Slice → Slice) : (s.modSlice k f).core c = s.core c := rfl
@[simp] theorem State.die_setSlice (s : State) (k d : Nat) (x : Slice) : (s.setSlice k x).die d = s.die d := rfl
@[simp] theorem State.die_modSlice (s : State) (k d : Nat) (f : Slice → Slice) : (s.modSlice k f).die d = s.die d := rfl
@[simp] theorem State.vi_setSlice (s : State) (k v : Nat) (x : Slice) : (s.setSlice k x).vi v = s.vi v := rfl
@[simp] theorem State.vi_modSlice (s : State) (k v : Nat) (f : Slice → Slice) : (s.modSlice k f).vi v = s.vi v := rfl
@[simp] theorem State.queue_setSlice (s : State) (k q : Nat) (x : Slice) : (s.setSlice k x).queue q = s.queue q := rfl
@[simp] theorem State.queue_modSlice (s : State) (k q : Nat) (f : Slice → Slice) : (s.modSlice k f).queue q = s.queue q := rfl

@[simp] theorem State.vi_setVi (s : State) (v : Nat) (x : Vi) : (s.setVi v x).vi v = x := by
  simp [State.vi, State.setVi]
theorem State.vi_setVi_other (s : State) {j v : Nat} (x : Vi) (hj : j ≠ v) : (s.setVi v x).vi j = s.vi j := by
  simp [State.vi, State.setVi, tget_tset_other _ _ _ hj]
@[simp] theorem State.vi_modVi (s : State) (v : Nat) (f : Vi → Vi) : (s.modVi v f).vi v = f (s.vi v) := by
  simp [State.modVi]
theorem State.vi_modVi_other (s : State) {j v : Nat} (f : Vi → Vi) (hj : j ≠ v) :
    (s.modVi v f).vi j = s.vi j := State.vi_setVi_other s _ hj
@[simp] theorem State.hart_setVi (s : State) (v h : Nat) (x : Vi) : (s.setVi v x).hart h = s.hart h := rfl
@[simp] theorem State.hart_modVi (s : State) (v h : Nat) (f : Vi → Vi) : (s.modVi v f).hart h = s.hart h := rfl
@[simp] theorem State.core_setVi (s : State) (v c : Nat) (x : Vi) : (s.setVi v x).core c = s.core c := rfl
@[simp] theorem State.core_modVi (s : State) (v c : Nat) (f : Vi → Vi) : (s.modVi v f).core c = s.core c := rfl
@[simp] theorem State.die_setVi (s : State) (v d : Nat) (x : Vi) : (s.setVi v x).die d = s.die d := rfl
@[simp] theorem State.die_modVi (s : State) (v d : Nat) (f : Vi → Vi) : (s.modVi v f).die d = s.die d := rfl
@[simp] theorem State.slice_setVi (s : State) (v k : Nat) (x : Vi) : (s.setVi v x).slice k = s.slice k := rfl
@[simp] theorem State.slice_modVi (s : State) (v k : Nat) (f : Vi → Vi) : (s.modVi v f).slice k = s.slice k := rfl
@[simp] theorem State.queue_setVi (s : State) (v q : Nat) (x : Vi) : (s.setVi v x).queue q = s.queue q := rfl
@[simp] theorem State.queue_modVi (s : State) (v q : Nat) (f : Vi → Vi) : (s.modVi v f).queue q = s.queue q := rfl

@[simp] theorem State.queue_setQueue (s : State) (q : Nat) (x : DevQueue) : (s.setQueue q x).queue q = x := by
  simp [State.queue, State.setQueue]
theorem State.queue_setQueue_other (s : State) {j q : Nat} (x : DevQueue) (hj : j ≠ q) : (s.setQueue q x).queue j = s.queue j := by
  simp [State.queue, State.setQueue, tget_tset_other _ _ _ hj]
@[simp] theorem State.queue_modQueue (s : State) (q : Nat) (f : DevQueue → DevQueue) : (s.modQueue q f).queue q = f (s.queue q) := by
  simp [State.modQueue]
theorem State.queue_modQueue_other (s : State) {j q : Nat} (f : DevQueue → DevQueue) (hj : j ≠ q) :
    (s.modQueue q f).queue j = s.queue j := State.queue_setQueue_other s _ hj
@[simp] theorem State.hart_setQueue (s : State) (q h : Nat) (x : DevQueue) : (s.setQueue q x).hart h = s.hart h := rfl
@[simp] theorem State.hart_modQueue (s : State) (q h : Nat) (f : DevQueue → DevQueue) : (s.modQueue q f).hart h = s.hart h := rfl
@[simp] theorem State.core_setQueue (s : State) (q c : Nat) (x : DevQueue) : (s.setQueue q x).core c = s.core c := rfl
@[simp] theorem State.core_modQueue (s : State) (q c : Nat) (f : DevQueue → DevQueue) : (s.modQueue q f).core c = s.core c := rfl
@[simp] theorem State.die_setQueue (s : State) (q d : Nat) (x : DevQueue) : (s.setQueue q x).die d = s.die d := rfl
@[simp] theorem State.die_modQueue (s : State) (q d : Nat) (f : DevQueue → DevQueue) : (s.modQueue q f).die d = s.die d := rfl
@[simp] theorem State.slice_setQueue (s : State) (q k : Nat) (x : DevQueue) : (s.setQueue q x).slice k = s.slice k := rfl
@[simp] theorem State.slice_modQueue (s : State) (q k : Nat) (f : DevQueue → DevQueue) : (s.modQueue q f).slice k = s.slice k := rfl
@[simp] theorem State.vi_setQueue (s : State) (q v : Nat) (x : DevQueue) : (s.setQueue q x).vi v = s.vi v := rfl
@[simp] theorem State.vi_modQueue (s : State) (q v : Nat) (f : DevQueue → DevQueue) : (s.modQueue q f).vi v = s.vi v := rfl

@[simp] theorem State.core_setMe (s : State) (c : Nat) (x : Hart) : (s.setMe x).core c = s.core c := rfl
@[simp] theorem State.core_modMe (s : State) (c : Nat) (f : Hart → Hart) : (s.modMe f).core c = s.core c := rfl
@[simp] theorem State.me_setCore (s : State) (c : Nat) (x : Core) : (s.setCore c x).me = s.me := rfl
@[simp] theorem State.me_modCore (s : State) (c : Nat) (f : Core → Core) : (s.modCore c f).me = s.me := rfl
@[simp] theorem State.die_setMe (s : State) (d : Nat) (x : Hart) : (s.setMe x).die d = s.die d := rfl
@[simp] theorem State.die_modMe (s : State) (d : Nat) (f : Hart → Hart) : (s.modMe f).die d = s.die d := rfl
@[simp] theorem State.me_setDie (s : State) (d : Nat) (x : Die) : (s.setDie d x).me = s.me := rfl
@[simp] theorem State.me_modDie (s : State) (d : Nat) (f : Die → Die) : (s.modDie d f).me = s.me := rfl
@[simp] theorem State.slice_setMe (s : State) (k : Nat) (x : Hart) : (s.setMe x).slice k = s.slice k := rfl
@[simp] theorem State.slice_modMe (s : State) (k : Nat) (f : Hart → Hart) : (s.modMe f).slice k = s.slice k := rfl
@[simp] theorem State.me_setSlice (s : State) (k : Nat) (x : Slice) : (s.setSlice k x).me = s.me := rfl
@[simp] theorem State.me_modSlice (s : State) (k : Nat) (f : Slice → Slice) : (s.modSlice k f).me = s.me := rfl
@[simp] theorem State.vi_setMe (s : State) (v : Nat) (x : Hart) : (s.setMe x).vi v = s.vi v := rfl
@[simp] theorem State.vi_modMe (s : State) (v : Nat) (f : Hart → Hart) : (s.modMe f).vi v = s.vi v := rfl
@[simp] theorem State.me_setVi (s : State) (v : Nat) (x : Vi) : (s.setVi v x).me = s.me := rfl
@[simp] theorem State.me_modVi (s : State) (v : Nat) (f : Vi → Vi) : (s.modVi v f).me = s.me := rfl
@[simp] theorem State.queue_setMe (s : State) (q : Nat) (x : Hart) : (s.setMe x).queue q = s.queue q := rfl
@[simp] theorem State.queue_modMe (s : State) (q : Nat) (f : Hart → Hart) : (s.modMe f).queue q = s.queue q := rfl
@[simp] theorem State.me_setQueue (s : State) (q : Nat) (x : DevQueue) : (s.setQueue q x).me = s.me := rfl
@[simp] theorem State.me_modQueue (s : State) (q : Nat) (f : DevQueue → DevQueue) : (s.modQueue q f).me = s.me := rfl
@[simp] theorem State.me_setMe (s : State) (x : Hart) : (s.setMe x).me = x := by simp [State.me, State.setMe]
@[simp] theorem State.me_modMe (s : State) (f : Hart → Hart) : (s.modMe f).me = f s.me := by simp [State.modMe]
theorem State.hart_setMe_other (s : State) (x : Hart) {h : Nat} (hh : h ≠ s.cur) : (s.setMe x).hart h = s.hart h :=
  State.hart_setHart_other s x hh
theorem State.hart_modMe_other (s : State) (f : Hart → Hart) {h : Nat} (hh : h ≠ s.cur) : (s.modMe f).hart h = s.hart h :=
  State.hart_setHart_other s _ hh

/-! ## Fields of a hart -/

@[simp] theorem Hart.setVs_lanes (x : Hart) (v : VState) : (x.setVs v).lanes = x.lanes := rfl
@[simp] theorem Hart.setVs_sys (x : Hart) (v : VState) : (x.setVs v).sys = x.sys := rfl
@[simp] theorem Hart.setVs_eng (x : Hart) (v : VState) : (x.setVs v).eng = x.eng := rfl
@[simp] theorem Hart.setVs_who (x : Hart) (v : VState) : (x.setVs v).who = x.who := rfl
@[simp] theorem Hart.setVs_windows (x : Hart) (v : VState) : (x.setVs v).windows = x.windows := rfl
@[simp] theorem Hart.setVs_pendErr (x : Hart) (v : VState) : (x.setVs v).pendErr = x.pendErr := rfl
@[simp] theorem Hart.setVs_caps (x : Hart) (v : VState) : (x.setVs v).caps = x.caps := rfl
@[simp] theorem Hart.setVs_gang (x : Hart) (v : VState) : (x.setVs v).gang = x.gang := rfl
@[simp] theorem Hart.setVs_arrival (x : Hart) (v : VState) : (x.setVs v).arrival = x.arrival := rfl
@[simp] theorem Hart.setVs_phases (x : Hart) (v : VState) : (x.setVs v).phases = x.phases := rfl
@[simp] theorem Hart.setVs_fetched (x : Hart) (v : VState) : (x.setVs v).fetched = x.fetched := rfl
@[simp] theorem Hart.setVs_counted (x : Hart) (v : VState) : (x.setVs v).counted = x.counted := rfl
@[simp] theorem Hart.setVs_deps (x : Hart) (v : VState) : (x.setVs v).deps = x.deps := rfl
@[simp] theorem Hart.setVs_inval (x : Hart) (v : VState) : (x.setVs v).inval = x.inval := rfl
@[simp] theorem Hart.setVs_irq (x : Hart) (v : VState) : (x.setVs v).irq = x.irq := rfl
@[simp] theorem Hart.setVs_frames (x : Hart) (v : VState) : (x.setVs v).frames = x.frames := rfl
@[simp] theorem Hart.setVs_nextId (x : Hart) (v : VState) : (x.setVs v).nextId = x.nextId := rfl
@[simp] theorem Hart.setVs_core_st (x : Hart) (v : VState) : (x.setVs v).core.st = x.core.st := rfl
@[simp] theorem Hart.setVs_core_g (x : Hart) (v : VState) : (x.setVs v).core.g = x.core.g := rfl
@[simp] theorem Hart.setVs_core_gPoison (x : Hart) (v : VState) : (x.setVs v).core.gPoison = x.core.gPoison := rfl
@[simp] theorem Hart.setVs_core_pc (x : Hart) (v : VState) : (x.setVs v).core.pc = x.core.pc := rfl
@[simp] theorem Hart.setVs_core_mode (x : Hart) (v : VState) : (x.setVs v).core.mode = x.core.mode := rfl
@[simp] theorem Hart.setVs_core_loop (x : Hart) (v : VState) : (x.setVs v).core.loop = x.core.loop := rfl
@[simp] theorem Hart.setVs_core_fflags (x : Hart) (v : VState) : (x.setVs v).core.fflags = x.core.fflags := rfl
@[simp] theorem Hart.setVs_core_vs (x : Hart) (v : VState) : (x.setVs v).core.vs = v := rfl
@[simp] theorem Hart.modVs_lanes (x : Hart) (f : VState → VState) : (x.modVs f).lanes = x.lanes := rfl
@[simp] theorem Hart.modVs_sys (x : Hart) (f : VState → VState) : (x.modVs f).sys = x.sys := rfl
@[simp] theorem Hart.modVs_eng (x : Hart) (f : VState → VState) : (x.modVs f).eng = x.eng := rfl
@[simp] theorem Hart.modVs_who (x : Hart) (f : VState → VState) : (x.modVs f).who = x.who := rfl
@[simp] theorem Hart.modVs_windows (x : Hart) (f : VState → VState) : (x.modVs f).windows = x.windows := rfl
@[simp] theorem Hart.modVs_pendErr (x : Hart) (f : VState → VState) : (x.modVs f).pendErr = x.pendErr := rfl
@[simp] theorem Hart.modVs_caps (x : Hart) (f : VState → VState) : (x.modVs f).caps = x.caps := rfl
@[simp] theorem Hart.modVs_gang (x : Hart) (f : VState → VState) : (x.modVs f).gang = x.gang := rfl
@[simp] theorem Hart.modVs_arrival (x : Hart) (f : VState → VState) : (x.modVs f).arrival = x.arrival := rfl
@[simp] theorem Hart.modVs_phases (x : Hart) (f : VState → VState) : (x.modVs f).phases = x.phases := rfl
@[simp] theorem Hart.modVs_fetched (x : Hart) (f : VState → VState) : (x.modVs f).fetched = x.fetched := rfl
@[simp] theorem Hart.modVs_counted (x : Hart) (f : VState → VState) : (x.modVs f).counted = x.counted := rfl
@[simp] theorem Hart.modVs_deps (x : Hart) (f : VState → VState) : (x.modVs f).deps = x.deps := rfl
@[simp] theorem Hart.modVs_inval (x : Hart) (f : VState → VState) : (x.modVs f).inval = x.inval := rfl
@[simp] theorem Hart.modVs_irq (x : Hart) (f : VState → VState) : (x.modVs f).irq = x.irq := rfl
@[simp] theorem Hart.modVs_frames (x : Hart) (f : VState → VState) : (x.modVs f).frames = x.frames := rfl
@[simp] theorem Hart.modVs_nextId (x : Hart) (f : VState → VState) : (x.modVs f).nextId = x.nextId := rfl
@[simp] theorem Hart.modVs_core_st (x : Hart) (f : VState → VState) : (x.modVs f).core.st = x.core.st := rfl
@[simp] theorem Hart.modVs_core_g (x : Hart) (f : VState → VState) : (x.modVs f).core.g = x.core.g := rfl
@[simp] theorem Hart.modVs_core_gPoison (x : Hart) (f : VState → VState) : (x.modVs f).core.gPoison = x.core.gPoison := rfl
@[simp] theorem Hart.modVs_core_pc (x : Hart) (f : VState → VState) : (x.modVs f).core.pc = x.core.pc := rfl
@[simp] theorem Hart.modVs_core_mode (x : Hart) (f : VState → VState) : (x.modVs f).core.mode = x.core.mode := rfl
@[simp] theorem Hart.modVs_core_loop (x : Hart) (f : VState → VState) : (x.modVs f).core.loop = x.core.loop := rfl
@[simp] theorem Hart.modVs_core_fflags (x : Hart) (f : VState → VState) : (x.modVs f).core.fflags = x.core.fflags := rfl
@[simp] theorem Hart.modVs_core_vs (x : Hart) (f : VState → VState) : (x.modVs f).core.vs = f x.core.vs := rfl
@[simp] theorem Hart.setSt_lanes (x : Hart) (st : HState) : (x.setSt st).lanes = x.lanes := rfl
@[simp] theorem Hart.setSt_sys (x : Hart) (st : HState) : (x.setSt st).sys = x.sys := rfl
@[simp] theorem Hart.setSt_eng (x : Hart) (st : HState) : (x.setSt st).eng = x.eng := rfl
@[simp] theorem Hart.setSt_who (x : Hart) (st : HState) : (x.setSt st).who = x.who := rfl
@[simp] theorem Hart.setSt_windows (x : Hart) (st : HState) : (x.setSt st).windows = x.windows := rfl
@[simp] theorem Hart.setSt_pendErr (x : Hart) (st : HState) : (x.setSt st).pendErr = x.pendErr := rfl
@[simp] theorem Hart.setSt_caps (x : Hart) (st : HState) : (x.setSt st).caps = x.caps := rfl
@[simp] theorem Hart.setSt_gang (x : Hart) (st : HState) : (x.setSt st).gang = x.gang := rfl
@[simp] theorem Hart.setSt_arrival (x : Hart) (st : HState) : (x.setSt st).arrival = x.arrival := rfl
@[simp] theorem Hart.setSt_phases (x : Hart) (st : HState) : (x.setSt st).phases = x.phases := rfl
@[simp] theorem Hart.setSt_fetched (x : Hart) (st : HState) : (x.setSt st).fetched = x.fetched := rfl
@[simp] theorem Hart.setSt_counted (x : Hart) (st : HState) : (x.setSt st).counted = x.counted := rfl
@[simp] theorem Hart.setSt_deps (x : Hart) (st : HState) : (x.setSt st).deps = x.deps := rfl
@[simp] theorem Hart.setSt_inval (x : Hart) (st : HState) : (x.setSt st).inval = x.inval := rfl
@[simp] theorem Hart.setSt_irq (x : Hart) (st : HState) : (x.setSt st).irq = x.irq := rfl
@[simp] theorem Hart.setSt_frames (x : Hart) (st : HState) : (x.setSt st).frames = x.frames := rfl
@[simp] theorem Hart.setSt_nextId (x : Hart) (st : HState) : (x.setSt st).nextId = x.nextId := rfl
@[simp] theorem Hart.setSt_core_g (x : Hart) (st : HState) : (x.setSt st).core.g = x.core.g := rfl
@[simp] theorem Hart.setSt_core_gPoison (x : Hart) (st : HState) : (x.setSt st).core.gPoison = x.core.gPoison := rfl
@[simp] theorem Hart.setSt_core_pc (x : Hart) (st : HState) : (x.setSt st).core.pc = x.core.pc := rfl
@[simp] theorem Hart.setSt_core_mode (x : Hart) (st : HState) : (x.setSt st).core.mode = x.core.mode := rfl
@[simp] theorem Hart.setSt_core_vs (x : Hart) (st : HState) : (x.setSt st).core.vs = x.core.vs := rfl
@[simp] theorem Hart.setSt_core_loop (x : Hart) (st : HState) : (x.setSt st).core.loop = x.core.loop := rfl
@[simp] theorem Hart.setSt_core_fflags (x : Hart) (st : HState) : (x.setSt st).core.fflags = x.core.fflags := rfl
@[simp] theorem Hart.setSt_core_st (x : Hart) (st : HState) : (x.setSt st).core.st = st := rfl
@[simp] theorem Hart.raise_lanes (x : Hart) (fl : BitVec 5) : (x.raise fl).lanes = x.lanes := rfl
@[simp] theorem Hart.raise_sys (x : Hart) (fl : BitVec 5) : (x.raise fl).sys = x.sys := rfl
@[simp] theorem Hart.raise_eng (x : Hart) (fl : BitVec 5) : (x.raise fl).eng = x.eng := rfl
@[simp] theorem Hart.raise_who (x : Hart) (fl : BitVec 5) : (x.raise fl).who = x.who := rfl
@[simp] theorem Hart.raise_windows (x : Hart) (fl : BitVec 5) : (x.raise fl).windows = x.windows := rfl
@[simp] theorem Hart.raise_pendErr (x : Hart) (fl : BitVec 5) : (x.raise fl).pendErr = x.pendErr := rfl
@[simp] theorem Hart.raise_caps (x : Hart) (fl : BitVec 5) : (x.raise fl).caps = x.caps := rfl
@[simp] theorem Hart.raise_gang (x : Hart) (fl : BitVec 5) : (x.raise fl).gang = x.gang := rfl
@[simp] theorem Hart.raise_arrival (x : Hart) (fl : BitVec 5) : (x.raise fl).arrival = x.arrival := rfl
@[simp] theorem Hart.raise_phases (x : Hart) (fl : BitVec 5) : (x.raise fl).phases = x.phases := rfl
@[simp] theorem Hart.raise_fetched (x : Hart) (fl : BitVec 5) : (x.raise fl).fetched = x.fetched := rfl
@[simp] theorem Hart.raise_counted (x : Hart) (fl : BitVec 5) : (x.raise fl).counted = x.counted := rfl
@[simp] theorem Hart.raise_deps (x : Hart) (fl : BitVec 5) : (x.raise fl).deps = x.deps := rfl
@[simp] theorem Hart.raise_inval (x : Hart) (fl : BitVec 5) : (x.raise fl).inval = x.inval := rfl
@[simp] theorem Hart.raise_irq (x : Hart) (fl : BitVec 5) : (x.raise fl).irq = x.irq := rfl
@[simp] theorem Hart.raise_frames (x : Hart) (fl : BitVec 5) : (x.raise fl).frames = x.frames := rfl
@[simp] theorem Hart.raise_nextId (x : Hart) (fl : BitVec 5) : (x.raise fl).nextId = x.nextId := rfl
@[simp] theorem Hart.raise_core_st (x : Hart) (fl : BitVec 5) : (x.raise fl).core.st = x.core.st := rfl
@[simp] theorem Hart.raise_core_g (x : Hart) (fl : BitVec 5) : (x.raise fl).core.g = x.core.g := rfl
@[simp] theorem Hart.raise_core_gPoison (x : Hart) (fl : BitVec 5) : (x.raise fl).core.gPoison = x.core.gPoison := rfl
@[simp] theorem Hart.raise_core_pc (x : Hart) (fl : BitVec 5) : (x.raise fl).core.pc = x.core.pc := rfl
@[simp] theorem Hart.raise_core_mode (x : Hart) (fl : BitVec 5) : (x.raise fl).core.mode = x.core.mode := rfl
@[simp] theorem Hart.raise_core_vs (x : Hart) (fl : BitVec 5) : (x.raise fl).core.vs = x.core.vs := rfl
@[simp] theorem Hart.raise_core_loop (x : Hart) (fl : BitVec 5) : (x.raise fl).core.loop = x.core.loop := rfl
@[simp] theorem Hart.raise_core_fflags (x : Hart) (fl : BitVec 5) : (x.raise fl).core.fflags = x.core.fflags ||| fl := rfl
@[simp] theorem Hart.goto_lanes (x : Hart) (t : Word) : (x.goto t).lanes = x.lanes := rfl
@[simp] theorem Hart.goto_sys (x : Hart) (t : Word) : (x.goto t).sys = x.sys := rfl
@[simp] theorem Hart.goto_eng (x : Hart) (t : Word) : (x.goto t).eng = x.eng := rfl
@[simp] theorem Hart.goto_who (x : Hart) (t : Word) : (x.goto t).who = x.who := rfl
@[simp] theorem Hart.goto_windows (x : Hart) (t : Word) : (x.goto t).windows = x.windows := rfl
@[simp] theorem Hart.goto_pendErr (x : Hart) (t : Word) : (x.goto t).pendErr = x.pendErr := rfl
@[simp] theorem Hart.goto_caps (x : Hart) (t : Word) : (x.goto t).caps = x.caps := rfl
@[simp] theorem Hart.goto_gang (x : Hart) (t : Word) : (x.goto t).gang = x.gang := rfl
@[simp] theorem Hart.goto_arrival (x : Hart) (t : Word) : (x.goto t).arrival = x.arrival := rfl
@[simp] theorem Hart.goto_phases (x : Hart) (t : Word) : (x.goto t).phases = x.phases := rfl
@[simp] theorem Hart.goto_fetched (x : Hart) (t : Word) : (x.goto t).fetched = x.fetched := rfl
@[simp] theorem Hart.goto_counted (x : Hart) (t : Word) : (x.goto t).counted = x.counted := rfl
@[simp] theorem Hart.goto_deps (x : Hart) (t : Word) : (x.goto t).deps = x.deps := rfl
@[simp] theorem Hart.goto_inval (x : Hart) (t : Word) : (x.goto t).inval = x.inval := rfl
@[simp] theorem Hart.goto_irq (x : Hart) (t : Word) : (x.goto t).irq = x.irq := rfl
@[simp] theorem Hart.goto_frames (x : Hart) (t : Word) : (x.goto t).frames = x.frames := rfl
@[simp] theorem Hart.goto_nextId (x : Hart) (t : Word) : (x.goto t).nextId = x.nextId := rfl
@[simp] theorem Hart.goto_core_st (x : Hart) (t : Word) : (x.goto t).core.st = x.core.st := rfl
@[simp] theorem Hart.goto_core_g (x : Hart) (t : Word) : (x.goto t).core.g = x.core.g := rfl
@[simp] theorem Hart.goto_core_gPoison (x : Hart) (t : Word) : (x.goto t).core.gPoison = x.core.gPoison := rfl
@[simp] theorem Hart.goto_core_mode (x : Hart) (t : Word) : (x.goto t).core.mode = x.core.mode := rfl
@[simp] theorem Hart.goto_core_vs (x : Hart) (t : Word) : (x.goto t).core.vs = x.core.vs := rfl
@[simp] theorem Hart.goto_core_loop (x : Hart) (t : Word) : (x.goto t).core.loop = x.core.loop := rfl
@[simp] theorem Hart.goto_core_fflags (x : Hart) (t : Word) : (x.goto t).core.fflags = x.core.fflags := rfl
@[simp] theorem Hart.goto_core_pc (x : Hart) (t : Word) : (x.goto t).core.pc = t := rfl

/-! ## g registers (spec/03_registers.md Table 03.1) -/

@[simp] theorem Hart.readG_zero (x : Hart) : x.readG 0 = 0 := by simp [Hart.readG]
@[simp] theorem Hart.writeG_zero (x : Hart) (v : Word) : x.writeG 0 v = x := by simp [Hart.writeG]

theorem Hart.readG_writeG_same (x : Hart) {r : Reg} (v : Word) (h : r ≠ 0) : (x.writeG r v).readG r = v := by
  unfold Hart.writeG
  rw [if_neg h]
  unfold Hart.readG
  rw [if_neg h]
  simp

theorem Hart.readG_writeG_other (x : Hart) {r q : Reg} (v : Word) (h : q ≠ r) : (x.writeG r v).readG q = x.readG q := by
  have hn : r.toNat ≠ q.toNat := fun e => h (BitVec.eq_of_toNat_eq e.symm)
  unfold Hart.writeG Hart.readG
  split
  · rfl
  · split
    · rfl
    · simp [hn]

@[simp] theorem Hart.writeG_lanes (x : Hart) (r : Reg) (v : Word) : (x.writeG r v).lanes = x.lanes := by unfold Hart.writeG; split <;> rfl
@[simp] theorem Hart.writeG_sys (x : Hart) (r : Reg) (v : Word) : (x.writeG r v).sys = x.sys := by unfold Hart.writeG; split <;> rfl
@[simp] theorem Hart.writeG_eng (x : Hart) (r : Reg) (v : Word) : (x.writeG r v).eng = x.eng := by unfold Hart.writeG; split <;> rfl
@[simp] theorem Hart.writeG_who (x : Hart) (r : Reg) (v : Word) : (x.writeG r v).who = x.who := by unfold Hart.writeG; split <;> rfl
@[simp] theorem Hart.writeG_windows (x : Hart) (r : Reg) (v : Word) : (x.writeG r v).windows = x.windows := by unfold Hart.writeG; split <;> rfl
@[simp] theorem Hart.writeG_pendErr (x : Hart) (r : Reg) (v : Word) : (x.writeG r v).pendErr = x.pendErr := by unfold Hart.writeG; split <;> rfl
@[simp] theorem Hart.writeG_gang (x : Hart) (r : Reg) (v : Word) : (x.writeG r v).gang = x.gang := by unfold Hart.writeG; split <;> rfl
@[simp] theorem Hart.writeG_arrival (x : Hart) (r : Reg) (v : Word) : (x.writeG r v).arrival = x.arrival := by unfold Hart.writeG; split <;> rfl
@[simp] theorem Hart.writeG_phases (x : Hart) (r : Reg) (v : Word) : (x.writeG r v).phases = x.phases := by unfold Hart.writeG; split <;> rfl
@[simp] theorem Hart.writeG_fetched (x : Hart) (r : Reg) (v : Word) : (x.writeG r v).fetched = x.fetched := by unfold Hart.writeG; split <;> rfl
@[simp] theorem Hart.writeG_counted (x : Hart) (r : Reg) (v : Word) : (x.writeG r v).counted = x.counted := by unfold Hart.writeG; split <;> rfl
@[simp] theorem Hart.writeG_deps (x : Hart) (r : Reg) (v : Word) : (x.writeG r v).deps = x.deps := by unfold Hart.writeG; split <;> rfl
@[simp] theorem Hart.writeG_inval (x : Hart) (r : Reg) (v : Word) : (x.writeG r v).inval = x.inval := by unfold Hart.writeG; split <;> rfl
@[simp] theorem Hart.writeG_irq (x : Hart) (r : Reg) (v : Word) : (x.writeG r v).irq = x.irq := by unfold Hart.writeG; split <;> rfl
@[simp] theorem Hart.writeG_frames (x : Hart) (r : Reg) (v : Word) : (x.writeG r v).frames = x.frames := by unfold Hart.writeG; split <;> rfl
@[simp] theorem Hart.writeG_nextId (x : Hart) (r : Reg) (v : Word) : (x.writeG r v).nextId = x.nextId := by unfold Hart.writeG; split <;> rfl
@[simp] theorem Hart.writeG_core_st (x : Hart) (r : Reg) (v : Word) : (x.writeG r v).core.st = x.core.st := by
  unfold Hart.writeG; split <;> rfl
@[simp] theorem Hart.writeG_core_pc (x : Hart) (r : Reg) (v : Word) : (x.writeG r v).core.pc = x.core.pc := by
  unfold Hart.writeG; split <;> rfl
@[simp] theorem Hart.writeG_core_mode (x : Hart) (r : Reg) (v : Word) : (x.writeG r v).core.mode = x.core.mode := by
  unfold Hart.writeG; split <;> rfl
@[simp] theorem Hart.writeG_core_vs (x : Hart) (r : Reg) (v : Word) : (x.writeG r v).core.vs = x.core.vs := by
  unfold Hart.writeG; split <;> rfl
@[simp] theorem Hart.writeG_core_loop (x : Hart) (r : Reg) (v : Word) : (x.writeG r v).core.loop = x.core.loop := by
  unfold Hart.writeG; split <;> rfl
@[simp] theorem Hart.writeG_core_fflags (x : Hart) (r : Reg) (v : Word) : (x.writeG r v).core.fflags = x.core.fflags := by
  unfold Hart.writeG; split <;> rfl

end Sys2Proof.Machine
end

