-- ==== Sys2Proof/Laws/Done.lean ====
section
/-! SUPPORT. What completing an instruction does (State.done, doneAt, doneLa, doneAwait), and what a source register that
is not poisoned does (State.withG). -/

namespace Sys2Proof.Machine

open Sys2Proof Sys2Proof.Safety

theorem OnlyMe.refl (s : State) : OnlyMe s s := ⟨fun _ _ => rfl, fun _ => rfl, rfl⟩

theorem OnlyMe.cur {s t : State} (h : OnlyMe s t) : t.cur = s.cur := by
  have := congrArg State.cur h.rest; simpa using this

theorem OnlyMe.phys {s t : State} (h : OnlyMe s t) : t.phys = s.phys := by
  have := congrArg State.phys h.rest; simpa using this

theorem OnlyMe.net {s t : State} (h : OnlyMe s t) : t.net = s.net := by
  have := congrArg State.net h.rest; simpa using this

/-- Counting an event changes nothing, or the event counters of the core. -/
theorem State.countEvent_cases (s : State) (c : Nat) (vi : BitVec 7) (e n : Nat) :
    s.countEvent c vi e n = s ∨ ∃ ev, s.countEvent c vi e n = s.setCore c { s.core c with events := ev } := by
  by_cases h : (s.core c).events.toList.all (fun e => e.event == 0) = true
  · exact .inl (if_pos h)
  · exact .inr ⟨_, if_neg h⟩

/-- Counting a completion changes nothing, or the event counters of the hart's core. -/
theorem State.countDone_cases (s : State) (h : Nat) (x : Hart) :
    s.countDone h x = s ∨ ∃ ev, s.countDone h x = s.setCore (coreOf h) { s.core (coreOf h) with events := ev } := by
  unfold State.countDone
  split
  · exact .inl rfl
  · exact s.countEvent_cases _ _ _ _

@[simp] theorem State.hart_countDone (s : State) (k : Nat) (x : Hart) (h : Nat) : (s.countDone k x).hart h = s.hart h := by
  obtain h | ⟨_, h⟩ := s.countDone_cases k x <;> (rw [h]; try rfl)

@[simp] theorem State.me_countDone (s : State) (k : Nat) (x : Hart) : (s.countDone k x).me = s.me := by
  obtain h | ⟨_, h⟩ := s.countDone_cases k x <;> (rw [h]; try rfl)

theorem State.core_countDone (s : State) (h : Nat) (x : Hart) (k : Nat) :
    { (s.countDone h x).core k with events := (s.core k).events } = s.core k := by
  obtain hc | ⟨_, hc⟩ := s.countDone_cases h x <;> rw [hc]
  by_cases hk : k = coreOf h
  · subst hk; simp
  · rw [State.core_setCore_other _ _ hk]

/-- Counting a completion changes nothing but event counters of the cores. -/
theorem State.rest_countDone (s : State) (h : Nat) (x : Hart) (hs : Tab Hart) (cs : Tab Core) :
    { s.countDone h x with harts := hs, cores := cs } = { s with harts := hs, cores := cs } := by
  obtain hc | ⟨_, hc⟩ := s.countDone_cases h x <;> (rw [hc]; try rfl)

/-- A change of the current hart, counted. -/
theorem gives_modMe (s : State) (f : Hart → Hart) (c : Nat) (x : Hart) :
    Gives (.next ((s.modMe f).countDone c x)) s (f s.me) := by
  refine ⟨_, rfl, by simp, fun h hh => ?_, fun k => ?_, ?_⟩
  · rw [State.hart_countDone, State.hart_modMe_other _ _ hh]
  · exact State.core_countDone (s.modMe f) c x k
  · rw [State.rest_countDone]; rfl

/-- Everything that done can do. -/
theorem completes_done (s : State) (f : Hart → Hart) : Completes (s.done f) s (f s.me) :=
  gives_modMe s _ _ _

/-- Everything that doneAt can do. -/
theorem completes_doneAt (s : State) (t : Word) (f : Hart → Hart) : CompletesAt (s.doneAt t f) s t (f s.me) :=
  gives_modMe s _ _ _

/-- Everything that doneLa can do: results written at once, or a window that will write them. -/
theorem completes_doneLa (s : State) (la : BitVec 4) (gw : List (Reg × Word × Option Poison)) (vw : List VWrite)
    (fl : Flags) (f : Hart → Hart) (acc : Bool) :
    Completes (s.doneLa la gw vw fl f false acc) s (results (f s.me) s.me.core.pc la gw vw fl acc) :=
  completes_done s (fun x => results (f x) x.core.pc la gw vw fl acc)

/-- Clean source registers let the instruction read them. -/
theorem withG_clean (s : State) {rs : List Reg} (k : Hart → Out) (h : Clean s.me rs) : s.withG rs k = k s.me := by
  have hc : (s.me.caps.find? fun c => rs.any fun r => r.toNat == c.1) = none := by
    simp only [List.find?_eq_none, List.any_eq_true, beq_iff_eq, not_exists, not_and]
    exact fun c hc r hr => h.2 c hc r hr
  unfold State.withG
  rw [h.1, hc]

theorem clean_nil (x : Hart) : Clean x [] := ⟨rfl, fun _ _ _ h => absurd h List.not_mem_nil⟩

end Sys2Proof.Machine
end

