-- ==== Sys2Proof/Laws/Exec.lean ====
section
/-! SUPPORT. The meaning that exec calls for each instruction and event. -/

namespace Sys2Proof.Machine

open Sys2Proof

@[simp] theorem exec_nop (σ : State) : exec (.nop) σ = execNop σ := rfl
@[simp] theorem exec_li (d : Reg) (imm : Word) (σ : State) : exec (.li d imm) σ = execLi d imm σ := rfl
@[simp] theorem exec_mov (d : Reg) (a : Reg) (σ : State) : exec (.mov d a) σ = execMov d a σ := rfl
@[simp] theorem exec_add (d : Reg) (a : Reg) (b : Reg) (σ : State) : exec (.add d a b) σ = execAdd d a b σ := rfl
@[simp] theorem exec_addi (d : Reg) (a : Reg) (imm : Word) (σ : State) : exec (.addi d a imm) σ = execAddi d a imm σ := rfl
@[simp] theorem exec_sub (d : Reg) (a : Reg) (b : Reg) (σ : State) : exec (.sub d a b) σ = execSub d a b σ := rfl
@[simp] theorem exec_mul (d : Reg) (a : Reg) (b : Reg) (σ : State) : exec (.mul d a b) σ = execMul d a b σ := rfl
@[simp] theorem exec_mulh (d : Reg) (a : Reg) (b : Reg) (σ : State) : exec (.mulh d a b) σ = execMulh d a b σ := rfl
@[simp] theorem exec_mulhz (d : Reg) (a : Reg) (b : Reg) (σ : State) : exec (.mulhz d a b) σ = execMulhz d a b σ := rfl
@[simp] theorem exec_div (d : Reg) (a : Reg) (b : Reg) (la : BitVec 4) (σ : State) : exec (.div d a b la) σ = execDiv d a b la σ := rfl
@[simp] theorem exec_divz (d : Reg) (a : Reg) (b : Reg) (la : BitVec 4) (σ : State) : exec (.divz d a b la) σ = execDivz d a b la σ := rfl
@[simp] theorem exec_rem (d : Reg) (a : Reg) (b : Reg) (la : BitVec 4) (σ : State) : exec (.rem d a b la) σ = execRem d a b la σ := rfl
@[simp] theorem exec_remz (d : Reg) (a : Reg) (b : Reg) (la : BitVec 4) (σ : State) : exec (.remz d a b la) σ = execRemz d a b la σ := rfl
@[simp] theorem exec_and (d : Reg) (a : Reg) (b : Reg) (σ : State) : exec (.and d a b) σ = execAnd d a b σ := rfl
@[simp] theorem exec_andi (d : Reg) (a : Reg) (imm : Word) (σ : State) : exec (.andi d a imm) σ = execAndi d a imm σ := rfl
@[simp] theorem exec_or (d : Reg) (a : Reg) (b : Reg) (σ : State) : exec (.or d a b) σ = execOr d a b σ := rfl
@[simp] theorem exec_ori (d : Reg) (a : Reg) (imm : Word) (σ : State) : exec (.ori d a imm) σ = execOri d a imm σ := rfl
@[simp] theorem exec_xor (d : Reg) (a : Reg) (b : Reg) (σ : State) : exec (.xor d a b) σ = execXor d a b σ := rfl
@[simp] theorem exec_xori (d : Reg) (a : Reg) (imm : Word) (σ : State) : exec (.xori d a imm) σ = execXori d a imm σ := rfl
@[simp] theorem exec_andn (d : Reg) (a : Reg) (b : Reg) (σ : State) : exec (.andn d a b) σ = execAndn d a b σ := rfl
@[simp] theorem exec_shl (d : Reg) (a : Reg) (b : Reg) (σ : State) : exec (.shl d a b) σ = execShl d a b σ := rfl
@[simp] theorem exec_shli (d : Reg) (a : Reg) (sh : BitVec 6) (σ : State) : exec (.shli d a sh) σ = execShli d a sh σ := rfl
@[simp] theorem exec_shr (d : Reg) (a : Reg) (b : Reg) (σ : State) : exec (.shr d a b) σ = execShr d a b σ := rfl
@[simp] theorem exec_shri (d : Reg) (a : Reg) (sh : BitVec 6) (σ : State) : exec (.shri d a sh) σ = execShri d a sh σ := rfl
@[simp] theorem exec_sra (d : Reg) (a : Reg) (b : Reg) (σ : State) : exec (.sra d a b) σ = execSra d a b σ := rfl
@[simp] theorem exec_srai (d : Reg) (a : Reg) (sh : BitVec 6) (σ : State) : exec (.srai d a sh) σ = execSrai d a sh σ := rfl
@[simp] theorem exec_rotl (d : Reg) (a : Reg) (b : Reg) (σ : State) : exec (.rotl d a b) σ = execRotl d a b σ := rfl
@[simp] theorem exec_rotr (d : Reg) (a : Reg) (b : Reg) (σ : State) : exec (.rotr d a b) σ = execRotr d a b σ := rfl
@[simp] theorem exec_clz (d : Reg) (a : Reg) (σ : State) : exec (.clz d a) σ = execClz d a σ := rfl
@[simp] theorem exec_ctz (d : Reg) (a : Reg) (σ : State) : exec (.ctz d a) σ = execCtz d a σ := rfl
@[simp] theorem exec_popc (d : Reg) (a : Reg) (σ : State) : exec (.popc d a) σ = execPopc d a σ := rfl
@[simp] theorem exec_min (d : Reg) (a : Reg) (b : Reg) (σ : State) : exec (.min d a b) σ = execMin d a b σ := rfl
@[simp] theorem exec_max (d : Reg) (a : Reg) (b : Reg) (σ : State) : exec (.max d a b) σ = execMax d a b σ := rfl
@[simp] theorem exec_umin (d : Reg) (a : Reg) (b : Reg) (σ : State) : exec (.umin d a b) σ = execUmin d a b σ := rfl
@[simp] theorem exec_umax (d : Reg) (a : Reg) (b : Reg) (σ : State) : exec (.umax d a b) σ = execUmax d a b σ := rfl
@[simp] theorem exec_slt (d : Reg) (a : Reg) (b : Reg) (σ : State) : exec (.slt d a b) σ = execSlt d a b σ := rfl
@[simp] theorem exec_slo (d : Reg) (a : Reg) (b : Reg) (σ : State) : exec (.slo d a b) σ = execSlo d a b σ := rfl
@[simp] theorem exec_seq (d : Reg) (a : Reg) (b : Reg) (σ : State) : exec (.seq d a b) σ = execSeq d a b σ := rfl
@[simp] theorem exec_sel (d : Reg) (a : Reg) (b : Reg) (c : Reg) (σ : State) : exec (.sel d a b c) σ = execSel d a b c σ := rfl
@[simp] theorem exec_sext (d : Reg) (a : Reg) (n : BitVec 7) (σ : State) : exec (.sext d a n) σ = execSext d a n σ := rfl
@[simp] theorem exec_zext (d : Reg) (a : Reg) (n : BitVec 7) (σ : State) : exec (.zext d a n) σ = execZext d a n σ := rfl
@[simp] theorem exec_bfx (sg : Sign) (d : Reg) (a : Reg) (pos : BitVec 6) (len : BitVec 7) (σ : State) : exec (.bfx sg d a pos len) σ = execBfx sg d a pos len σ := rfl
@[simp] theorem exec_bfi (d : Reg) (a : Reg) (pos : BitVec 6) (len : BitVec 7) (σ : State) : exec (.bfi d a pos len) σ = execBfi d a pos len σ := rfl
@[simp] theorem exec_lea (d : Reg) (a : Reg) (b : Reg) (sh : BitVec 3) (imm : Word) (σ : State) : exec (.lea d a b sh imm) σ = execLea d a b sh imm σ := rfl
@[simp] theorem exec_bswap (d : Reg) (a : Reg) (σ : State) : exec (.bswap d a) σ = execBswap d a σ := rfl
@[simp] theorem exec_fadd (f : Fmt) (rm : RmF) (d : Reg) (a : Reg) (b : Reg) (σ : State) : exec (.fadd f rm d a b) σ = execFadd f rm d a b σ := rfl
@[simp] theorem exec_fsub (f : Fmt) (rm : RmF) (d : Reg) (a : Reg) (b : Reg) (σ : State) : exec (.fsub f rm d a b) σ = execFsub f rm d a b σ := rfl
@[simp] theorem exec_fmul (f : Fmt) (rm : RmF) (d : Reg) (a : Reg) (b : Reg) (σ : State) : exec (.fmul f rm d a b) σ = execFmul f rm d a b σ := rfl
@[simp] theorem exec_fma (f : Fmt) (rm : RmF) (d : Reg) (a : Reg) (b : Reg) (c : Reg) (σ : State) : exec (.fma f rm d a b c) σ = execFma f rm d a b c σ := rfl
@[simp] theorem exec_fms (f : Fmt) (rm : RmF) (d : Reg) (a : Reg) (b : Reg) (c : Reg) (σ : State) : exec (.fms f rm d a b c) σ = execFms f rm d a b c σ := rfl
@[simp] theorem exec_fnma (f : Fmt) (rm : RmF) (d : Reg) (a : Reg) (b : Reg) (c : Reg) (σ : State) : exec (.fnma f rm d a b c) σ = execFnma f rm d a b c σ := rfl
@[simp] theorem exec_fdiv (f : Fmt) (rm : RmF) (d : Reg) (a : Reg) (b : Reg) (la : BitVec 4) (σ : State) : exec (.fdiv f rm d a b la) σ = execFdiv f rm d a b la σ := rfl
@[simp] theorem exec_fsqrt (f : Fmt) (rm : RmF) (d : Reg) (a : Reg) (la : BitVec 4) (σ : State) : exec (.fsqrt f rm d a la) σ = execFsqrt f rm d a la σ := rfl
@[simp] theorem exec_fmin (f : Fmt) (d : Reg) (a : Reg) (b : Reg) (σ : State) : exec (.fmin f d a b) σ = execFmin f d a b σ := rfl
@[simp] theorem exec_fmax (f : Fmt) (d : Reg) (a : Reg) (b : Reg) (σ : State) : exec (.fmax f d a b) σ = execFmax f d a b σ := rfl
@[simp] theorem exec_fcmp (f : Fmt) (k : FCond) (d : Reg) (a : Reg) (b : Reg) (σ : State) : exec (.fcmp f k d a b) σ = execFcmp f k d a b σ := rfl
@[simp] theorem exec_fcvt (f : Fmt) (rm : RmF) (sf : Fmt) (d : Reg) (a : Reg) (σ : State) : exec (.fcvt f rm sf d a) σ = execFcvt f rm sf d a σ := rfl
@[simp] theorem exec_fcvti (f : Fmt) (rm : RmF) (ty : IntTy) (d : Reg) (a : Reg) (σ : State) : exec (.fcvti f rm ty d a) σ = execFcvti f rm ty d a σ := rfl
@[simp] theorem exec_icvtf (f : Fmt) (rm : RmF) (ty : IntTy) (d : Reg) (a : Reg) (σ : State) : exec (.icvtf f rm ty d a) σ = execIcvtf f rm ty d a σ := rfl
@[simp] theorem exec_fclass (f : Fmt) (d : Reg) (a : Reg) (σ : State) : exec (.fclass f d a) σ = execFclass f d a σ := rfl
@[simp] theorem exec_fsgn (f : Fmt) (k : SgnOp) (d : Reg) (a : Reg) (b : Reg) (σ : State) : exec (.fsgn f k d a b) σ = execFsgn f k d a b σ := rfl
@[simp] theorem exec_frnd (f : Fmt) (rm : RmF) (d : Reg) (a : Reg) (σ : State) : exec (.frnd f rm d a) σ = execFrnd f rm d a σ := rfl
@[simp] theorem exec_jmp (imm : Word) (σ : State) : exec (.jmp imm) σ = execJmp imm σ := rfl
@[simp] theorem exec_jr (a : Reg) (imm : Word) (σ : State) : exec (.jr a imm) σ = execJr a imm σ := rfl
@[simp] theorem exec_br (k : Cond) (a : Reg) (b : Reg) (imm : Word) (σ : State) : exec (.br k a b imm) σ = execBr k a b imm σ := rfl
@[simp] theorem exec_bz (a : Reg) (imm : Word) (σ : State) : exec (.bz a imm) σ = execBz a imm σ := rfl
@[simp] theorem exec_bnz (a : Reg) (imm : Word) (σ : State) : exec (.bnz a imm) σ = execBnz a imm σ := rfl
@[simp] theorem exec_bvf (k : VfCond) (imm : Word) (σ : State) : exec (.bvf k imm) σ = execBvf k imm σ := rfl
@[simp] theorem exec_call (imm : Word) (σ : State) : exec (.call imm) σ = execCall imm σ := rfl
@[simp] theorem exec_callr (a : Reg) (imm : Word) (σ : State) : exec (.callr a imm) σ = execCallr a imm σ := rfl
@[simp] theorem exec_ret (σ : State) : exec (.ret) σ = execRet σ := rfl
@[simp] theorem exec_loop (a : Reg) (n : BitVec 4) (σ : State) : exec (.loop a n) σ = execLoop a n σ := rfl
@[simp] theorem exec_exit (σ : State) : exec (.exit) σ = execExit σ := rfl
@[simp] theorem exec_ld (w : BitVec 2) (sx : Bool) (d : Reg) (a : Reg) (b : Reg) (imm : Word) (la : BitVec 4) (σ : State) : exec (.ld w sx d a b imm la) σ = execLd w sx d a b imm la σ := rfl
@[simp] theorem exec_st (w : BitVec 2) (d : Reg) (a : Reg) (b : Reg) (imm : Word) (la : BitVec 4) (σ : State) : exec (.st w d a b imm la) σ = execSt w d a b imm la σ := rfl
@[simp] theorem exec_ldAcq (w : BitVec 2) (sx : Bool) (sc : BitVec 2) (d : Reg) (a : Reg) (b : Reg) (imm : Word) (la : BitVec 4) (σ : State) : exec (.ldAcq w sx sc d a b imm la) σ = execLdAcq w sx sc d a b imm la σ := rfl
@[simp] theorem exec_stRel (w : BitVec 2) (sc : BitVec 2) (d : Reg) (a : Reg) (b : Reg) (imm : Word) (la : BitVec 4) (σ : State) : exec (.stRel w sc d a b imm la) σ = execStRel w sc d a b imm la σ := rfl
@[simp] theorem exec_amo (op : AmoOp) (w : BitVec 2) (cmb : Bool) (d : Reg) (a : Reg) (b : Reg) (sc : BitVec 2) (acq : Bool) (rel : Bool) (imm : Word) (la : BitVec 4) (σ : State) : exec (.amo op w cmb d a b sc acq rel imm la) σ = execAmo op w cmb d a b sc acq rel imm la σ := rfl
@[simp] theorem exec_cas (w : BitVec 2) (d : Reg) (a : Reg) (b : Reg) (c : Reg) (sc : BitVec 2) (acq : Bool) (rel : Bool) (imm : Word) (la : BitVec 4) (σ : State) : exec (.cas w d a b c sc acq rel imm la) σ = execCas w d a b c sc acq rel imm la σ := rfl
@[simp] theorem exec_ldP (w : BitVec 2) (sx : Bool) (d : Reg) (a : Reg) (b : Reg) (imm : Word) (la : BitVec 4) (σ : State) : exec (.ldP w sx d a b imm la) σ = execLdP w sx d a b imm la σ := rfl
@[simp] theorem exec_stP (w : BitVec 2) (d : Reg) (a : Reg) (b : Reg) (imm : Word) (la : BitVec 4) (σ : State) : exec (.stP w d a b imm la) σ = execStP w d a b imm la σ := rfl
@[simp] theorem exec_ldL (w : BitVec 2) (sx : Bool) (d : Reg) (a : Reg) (b : Reg) (imm : Word) (la : BitVec 4) (σ : State) : exec (.ldL w sx d a b imm la) σ = execLdL w sx d a b imm la σ := rfl
@[simp] theorem exec_stL (w : BitVec 2) (d : Reg) (a : Reg) (b : Reg) (imm : Word) (la : BitVec 4) (σ : State) : exec (.stL w d a b imm la) σ = execStL w d a b imm la σ := rfl
@[simp] theorem exec_pf (l2 : Bool) (a : Reg) (b : Reg) (imm : Word) (la : BitVec 4) (σ : State) : exec (.pf l2 a b imm la) σ = execPf l2 a b imm la σ := rfl
@[simp] theorem exec_cflush (a : Reg) (b : Reg) (imm : Word) (la : BitVec 4) (σ : State) : exec (.cflush a b imm la) σ = execCflush a b imm la σ := rfl
@[simp] theorem exec_cinv (a : Reg) (b : Reg) (imm : Word) (la : BitVec 4) (σ : State) : exec (.cinv a b imm la) σ = execCinv a b imm la σ := rfl
@[simp] theorem exec_cpin (d : Reg) (a : Reg) (b : Reg) (imm : Word) (la : BitVec 4) (σ : State) : exec (.cpin d a b imm la) σ = execCpin d a b imm la σ := rfl
@[simp] theorem exec_cunpin (d : Reg) (a : Reg) (b : Reg) (imm : Word) (la : BitVec 4) (σ : State) : exec (.cunpin d a b imm la) σ = execCunpin d a b imm la σ := rfl
@[simp] theorem exec_setvl (keep : Bool) (d : Reg) (a : Reg) (ew : Ew) (grp : BitVec 2) (σ : State) : exec (.setvl keep d a ew grp) σ = execSetvl keep d a ew grp σ := rfl
@[simp] theorem exec_vcfg (which : BitVec 4) (d : Reg) (a : Reg) (ew : BitVec 3) (grp : BitVec 2) (sc : BitVec 2) (rm : BitVec 3) (σ : State) : exec (.vcfg which d a ew grp sc rm) σ = execVcfg which d a ew grp sc rm σ := rfl
@[simp] theorem exec_vmpush (c : Reg) (inv : Bool) (σ : State) : exec (.vmpush c inv) σ = execVmpush c inv σ := rfl
@[simp] theorem exec_vmelse (σ : State) : exec (.vmelse) σ = execVmelse σ := rfl
@[simp] theorem exec_vmpop (σ : State) : exec (.vmpop) σ = execVmpop σ := rfl
@[simp] theorem exec_vmall (σ : State) : exec (.vmall) σ = execVmall σ := rfl
@[simp] theorem exec_forkLanes (d : Reg) (imm : Word) (σ : State) : exec (.forkLanes d imm) σ = execForkLanes d imm σ := rfl
@[simp] theorem exec_joinLanes (σ : State) : exec (.joinLanes) σ = execJoinLanes σ := rfl
@[simp] theorem exec_vclaim (σ : State) : exec (.vclaim) σ = execVclaim σ := rfl
@[simp] theorem exec_vadd (d : Reg) (a : Reg) (b : VSrc) (m : Mask) (σ : State) : exec (.vadd d a b m) σ = execVadd d a b m σ := rfl
@[simp] theorem exec_vsub (d : Reg) (a : Reg) (b : VSrc) (m : Mask) (σ : State) : exec (.vsub d a b m) σ = execVsub d a b m σ := rfl
@[simp] theorem exec_vadc (d : Reg) (a : Reg) (b : VSrc) (c : Reg) (σ : State) : exec (.vadc d a b c) σ = execVadc d a b c σ := rfl
@[simp] theorem exec_vmadc (d : Reg) (a : Reg) (b : VSrc) (c : Reg) (σ : State) : exec (.vmadc d a b c) σ = execVmadc d a b c σ := rfl
@[simp] theorem exec_vsbc (d : Reg) (a : Reg) (b : VSrc) (c : Reg) (σ : State) : exec (.vsbc d a b c) σ = execVsbc d a b c σ := rfl
@[simp] theorem exec_vmsbc (d : Reg) (a : Reg) (b : VSrc) (c : Reg) (σ : State) : exec (.vmsbc d a b c) σ = execVmsbc d a b c σ := rfl
@[simp] theorem exec_vmul (d : Reg) (a : Reg) (b : VSrc) (m : Mask) (σ : State) : exec (.vmul d a b m) σ = execVmul d a b m σ := rfl
@[simp] theorem exec_vmulh (d : Reg) (a : Reg) (b : VSrc) (m : Mask) (σ : State) : exec (.vmulh d a b m) σ = execVmulh d a b m σ := rfl
@[simp] theorem exec_vmulhz (d : Reg) (a : Reg) (b : VSrc) (m : Mask) (σ : State) : exec (.vmulhz d a b m) σ = execVmulhz d a b m σ := rfl
@[simp] theorem exec_vmacc (d : Reg) (a : Reg) (b : VSrc) (m : Mask) (σ : State) : exec (.vmacc d a b m) σ = execVmacc d a b m σ := rfl
@[simp] theorem exec_vdiv (d : Reg) (a : Reg) (b : VSrc) (m : Mask) (la : BitVec 4) (σ : State) : exec (.vdiv d a b m la) σ = execVdiv d a b m la σ := rfl
@[simp] theorem exec_vdivz (d : Reg) (a : Reg) (b : VSrc) (m : Mask) (la : BitVec 4) (σ : State) : exec (.vdivz d a b m la) σ = execVdivz d a b m la σ := rfl
@[simp] theorem exec_vrem (sg : Sign) (d : Reg) (a : Reg) (b : VSrc) (m : Mask) (la : BitVec 4) (σ : State) : exec (.vrem sg d a b m la) σ = execVrem sg d a b m la σ := rfl
@[simp] theorem exec_vand (d : Reg) (a : Reg) (b : VSrc) (m : Mask) (σ : State) : exec (.vand d a b m) σ = execVand d a b m σ := rfl
@[simp] theorem exec_vor (d : Reg) (a : Reg) (b : VSrc) (m : Mask) (σ : State) : exec (.vor d a b m) σ = execVor d a b m σ := rfl
@[simp] theorem exec_vxor (d : Reg) (a : Reg) (b : VSrc) (m : Mask) (σ : State) : exec (.vxor d a b m) σ = execVxor d a b m σ := rfl
@[simp] theorem exec_vshl (d : Reg) (a : Reg) (b : VSrc) (m : Mask) (σ : State) : exec (.vshl d a b m) σ = execVshl d a b m σ := rfl
@[simp] theorem exec_vshr (d : Reg) (a : Reg) (b : VSrc) (m : Mask) (σ : State) : exec (.vshr d a b m) σ = execVshr d a b m σ := rfl
@[simp] theorem exec_vsra (d : Reg) (a : Reg) (b : VSrc) (m : Mask) (σ : State) : exec (.vsra d a b m) σ = execVsra d a b m σ := rfl
@[simp] theorem exec_vmin (d : Reg) (a : Reg) (b : VSrc) (m : Mask) (σ : State) : exec (.vmin d a b m) σ = execVmin d a b m σ := rfl
@[simp] theorem exec_vmax (d : Reg) (a : Reg) (b : VSrc) (m : Mask) (σ : State) : exec (.vmax d a b m) σ = execVmax d a b m σ := rfl
@[simp] theorem exec_vumin (d : Reg) (a : Reg) (b : VSrc) (m : Mask) (σ : State) : exec (.vumin d a b m) σ = execVumin d a b m σ := rfl
@[simp] theorem exec_vumax (d : Reg) (a : Reg) (b : VSrc) (m : Mask) (σ : State) : exec (.vumax d a b m) σ = execVumax d a b m σ := rfl
@[simp] theorem exec_vcmp (k : Cond) (d : Reg) (a : Reg) (b : VSrc) (m : Mask) (σ : State) : exec (.vcmp k d a b m) σ = execVcmp k d a b m σ := rfl
@[simp] theorem exec_vsel (d : Reg) (a : Reg) (b : VSrc) (c : Reg) (inv : Bool) (σ : State) : exec (.vsel d a b c inv) σ = execVsel d a b c inv σ := rfl
@[simp] theorem exec_vmov (d : Reg) (b : VSrc) (m : Mask) (σ : State) : exec (.vmov d b m) σ = execVmov d b m σ := rfl
@[simp] theorem exec_vid (d : Reg) (m : Mask) (σ : State) : exec (.vid d m) σ = execVid d m σ := rfl
@[simp] theorem exec_vcvti (sg : Sign) (sat : Bool) (sw : Ew) (d : Reg) (a : Reg) (m : Mask) (σ : State) : exec (.vcvti sg sat sw d a m) σ = execVcvti sg sat sw d a m σ := rfl
@[simp] theorem exec_vpopc (d : Reg) (a : Reg) (m : Mask) (σ : State) : exec (.vpopc d a m) σ = execVpopc d a m σ := rfl
@[simp] theorem exec_vfirst (d : Reg) (a : Reg) (m : Mask) (σ : State) : exec (.vfirst d a m) σ = execVfirst d a m σ := rfl
@[simp] theorem exec_vlast (d : Reg) (a : Reg) (m : Mask) (σ : State) : exec (.vlast d a m) σ = execVlast d a m σ := rfl
@[simp] theorem exec_vsadd (sg : Sign) (d : Reg) (a : Reg) (b : VSrc) (m : Mask) (σ : State) : exec (.vsadd sg d a b m) σ = execVsadd sg d a b m σ := rfl
@[simp] theorem exec_vssub (sg : Sign) (d : Reg) (a : Reg) (b : VSrc) (m : Mask) (σ : State) : exec (.vssub sg d a b m) σ = execVssub sg d a b m σ := rfl
@[simp] theorem exec_vfadd (f : Fmt) (rm : RmF) (d : Reg) (a : Reg) (b : VSrc) (m : Mask) (σ : State) : exec (.vfadd f rm d a b m) σ = execVfadd f rm d a b m σ := rfl
@[simp] theorem exec_vfsub (f : Fmt) (rm : RmF) (d : Reg) (a : Reg) (b : VSrc) (m : Mask) (σ : State) : exec (.vfsub f rm d a b m) σ = execVfsub f rm d a b m σ := rfl
@[simp] theorem exec_vfmul (f : Fmt) (rm : RmF) (d : Reg) (a : Reg) (b : VSrc) (m : Mask) (σ : State) : exec (.vfmul f rm d a b m) σ = execVfmul f rm d a b m σ := rfl
@[simp] theorem exec_vfma (f : Fmt) (rm : RmF) (d : Reg) (a : Reg) (b : VSrc) (m : Mask) (σ : State) : exec (.vfma f rm d a b m) σ = execVfma f rm d a b m σ := rfl
@[simp] theorem exec_vfms (f : Fmt) (rm : RmF) (d : Reg) (a : Reg) (b : VSrc) (m : Mask) (σ : State) : exec (.vfms f rm d a b m) σ = execVfms f rm d a b m σ := rfl
@[simp] theorem exec_vfnma (f : Fmt) (rm : RmF) (d : Reg) (a : Reg) (b : VSrc) (m : Mask) (σ : State) : exec (.vfnma f rm d a b m) σ = execVfnma f rm d a b m σ := rfl
@[simp] theorem exec_vfdiv (f : Fmt) (rm : RmF) (d : Reg) (a : Reg) (b : VSrc) (m : Mask) (la : BitVec 4) (σ : State) : exec (.vfdiv f rm d a b m la) σ = execVfdiv f rm d a b m la σ := rfl
@[simp] theorem exec_vfsqrt (f : Fmt) (rm : RmF) (d : Reg) (a : Reg) (m : Mask) (la : BitVec 4) (σ : State) : exec (.vfsqrt f rm d a m la) σ = execVfsqrt f rm d a m la σ := rfl
@[simp] theorem exec_vfrsqe (f : Fmt) (d : Reg) (a : Reg) (m : Mask) (σ : State) : exec (.vfrsqe f d a m) σ = execVfrsqe f d a m σ := rfl
@[simp] theorem exec_vfrece (f : Fmt) (d : Reg) (a : Reg) (m : Mask) (σ : State) : exec (.vfrece f d a m) σ = execVfrece f d a m σ := rfl
@[simp] theorem exec_vfmin (f : Fmt) (d : Reg) (a : Reg) (b : VSrc) (m : Mask) (σ : State) : exec (.vfmin f d a b m) σ = execVfmin f d a b m σ := rfl
@[simp] theorem exec_vfmax (f : Fmt) (d : Reg) (a : Reg) (b : VSrc) (m : Mask) (σ : State) : exec (.vfmax f d a b m) σ = execVfmax f d a b m σ := rfl
@[simp] theorem exec_vfcmp (f : Fmt) (k : FCond) (d : Reg) (a : Reg) (b : VSrc) (m : Mask) (σ : State) : exec (.vfcmp f k d a b m) σ = execVfcmp f k d a b m σ := rfl
@[simp] theorem exec_vfcvt (f : Fmt) (rm : RmF) (sf : Fmt) (d : Reg) (a : Reg) (m : Mask) (σ : State) : exec (.vfcvt f rm sf d a m) σ = execVfcvt f rm sf d a m σ := rfl
@[simp] theorem exec_vfcvti (f : Fmt) (rm : RmF) (u : Bool) (d : Reg) (a : Reg) (m : Mask) (σ : State) : exec (.vfcvti f rm u d a m) σ = execVfcvti f rm u d a m σ := rfl
@[simp] theorem exec_vicvtf (f : Fmt) (rm : RmF) (u : Bool) (d : Reg) (a : Reg) (m : Mask) (σ : State) : exec (.vicvtf f rm u d a m) σ = execVicvtf f rm u d a m σ := rfl
@[simp] theorem exec_vfclass (f : Fmt) (d : Reg) (a : Reg) (m : Mask) (σ : State) : exec (.vfclass f d a m) σ = execVfclass f d a m σ := rfl
@[simp] theorem exec_vfsgn (f : Fmt) (k : SgnOp) (d : Reg) (a : Reg) (b : VSrc) (m : Mask) (σ : State) : exec (.vfsgn f k d a b m) σ = execVfsgn f k d a b m σ := rfl
@[simp] theorem exec_vfrnd (f : Fmt) (rm : RmF) (d : Reg) (a : Reg) (m : Mask) (σ : State) : exec (.vfrnd f rm d a m) σ = execVfrnd f rm d a m σ := rfl
@[simp] theorem exec_vslideup (d : Reg) (a : Reg) (off : SlideOff) (pair : Bool) (m : Mask) (σ : State) : exec (.vslideup d a off pair m) σ = execVslideup d a off pair m σ := rfl
@[simp] theorem exec_vslidedn (d : Reg) (a : Reg) (off : SlideOff) (pair : Bool) (m : Mask) (σ : State) : exec (.vslidedn d a off pair m) σ = execVslidedn d a off pair m σ := rfl
@[simp] theorem exec_vgatherR (d : Reg) (a : Reg) (b : Reg) (pair : Bool) (m : Mask) (σ : State) : exec (.vgatherR d a b pair m) σ = execVgatherR d a b pair m σ := rfl
@[simp] theorem exec_vcompress (d : Reg) (a : Reg) (pair : Bool) (m : Mask) (σ : State) : exec (.vcompress d a pair m) σ = execVcompress d a pair m σ := rfl
@[simp] theorem exec_vexpand (d : Reg) (a : Reg) (pair : Bool) (m : Mask) (σ : State) : exec (.vexpand d a pair m) σ = execVexpand d a pair m σ := rfl
@[simp] theorem exec_vredadd (sg : Sign) (d : Reg) (a : Reg) (b : Reg) (m : Mask) (σ : State) : exec (.vredadd sg d a b m) σ = execVredadd sg d a b m σ := rfl
@[simp] theorem exec_vredmax (sg : Sign) (d : Reg) (a : Reg) (b : Reg) (m : Mask) (σ : State) : exec (.vredmax sg d a b m) σ = execVredmax sg d a b m σ := rfl
@[simp] theorem exec_vredmin (sg : Sign) (d : Reg) (a : Reg) (b : Reg) (m : Mask) (σ : State) : exec (.vredmin sg d a b m) σ = execVredmin sg d a b m σ := rfl
@[simp] theorem exec_vfredadd (f : Fmt) (rm : RmF) (tree : Bool) (d : Reg) (a : Reg) (b : Reg) (m : Mask) (σ : State) : exec (.vfredadd f rm tree d a b m) σ = execVfredadd f rm tree d a b m σ := rfl
@[simp] theorem exec_vfredmax (f : Fmt) (d : Reg) (a : Reg) (b : Reg) (m : Mask) (σ : State) : exec (.vfredmax f d a b m) σ = execVfredmax f d a b m σ := rfl
@[simp] theorem exec_vfredmin (f : Fmt) (d : Reg) (a : Reg) (b : Reg) (m : Mask) (σ : State) : exec (.vfredmin f d a b m) σ = execVfredmin f d a b m σ := rfl
@[simp] theorem exec_vbfly (f : Fmt) (rm : RmF) (d : Reg) (a : Reg) (dist : BitVec 14) (m : Mask) (σ : State) : exec (.vbfly f rm d a dist m) σ = execVbfly f rm d a dist m σ := rfl
@[simp] theorem exec_vextr (sg : Sign) (d : Reg) (a : Reg) (b : Reg) (σ : State) : exec (.vextr sg d a b) σ = execVextr sg d a b σ := rfl
@[simp] theorem exec_vinsr (d : Reg) (a : Reg) (b : Reg) (σ : State) : exec (.vinsr d a b) σ = execVinsr d a b σ := rfl
@[simp] theorem exec_vld (d : Reg) (a : Reg) (b : Reg) (imm : Word) (m : Mask) (la : BitVec 4) (σ : State) : exec (.vld d a b imm m la) σ = execVld d a b imm m la σ := rfl
@[simp] theorem exec_vst (d : Reg) (a : Reg) (b : Reg) (imm : Word) (m : Mask) (la : BitVec 4) (σ : State) : exec (.vst d a b imm m la) σ = execVst d a b imm m la σ := rfl
@[simp] theorem exec_vlds (d : Reg) (a : Reg) (b : Reg) (imm : Word) (m : Mask) (la : BitVec 4) (σ : State) : exec (.vlds d a b imm m la) σ = execVlds d a b imm m la σ := rfl
@[simp] theorem exec_vsts (d : Reg) (a : Reg) (b : Reg) (imm : Word) (m : Mask) (la : BitVec 4) (σ : State) : exec (.vsts d a b imm m la) σ = execVsts d a b imm m la σ := rfl
@[simp] theorem exec_vldx (d : Reg) (a : Reg) (b : Reg) (iw : Ew) (scale : BitVec 2) (m : Mask) (la : BitVec 4) (σ : State) : exec (.vldx d a b iw scale m la) σ = execVldx d a b iw scale m la σ := rfl
@[simp] theorem exec_vstx (d : Reg) (a : Reg) (b : Reg) (iw : Ew) (scale : BitVec 2) (m : Mask) (la : BitVec 4) (σ : State) : exec (.vstx d a b iw scale m la) σ = execVstx d a b iw scale m la σ := rfl
@[simp] theorem exec_vldL (d : Reg) (a : Reg) (b : Reg) (imm : Word) (m : Mask) (la : BitVec 4) (σ : State) : exec (.vldL d a b imm m la) σ = execVldL d a b imm m la σ := rfl
@[simp] theorem exec_vstL (d : Reg) (a : Reg) (b : Reg) (imm : Word) (m : Mask) (la : BitVec 4) (σ : State) : exec (.vstL d a b imm m la) σ = execVstL d a b imm m la σ := rfl
@[simp] theorem exec_vldxL (d : Reg) (a : Reg) (b : Reg) (iw : Ew) (scale : BitVec 2) (m : Mask) (la : BitVec 4) (σ : State) : exec (.vldxL d a b iw scale m la) σ = execVldxL d a b iw scale m la σ := rfl
@[simp] theorem exec_vstxL (d : Reg) (a : Reg) (b : Reg) (iw : Ew) (scale : BitVec 2) (m : Mask) (la : BitVec 4) (σ : State) : exec (.vstxL d a b iw scale m la) σ = execVstxL d a b iw scale m la σ := rfl
@[simp] theorem exec_vpgather (d : Reg) (b : Reg) (f : BitVec 6) (m : Mask) (la : BitVec 4) (σ : State) : exec (.vpgather d b f m la) σ = execVpgather d b f m la σ := rfl
@[simp] theorem exec_vpscatter (d : Reg) (b : Reg) (f : BitVec 6) (m : Mask) (la : BitVec 4) (σ : State) : exec (.vpscatter d b f m la) σ = execVpscatter d b f m la σ := rfl
@[simp] theorem exec_vstP (d : Reg) (a : Reg) (b : Reg) (imm : Word) (m : Mask) (la : BitVec 4) (σ : State) : exec (.vstP d a b imm m la) σ = execVstP d a b imm m la σ := rfl
@[simp] theorem exec_vamo (op : AmoOp) (cmb : Bool) (d : Reg) (a : Reg) (b : Reg) (iw : Ew) (scale : BitVec 2) (acq : Bool) (rel : Bool) (m : Mask) (la : BitVec 4) (σ : State) : exec (.vamo op cmb d a b iw scale acq rel m la) σ = execVamo op cmb d a b iw scale acq rel m la σ := rfl
@[simp] theorem exec_vldxM (d : Reg) (a : Reg) (b : Reg) (iw : Ew) (scale : BitVec 2) (f : BitVec 6) (m : Mask) (la : BitVec 4) (σ : State) : exec (.vldxM d a b iw scale f m la) σ = execVldxM d a b iw scale f m la σ := rfl
@[simp] theorem exec_mclr (t : BitVec 3) (σ : State) : exec (.mclr t) σ = execMclr t σ := rfl
@[simp] theorem exec_mldT (f : TFmt) (t : BitVec 3) (a : Reg) (b : Reg) (sp : Bool) (imm : Word) (la : BitVec 4) (σ : State) : exec (.mldT f t a b sp imm la) σ = execMldT f t a b sp imm la σ := rfl
@[simp] theorem exec_mstT (f : TFmt) (rm : RmF) (sat : Bool) (t : BitVec 3) (a : Reg) (b : Reg) (sp : Bool) (imm : Word) (la : BitVec 4) (σ : State) : exec (.mstT f rm sat t a b sp imm la) σ = execMstT f rm sat t a b sp imm la σ := rfl
@[simp] theorem exec_mldW (slot : BitVec 2) (panel : BitVec 4) (form : WForm) (scl : Bool) (a : Reg) (b : Reg) (sp : Bool) (imm : Word) (la : BitVec 4) (σ : State) : exec (.mldW slot panel form scl a b sp imm la) σ = execMldW slot panel form scl a b sp imm la σ := rfl
@[simp] theorem exec_mma (f : MFmt) (sat : Bool) (t : BitVec 3) (a : Reg) (slot : BitVec 2) (panel : BitVec 4) (row0 : BitVec 5) (la : BitVec 4) (σ : State) : exec (.mma f sat t a slot panel row0 la) σ = execMma f sat t a slot panel row0 la σ := rfl
@[simp] theorem exec_mvt (toTile : Bool) (d : Reg) (a : Reg) (row0 : BitVec 5) (σ : State) : exec (.mvt toTile d a row0) σ = execMvt toTile d a row0 σ := rfl
@[simp] theorem exec_mcmd (trap : Bool) (d : Reg) (a : Reg) (b : Reg) (c : Reg) (la : BitVec 4) (σ : State) : exec (.mcmd trap d a b c la) σ = execMcmd trap d a b c la σ := rfl
@[simp] theorem exec_mwait (σ : State) : exec (.mwait) σ = execMwait σ := rfl
@[simp] theorem exec_dtabLd (n : BitVec 2) (a : Reg) (sp : Bool) (imm : Word) (la : BitVec 4) (σ : State) : exec (.dtabLd n a sp imm la) σ = execDtabLd n a sp imm la σ := rfl
@[simp] theorem exec_vcvtQ (q : Code) (d : Reg) (a : Reg) (b : Reg) (m : Mask) (σ : State) : exec (.vcvtQ q d a b m) σ = execVcvtQ q d a b m σ := rfl
@[simp] theorem exec_vcvtDq (q : Code) (sat : Bool) (d : Reg) (a : Reg) (m : Mask) (σ : State) : exec (.vcvtDq q sat d a m) σ = execVcvtDq q sat d a m σ := rfl
@[simp] theorem exec_vscl (q : Code) (sat : Bool) (d : Reg) (a : Reg) (b : Reg) (tab : BitVec 3) (m : Mask) (σ : State) : exec (.vscl q sat d a b tab m) σ = execVscl q sat d a b tab m σ := rfl
@[simp] theorem exec_vhadq (q : Code) (d : Reg) (a : Reg) (b : Reg) (n : BitVec 6) (m : Mask) (σ : State) : exec (.vhadq q d a b n m) σ = execVhadq q d a b n m σ := rfl
@[simp] theorem exec_cpStart (ch : BitVec 3) (a : Reg) (sp : Bool) (imm : Word) (la : BitVec 4) (σ : State) : exec (.cpStart ch a sp imm la) σ = execCpStart ch a sp imm la σ := rfl
@[simp] theorem exec_cpSeal (d : Reg) (la : BitVec 4) (σ : State) : exec (.cpSeal d la) σ = execCpSeal d la σ := rfl
@[simp] theorem exec_cpWait (n : BitVec 16) (σ : State) : exec (.cpWait n) σ = execCpWait n σ := rfl
@[simp] theorem exec_sbind (out : Bool) (d : Reg) (ch : BitVec 3) (σ : State) : exec (.sbind out d ch) σ = execSbind out d ch σ := rfl
@[simp] theorem exec_sunbind (d : Reg) (σ : State) : exec (.sunbind d) σ = execSunbind d σ := rfl
@[simp] theorem exec_qPush (qh : BitVec 4) (a : Reg) (n : BitVec 7) (la : BitVec 4) (σ : State) : exec (.qPush qh a n la) σ = execQPush qh a n la σ := rfl
@[simp] theorem exec_qPop (try_ : Bool) (qh : BitVec 4) (d : Reg) (a : Reg) (la : BitVec 4) (σ : State) : exec (.qPop try_ qh d a la) σ = execQPop try_ qh d a la σ := rfl
@[simp] theorem exec_qNotify (what : Notify) (qh : BitVec 4) (a : Reg) (la : BitVec 4) (σ : State) : exec (.qNotify what qh a la) σ = execQNotify what qh a la σ := rfl
@[simp] theorem exec_qCancel (qh : BitVec 4) (d : Reg) (a : Reg) (la : BitVec 4) (σ : State) : exec (.qCancel qh d a la) σ = execQCancel qh d a la σ := rfl
@[simp] theorem exec_msgSend (mode : MsgMode) (d : Reg) (a : Reg) (b : Reg) (c : Reg) (qh : BitVec 4) (la : BitVec 4) (σ : State) : exec (.msgSend mode d a b c qh la) σ = execMsgSend mode d a b c qh la σ := rfl
@[simp] theorem exec_hret (a : Reg) (σ : State) : exec (.hret a) σ = execHret a σ := rfl
@[simp] theorem exec_gangForm (d : Reg) (a : Reg) (b : Reg) (size : BitVec 2) (σ : State) : exec (.gangForm d a b size) σ = execGangForm d a b size σ := rfl
@[simp] theorem exec_gangSplit (σ : State) : exec (.gangSplit) σ = execGangSplit σ := rfl
@[simp] theorem exec_rastSetup (s : BitVec 2) (d : Reg) (a : Reg) (b : Reg) (σ : State) : exec (.rastSetup s d a b) σ = execRastSetup s d a b σ := rfl
@[simp] theorem exec_rastCover (s : BitVec 2) (d : Reg) (a : Reg) (m : Mask) (σ : State) : exec (.rastCover s d a m) σ = execRastCover s d a m σ := rfl
@[simp] theorem exec_rastAttr (what : Attr) (s : BitVec 2) (d : Reg) (a : Reg) (m : Mask) (σ : State) : exec (.rastAttr what s d a m) σ = execRastAttr what s d a m σ := rfl
@[simp] theorem exec_vsample (d : Reg) (a : Reg) (b : Reg) (m : Mask) (la : BitVec 4) (σ : State) : exec (.vsample d a b m la) σ = execVsample d a b m la σ := rfl
@[simp] theorem exec_vsampleM (d : Reg) (a : Reg) (b : Reg) (f : BitVec 6) (m : Mask) (la : BitVec 4) (σ : State) : exec (.vsampleM d a b f m la) σ = execVsampleM d a b f m la σ := rfl
@[simp] theorem exec_rqInit (q : Bool) (d : Reg) (a : Reg) (b : Reg) (m : Mask) (la : BitVec 4) (σ : State) : exec (.rqInit q d a b m la) σ = execRqInit q d a b m la σ := rfl
@[simp] theorem exec_rqStep (q : Bool) (d : Reg) (n : BitVec 13) (m : Mask) (la : BitVec 4) (σ : State) : exec (.rqStep q d n m la) σ = execRqStep q d n m la σ := rfl
@[simp] theorem exec_rqGet (fld : RqField) (q : Bool) (cand : Bool) (d : Reg) (m : Mask) (σ : State) : exec (.rqGet fld q cand d m) σ = execRqGet fld q cand d m σ := rfl
@[simp] theorem exec_rqCommit (q : Bool) (m : Mask) (σ : State) : exec (.rqCommit q m) σ = execRqCommit q m σ := rfl
@[simp] theorem exec_rqEnd (q : Bool) (σ : State) : exec (.rqEnd q) σ = execRqEnd q σ := rfl
@[simp] theorem exec_bldCmd (d : Reg) (a : Reg) (la : BitVec 4) (σ : State) : exec (.bldCmd d a la) σ = execBldCmd d a la σ := rfl
@[simp] theorem exec_fence (kind : BitVec 2) (sc : BitVec 2) (σ : State) : exec (.fence kind sc) σ = execFence kind sc σ := rfl
@[simp] theorem exec_wait (k : WCond) (w : BitVec 2) (d : Reg) (a : Reg) (b : Reg) (c : Reg) (sp : Bool) (imm : Word) (σ : State) : exec (.wait k w d a b c sp imm) σ = execWait k w d a b c sp imm σ := rfl
@[simp] theorem exec_bar (slot : BitVec 2) (σ : State) : exec (.bar slot) σ = execBar slot σ := rfl
@[simp] theorem exec_grpRed (op : RedOp) (d : Reg) (a : Reg) (slot : BitVec 2) (σ : State) : exec (.grpRed op d a slot) σ = execGrpRed op d a slot σ := rfl
@[simp] theorem exec_grpBcast (d : Reg) (a : Reg) (slot : BitVec 2) (root : BitVec 16) (σ : State) : exec (.grpBcast d a slot root) σ = execGrpBcast d a slot root σ := rfl
@[simp] theorem exec_crr (d : Reg) (cr : BitVec 12) (σ : State) : exec (.crr d cr) σ = execCrr d cr σ := rfl
@[simp] theorem exec_crw (d : Reg) (a : Reg) (cr : BitVec 12) (σ : State) : exec (.crw d a cr) σ = execCrw d a cr σ := rfl
@[simp] theorem exec_crset (d : Reg) (a : Reg) (cr : BitVec 12) (σ : State) : exec (.crset d a cr) σ = execCrset d a cr σ := rfl
@[simp] theorem exec_crclr (d : Reg) (a : Reg) (cr : BitVec 12) (σ : State) : exec (.crclr d a cr) σ = execCrclr d a cr σ := rfl
@[simp] theorem exec_ecall (n : BitVec 16) (σ : State) : exec (.ecall n) σ = execEcall n σ := rfl
@[simp] theorem exec_sret (σ : State) : exec (.sret) σ = execSret σ := rfl
@[simp] theorem exec_brk (n : BitVec 16) (σ : State) : exec (.brk n) σ = execBrk n σ := rfl
@[simp] theorem exec_wfi (σ : State) : exec (.wfi) σ = execWfi σ := rfl
@[simp] theorem exec_icinv (all : Bool) (a : Reg) (imm : Word) (σ : State) : exec (.icinv all a imm) σ = execIcinv all a imm σ := rfl
@[simp] theorem exec_tlbinv (kind : TlbKind) (space : TlbSpace) (a : Reg) (b : Reg) (σ : State) : exec (.tlbinv kind space a b) σ = execTlbinv kind space a b σ := rfl
@[simp] theorem exec_vmld (t : BitVec 3) (a : Reg) (b : Reg) (imm : Word) (la : BitVec 4) (σ : State) : exec (.vmld t a b imm la) σ = execVmld t a b imm la σ := rfl
@[simp] theorem exec_vmst (t : BitVec 3) (a : Reg) (b : Reg) (imm : Word) (la : BitVec 4) (σ : State) : exec (.vmst t a b imm la) σ = execVmst t a b imm la σ := rfl
@[simp] theorem exec_bmsk (d : Reg) (a : Reg) (m : Mask) (σ : State) : exec (.bmsk d a m) σ = execBmsk d a m σ := rfl
@[simp] theorem exec_mmaS48 (sat : Bool) (t : BitVec 3) (a : Reg) (slot : BitVec 2) (panel : BitVec 4) (row0 : BitVec 5) (la : BitVec 4) (σ : State) : exec (.mmaS48 sat t a slot panel row0 la) σ = execMmaS48 sat t a slot panel row0 la σ := rfl
@[simp] theorem exec_rqSort (q : Bool) (d : Reg) (m : Mask) (la : BitVec 4) (σ : State) : exec (.rqSort q d m la) σ = execRqSort q d m la σ := rfl
@[simp] theorem exec_waitConditionMet (h : Nat) (σ : State) : exec (.waitConditionMet h) σ = execWaitConditionMet h σ := rfl
@[simp] theorem exec_waitTimeout (h : Nat) (σ : State) : exec (.waitTimeout h) σ = execWaitTimeout h σ := rfl
@[simp] theorem exec_longLatencyComplete (h k : Nat) (how : Landing) (σ : State) : exec (.longLatencyComplete h k how) σ = execLongLatencyComplete h k how σ := rfl
@[simp] theorem exec_trapEntry (h bound : Nat) (σ : State) : exec (.trapEntry h bound) σ = execTrapEntry h bound σ := rfl
@[simp] theorem exec_cycleMatch (h : Nat) (σ : State) : exec (.cycleMatch h) σ = execCycleMatch h σ := rfl
@[simp] theorem exec_stopTaken (h bound : Nat) (σ : State) : exec (.stopTaken h bound) σ = execStopTaken h bound σ := rfl
@[simp] theorem exec_stopRegisterWrite (h : Nat) (v : Word) (σ : State) : exec (.stopRegisterWrite h v) σ = execStopRegisterWrite h v σ := rfl
@[simp] theorem exec_migrationPlace (h : Nat) (σ : State) : exec (.migrationPlace h) σ = execMigrationPlace h σ := rfl
@[simp] theorem exec_matrixClaimGrant (h : Nat) (σ : State) : exec (.matrixClaimGrant h) σ = execMatrixClaimGrant h σ := rfl
@[simp] theorem exec_laneReclaim (h ceil : Nat) (whom : Recipient) (σ : State) : exec (.laneReclaim h ceil whom) σ = execLaneReclaim h ceil whom σ := rfl
@[simp] theorem exec_reclaimWindowExpiry (h late : Nat) (σ : State) : exec (.reclaimWindowExpiry h late) σ = execReclaimWindowExpiry h late σ := rfl
@[simp] theorem exec_fullSwitch (h : Nat) (σ : State) : exec (.fullSwitch h) σ = execFullSwitch h σ := rfl
@[simp] theorem exec_contextResume (vi unit : Nat) (σ : State) : exec (.contextResume vi unit) σ = execContextResume vi unit σ := rfl
@[simp] theorem exec_sequencerRound (core : Nat) (σ : State) : exec (.sequencerRound core) σ = execSequencerRound core σ := rfl
@[simp] theorem exec_tailNotifyWrite (vi slot : Nat) (x : BitVec 32) (σ : State) : exec (.tailNotifyWrite vi slot x) σ = execTailNotifyWrite vi slot x σ := rfl
@[simp] theorem exec_dispatcherConsume (q : Nat) (σ : State) : exec (.dispatcherConsume q) σ = execDispatcherConsume q σ := rfl
@[simp] theorem exec_recordReread (q : Nat) (σ : State) : exec (.recordReread q) σ = execRecordReread q σ := rfl
@[simp] theorem exec_dispatch (q : Nat) (σ : State) : exec (.dispatch q) σ = execDispatch q σ := rfl
@[simp] theorem exec_preemptDelayExpiry (q : Nat) (σ : State) : exec (.preemptDelayExpiry q) σ = execPreemptDelayExpiry q σ := rfl
@[simp] theorem exec_instanceRetire (h : Nat) (σ : State) : exec (.instanceRetire h) σ = execInstanceRetire h σ := rfl
@[simp] theorem exec_launchRetire (q : Nat) (j : BitVec 32) (σ : State) : exec (.launchRetire q j) σ = execLaunchRetire q j σ := rfl
@[simp] theorem exec_gangFormed (h : Nat) (σ : State) : exec (.gangFormed h) σ = execGangFormed h σ := rfl
@[simp] theorem exec_gangFormTimeout (h : Nat) (σ : State) : exec (.gangFormTimeout h) σ = execGangFormTimeout h σ := rfl
@[simp] theorem exec_copyBegin (h ch : Nat) (σ : State) : exec (.copyBegin h ch) σ = execCopyBegin h ch σ := rfl
@[simp] theorem exec_copyElementLand (h ch e : Nat) (err : Option ErrCause) (σ : State) : exec (.copyElementLand h ch e err) σ = execCopyElementLand h ch e err σ := rfl
@[simp] theorem exec_pageWalk (h : Nat) (inst : Bool) (va : Word) (σ : State) : exec (.pageWalk h inst va) σ = execPageWalk h inst va σ := rfl
@[simp] theorem exec_homeAccess (k : Nat) (σ : State) : exec (.homeAccess k) σ = execHomeAccess k σ := rfl
@[simp] theorem exec_rdcInvalidate (die line : Nat) (σ : State) : exec (.rdcInvalidate die line) σ = execRdcInvalidate die line σ := rfl
@[simp] theorem exec_peerAccessArrive (k : Nat) (lost : Bool) (σ : State) : exec (.peerAccessArrive k lost) σ = execPeerAccessArrive k lost σ := rfl
@[simp] theorem exec_atmCombine (y x : Nat) (σ : State) : exec (.atmCombine y x) σ = execAtmCombine y x σ := rfl
@[simp] theorem exec_replySplit (k : Nat) (σ : State) : exec (.replySplit k) σ = execReplySplit k σ := rfl
@[simp] theorem exec_escapeMove (die router : Nat) (σ : State) : exec (.escapeMove die router) σ = execEscapeMove die router σ := rfl
@[simp] theorem exec_linkRetrain (link flits : Nat) (half : Bool) (σ : State) : exec (.linkRetrain link flits half) σ = execLinkRetrain link flits half σ := rfl
@[simp] theorem exec_linkDown (link : Nat) (performed : Bool) (σ : State) : exec (.linkDown link performed) σ = execLinkDown link performed σ := rfl
@[simp] theorem exec_routeRecompute (link : Nat) (σ : State) : exec (.routeRecompute link) σ = execRouteRecompute link σ := rfl
@[simp] theorem exec_sheetPortDown (port : Nat) (σ : State) : exec (.sheetPortDown port) σ = execSheetPortDown port σ := rfl
@[simp] theorem exec_sheetAccessArrive (vi : Nat) (asid : BitVec 16) (addr : Word) (req : SheetReq) (σ : State) : exec (.sheetAccessArrive vi asid addr req) σ = execSheetAccessArrive vi asid addr req σ := rfl
@[simp] theorem exec_dramScrub (die line : Nat) (found : ScrubFinding) (σ : State) : exec (.dramScrub die line found) σ = execDramScrub die line found σ := rfl
@[simp] theorem exec_handlerActivation (slice : Nat) (σ : State) : exec (.handlerActivation slice) σ = execHandlerActivation slice σ := rfl
@[simp] theorem exec_handlerReplyPush (slice : Nat) (σ : State) : exec (.handlerReplyPush slice) σ = execHandlerReplyPush slice σ := rfl
@[simp] theorem exec_msgReplyArrive (h k : Nat) (lost : Bool) (σ : State) : exec (.msgReplyArrive h k lost) σ = execMsgReplyArrive h k lost σ := rfl
@[simp] theorem exec_remoteMclr (k : Nat) (σ : State) : exec (.remoteMclr k) σ = execRemoteMclr k σ := rfl
@[simp] theorem exec_remoteMldT (k : Nat) (σ : State) : exec (.remoteMldT k) σ = execRemoteMldT k σ := rfl
@[simp] theorem exec_remoteMstT (k : Nat) (σ : State) : exec (.remoteMstT k) σ = execRemoteMstT k σ := rfl
@[simp] theorem exec_remoteMldW (k : Nat) (σ : State) : exec (.remoteMldW k) σ = execRemoteMldW k σ := rfl
@[simp] theorem exec_mma16 (k : Nat) (σ : State) : exec (.mma16 k) σ = execMma16 k σ := rfl
@[simp] theorem exec_mcmdStatusArrive (k : Nat) (lost : Bool) (σ : State) : exec (.mcmdStatusArrive k lost) σ = execMcmdStatusArrive k lost σ := rfl
@[simp] theorem exec_primitiveRecord (die vi : Nat) (σ : State) : exec (.primitiveRecord die vi) σ = execPrimitiveRecord die vi σ := rfl
@[simp] theorem exec_distributorSetup (die vi : Nat) (σ : State) : exec (.distributorSetup die vi) σ = execDistributorSetup die vi σ := rfl
@[simp] theorem exec_distributorFlush (die vi : Nat) (σ : State) : exec (.distributorFlush die vi) σ = execDistributorFlush die vi σ := rfl
@[simp] theorem exec_distributorFence (die vi : Nat) (σ : State) : exec (.distributorFence die vi) σ = execDistributorFence die vi σ := rfl
@[simp] theorem exec_distributorFenceCount (die vi : Nat) (σ : State) : exec (.distributorFenceCount die vi) σ = execDistributorFenceCount die vi σ := rfl
@[simp] theorem exec_distributorClose (die vi : Nat) (σ : State) : exec (.distributorClose die vi) σ = execDistributorClose die vi σ := rfl
@[simp] theorem exec_bufferFullResume (die vi : Nat) (σ : State) : exec (.bufferFullResume die vi) σ = execBufferFullResume die vi σ := rfl
@[simp] theorem exec_tilePost (die vi tx ty : Nat) (σ : State) : exec (.tilePost die vi tx ty) σ = execTilePost die vi tx ty σ := rfl
@[simp] theorem exec_passEnd (die vi : Nat) (σ : State) : exec (.passEnd die vi) σ = execPassEnd die vi σ := rfl
@[simp] theorem exec_reprojectionSetup (die vi : Nat) (σ : State) : exec (.reprojectionSetup die vi) σ = execReprojectionSetup die vi σ := rfl
@[simp] theorem exec_blockRequest (die vi : Nat) (σ : State) : exec (.blockRequest die vi) σ = execBlockRequest die vi σ := rfl
@[simp] theorem exec_blendRequest (die vi : Nat) (σ : State) : exec (.blendRequest die vi) σ = execBlendRequest die vi σ := rfl
@[simp] theorem exec_ticketCommit (slice vi : Nat) (ticket : BitVec 48) (σ : State) : exec (.ticketCommit slice vi ticket) σ = execTicketCommit slice vi ticket σ := rfl
@[simp] theorem exec_build (die vi k : Nat) (σ : State) : exec (.build die vi k) σ = execBuild die vi k σ := rfl
@[simp] theorem exec_refit (die vi k : Nat) (σ : State) : exec (.refit die vi k) σ = execRefit die vi k σ := rfl
@[simp] theorem exec_rebalance (die vi k : Nat) (σ : State) : exec (.rebalance die vi k) σ = execRebalance die vi k σ := rfl
@[simp] theorem exec_publish (die vi k : Nat) (σ : State) : exec (.publish die vi k) σ = execPublish die vi k σ := rfl
@[simp] theorem exec_retire (die vi k : Nat) (σ : State) : exec (.retire die vi k) σ = execRetire die vi k σ := rfl
@[simp] theorem exec_query (die vi k : Nat) (σ : State) : exec (.query die vi k) σ = execQuery die vi k σ := rfl
@[simp] theorem exec_powerInterval (die : Nat) (power : List Nat) (σ : State) : exec (.powerInterval die power) σ = execPowerInterval die power σ := rfl
@[simp] theorem exec_powerCapOverrun (die power : Nat) (σ : State) : exec (.powerCapOverrun die power) σ = execPowerCapOverrun die power σ := rfl
@[simp] theorem exec_powerOnReset (fails : List BootFailure) (σ : State) : exec (.powerOnReset fails) σ = execPowerOnReset fails σ := rfl
@[simp] theorem exec_vfEnable (port n : Nat) (σ : State) : exec (.vfEnable port n) σ = execVfEnable port n σ := rfl
@[simp] theorem exec_vfDisable (port n : Nat) (σ : State) : exec (.vfDisable port n) σ = execVfDisable port n σ := rfl
@[simp] theorem exec_commandDoorbell (vi cq : Nat) (tail : BitVec 32) (σ : State) : exec (.commandDoorbell vi cq tail) σ = execCommandDoorbell vi cq tail σ := rfl
@[simp] theorem exec_cqbaseWrite (vi cq : Nat) (v : Word) (σ : State) : exec (.cqbaseWrite vi cq v) σ = execCqbaseWrite vi cq v σ := rfl
@[simp] theorem exec_rdcwaysWrite (die : Nat) (v : Word) (σ : State) : exec (.rdcwaysWrite die v) σ = execRdcwaysWrite die v σ := rfl
@[simp] theorem exec_ownershipWrite (core block : Nat) (by_ : Writer) (v : BitVec 32) (σ : State) : exec (.ownershipWrite core block by_ v) σ = execOwnershipWrite core block by_ v σ := rfl
@[simp] theorem exec_registerWrite (t : RegTarget) (v : Word) (σ : State) : exec (.registerWrite t v) σ = execRegisterWrite t v σ := rfl
@[simp] theorem exec_identify (c : Cmd) (σ : State) : exec (.identify c) σ = execIdentify c σ := rfl
@[simp] theorem exec_attest (c : Cmd) (σ : State) : exec (.attest c) σ = execAttest c σ := rfl
@[simp] theorem exec_createAs (c : Cmd) (σ : State) : exec (.createAs c) σ = execCreateAs c σ := rfl
@[simp] theorem exec_destroyAs (c : Cmd) (σ : State) : exec (.destroyAs c) σ = execDestroyAs c σ := rfl
@[simp] theorem exec_map (c : Cmd) (σ : State) : exec (.map c) σ = execMap c σ := rfl
@[simp] theorem exec_unmap (c : Cmd) (σ : State) : exec (.unmap c) σ = execUnmap c σ := rfl
@[simp] theorem exec_migrate (c : Cmd) (σ : State) : exec (.migrate c) σ = execMigrate c σ := rfl
@[simp] theorem exec_loadCode (c : Cmd) (σ : State) : exec (.loadCode c) σ = execLoadCode c σ := rfl
@[simp] theorem exec_createQueue (c : Cmd) (σ : State) : exec (.createQueue c) σ = execCreateQueue c σ := rfl
@[simp] theorem exec_destroyQueue (c : Cmd) (σ : State) : exec (.destroyQueue c) σ = execDestroyQueue c σ := rfl
@[simp] theorem exec_setKey (c : Cmd) (σ : State) : exec (.setKey c) σ = execSetKey c σ := rfl
@[simp] theorem exec_clearKey (c : Cmd) (σ : State) : exec (.clearKey c) σ = execClearKey c σ := rfl
@[simp] theorem exec_setShare (c : Cmd) (σ : State) : exec (.setShare c) σ = execSetShare c σ := rfl
@[simp] theorem exec_setPowerCap (c : Cmd) (σ : State) : exec (.setPowerCap c) σ = execSetPowerCap c σ := rfl
@[simp] theorem exec_createGroupTemplate (c : Cmd) (σ : State) : exec (.createGroupTemplate c) σ = execCreateGroupTemplate c σ := rfl
@[simp] theorem exec_createCap (c : Cmd) (σ : State) : exec (.createCap c) σ = execCreateCap c σ := rfl
@[simp] theorem exec_createAstruct (c : Cmd) (σ : State) : exec (.createAstruct c) σ = execCreateAstruct c σ := rfl
@[simp] theorem exec_setRdc (c : Cmd) (σ : State) : exec (.setRdc c) σ = execSetRdc c σ := rfl
@[simp] theorem exec_pinQuota (c : Cmd) (σ : State) : exec (.pinQuota c) σ = execPinQuota c σ := rfl
@[simp] theorem exec_installHandlers (c : Cmd) (σ : State) : exec (.installHandlers c) σ = execInstallHandlers c σ := rfl
@[simp] theorem exec_setBudget (c : Cmd) (σ : State) : exec (.setBudget c) σ = execSetBudget c σ := rfl
@[simp] theorem exec_resetVi (c : Cmd) (σ : State) : exec (.resetVi c) σ = execResetVi c σ := rfl
@[simp] theorem exec_readCounters (c : Cmd) (σ : State) : exec (.readCounters c) σ = execReadCounters c σ := rfl
@[simp] theorem exec_traceStart (c : Cmd) (σ : State) : exec (.traceStart c) σ = execTraceStart c σ := rfl
@[simp] theorem exec_traceStop (c : Cmd) (σ : State) : exec (.traceStop c) σ = execTraceStop c σ := rfl
@[simp] theorem exec_sheetConfig (c : Cmd) (σ : State) : exec (.sheetConfig c) σ = execSheetConfig c σ := rfl
@[simp] theorem exec_bootRecord (c : Cmd) (σ : State) : exec (.bootRecord c) σ = execBootRecord c σ := rfl
@[simp] theorem exec_debug (c : Cmd) (σ : State) : exec (.debug c) σ = execDebug c σ := rfl
@[simp] theorem exec_readErrors (c : Cmd) (σ : State) : exec (.readErrors c) σ = execReadErrors c σ := rfl
@[simp] theorem exec_setQmap (c : Cmd) (σ : State) : exec (.setQmap c) σ = execSetQmap c σ := rfl
@[simp] theorem exec_setTrap (c : Cmd) (σ : State) : exec (.setTrap c) σ = execSetTrap c σ := rfl
@[simp] theorem exec_assignMem (c : Cmd) (σ : State) : exec (.assignMem c) σ = execAssignMem c σ := rfl
@[simp] theorem exec_setPool (c : Cmd) (σ : State) : exec (.setPool c) σ = execSetPool c σ := rfl
@[simp] theorem exec_hostHold (vi slot : Nat) (hold : Bool) (σ : State) : exec (.hostHold vi slot hold) σ = execHostHold vi slot hold σ := rfl
@[simp] theorem exec_spdmOverDoe (port : Nat) (request : List Byte) (σ : State) : exec (.spdmOverDoe port request) σ = execSpdmOverDoe port request σ := rfl

end Sys2Proof.Machine
end

