-- ==== Sys2Proof/Laws/Memory.lean ====
section
/-! SUPPORT. Memories (Memory.read, write, writeN, zero): every operation keeps the canonical form, a read after a write
gives the byte written, and a write leaves every other address alone. -/

namespace Sys2Proof.Machine

open Sys2Proof

theorem Memory.wfFrom_mono {lo lo' : Nat} (h : lo' ≤ lo) : ∀ m : Memory, Memory.wfFrom lo m = true → Memory.wfFrom lo' m = true
  | [], _ => rfl
  | (j, x) :: t, hm => by
    simp only [Memory.wfFrom, Bool.and_eq_true, decide_eq_true_eq] at hm ⊢
    exact ⟨⟨le_trans h hm.1.1, hm.1.2⟩, hm.2⟩

theorem Memory.wfFrom_write : ∀ (m : Memory) (lo k : Nat) (b : Byte), lo ≤ k → Memory.wfFrom lo m = true →
    Memory.wfFrom lo (m.write k b) = true
  | [], lo, k, b, hk, _ => by
    unfold Memory.write
    split <;> simp_all [Memory.wfFrom]
  | (j, x) :: t, lo, k, b, hk, hm => by
    simp only [Memory.wfFrom, Bool.and_eq_true, decide_eq_true_eq] at hm
    obtain ⟨⟨hj, hx⟩, ht⟩ := hm
    unfold Memory.write
    split
    · split
      · simp_all [Memory.wfFrom]
      · next hkj hb =>
        have := Memory.wfFrom_mono (Nat.succ_le_of_lt hkj) ((j, x) :: t) (by simp_all [Memory.wfFrom])
        simp_all [Memory.wfFrom]
    · split
      · next hkj =>
        subst hkj
        split
        · exact Memory.wfFrom_mono (by omega) t ht
        · next hb => simp_all [Memory.wfFrom]
      · next h1 h2 =>
        have := Memory.wfFrom_write t (j + 1) k b (by omega) ht
        simp_all [Memory.wfFrom]

theorem Memory.wf_write (m : Memory) (k : Nat) (b : Byte) (h : m.wf = true) : (m.write k b).wf = true :=
  Memory.wfFrom_write m 0 k b (Nat.zero_le k) h

theorem Memory.wf_writeN : ∀ (bs : List Byte) (m : Memory) (a : Nat), m.wf = true → (m.writeN a bs).wf = true
  | [], _, _, h => h
  | b :: bs, m, a, h => Memory.wf_writeN bs _ _ (Memory.wf_write m a b h)

theorem Memory.wfFrom_filter (p : Host.Cell → Bool) : ∀ (m : Memory) (lo : Nat), Memory.wfFrom lo m = true →
    Memory.wfFrom lo (m.filter p) = true
  | [], _, _ => rfl
  | (j, x) :: t, lo, hm => by
    simp only [Memory.wfFrom, Bool.and_eq_true, decide_eq_true_eq] at hm
    have ih := Memory.wfFrom_filter p t (j + 1) hm.2
    simp only [List.filter]
    split
    · simp_all [Memory.wfFrom]
    · exact Memory.wfFrom_mono (by omega) _ ih

theorem Memory.wf_filter (p : Host.Cell → Bool) (m : Memory) (h : m.wf = true) :
    Memory.wf (List.filter p m) = true := Memory.wfFrom_filter p m 0 h

theorem Memory.wf_zero (m : Memory) (a n : Nat) (h : m.wf = true) : (m.zero a n).wf = true := Memory.wf_filter _ m h

/-- In a canonical memory, an address below all that are listed reads 0. -/
theorem Memory.read_below : ∀ (m : Memory) (lo k : Nat), Memory.wfFrom lo m = true → k < lo → m.read k = 0
  | [], _, _, _, _ => rfl
  | (j, x) :: t, lo, k, hm, hk => by
    simp only [Memory.wfFrom, Bool.and_eq_true, decide_eq_true_eq] at hm
    have : k ≠ j := by omega
    simp [Memory.read, this, Memory.read_below t (j + 1) k hm.2 (by omega)]

theorem Memory.read_write_from : ∀ (m : Memory) (lo k : Nat) (b : Byte) (i : Nat), Memory.wfFrom lo m = true →
    (m.write k b).read i = if i = k then b else m.read i
  | [], _, k, b, i, _ => by
    unfold Memory.write
    split
    · next hb => subst hb; simp [Memory.read]
    · simp [Memory.read]
  | (j, x) :: t, lo, k, b, i, hm => by
    simp only [Memory.wfFrom, Bool.and_eq_true, decide_eq_true_eq] at hm
    have ih := Memory.read_write_from t (j + 1) k b i hm.2
    have hlow := Memory.read_below t (j + 1)
    unfold Memory.write
    split
    · split
      · next hb =>
        subst hb
        split
        · next hi =>
          subst hi
          have : i ≠ j := by omega
          simp [Memory.read, this, hlow i hm.2 (by omega)]
        · rfl
      · simp [Memory.read]
    · split
      · next hkj =>
        subst hkj
        split
        · next hb =>
          subst hb
          split
          · next hi => subst hi; exact hlow i hm.2 (by omega)
          · next hi => simp [Memory.read, hi]
        · by_cases hi : i = k <;> simp [Memory.read, hi]
      · next h1 h2 =>
        by_cases hi : i = j
        · subst hi; simp [Memory.read, Ne.symm h2]
        · simp [Memory.read, hi, ih]

/-- Reading after writing one byte. -/
theorem Memory.read_write (m : Memory) (k : Nat) (b : Byte) (i : Nat) (h : m.wf = true) :
    (m.write k b).read i = if i = k then b else m.read i := Memory.read_write_from m 0 k b i h

/-- Reading outside the bytes written. -/
theorem Memory.read_writeN_other : ∀ (bs : List Byte) (m : Memory) (a i : Nat), m.wf = true →
    (i < a ∨ a + bs.length ≤ i) → (m.writeN a bs).read i = m.read i
  | [], _, _, _, _, _ => rfl
  | b :: bs, m, a, i, h, hi => by
    simp only [List.length_cons] at hi
    rw [Memory.writeN, Memory.read_writeN_other bs _ _ _ (Memory.wf_write m a b h) (by omega),
      Memory.read_write m a b i h, if_neg (by omega)]

/-- Reading one of the bytes written. -/
theorem Memory.read_writeN : ∀ (bs : List Byte) (m : Memory) (a k : Nat), m.wf = true → (hk : k < bs.length) →
    (m.writeN a bs).read (a + k) = bs[k]
  | [], _, _, _, _, hk => absurd hk (Nat.not_lt_zero _)
  | b :: bs, m, a, 0, h, _ => by
    rw [Memory.writeN, Memory.read_writeN_other bs _ _ _ (Memory.wf_write m a b h) (by omega), Nat.add_zero,
      Memory.read_write m a b a h, if_pos rfl]
    rfl
  | b :: bs, m, a, k + 1, h, hk => by
    have := Memory.read_writeN bs (m.write a b) (a + 1) k (Memory.wf_write m a b h) (by simpa using hk)
    rw [Memory.writeN, show a + (k + 1) = a + 1 + k by omega, this]
    rfl

theorem Memory.wf_reset : State.reset.phys.dram.wf = true ∧ State.reset.phys.hostA.wf = true ∧
    State.reset.phys.hostB.wf = true := ⟨rfl, rfl, rfl⟩

end Sys2Proof.Machine
end

