-- ==== Sys2Proof/Laws/PerInstr.lean ====
section
/-! SUPPORT. Decoding of an encoded instruction, one lemma per constructor. -/

namespace Sys2Proof.Laws.Encoded

open Sys2Proof

/-- A well-formed instruction is what the decoder reads from its word. -/
def Statement (i : Instr) : Prop := i.wf = true → ∀ w, encode i = some w → decode w = .ok i

/-! ## Fields of a word -/

theorem extract_hi {v w : Nat} (x : BitVec v) (y : BitVec w) (n k : Nat) (h : w ≤ n) :
    (x ++ y).extractLsb' n k = x.extractLsb' (n - w) k := BitVec.extractLsb'_append_eq_of_le h

theorem extract_lo {v w : Nat} (x : BitVec v) (y : BitVec w) (n k : Nat) (h : n + k ≤ w) :
    (x ++ y).extractLsb' n k = y.extractLsb' n k := BitVec.extractLsb'_append_eq_of_add_le h

theorem bit_hi {v w : Nat} (x : BitVec v) (y : BitVec w) (n : Nat) (h : w ≤ n) :
    (x ++ y).getLsbD n = x.getLsbD (n - w) := by simp [BitVec.getLsbD_append, Nat.not_lt.mpr h]

theorem bit_lo {v w : Nat} (x : BitVec v) (y : BitVec w) (n : Nat) (h : n < w) :
    (x ++ y).getLsbD n = y.getLsbD n := by simp [BitVec.getLsbD_append, h]

theorem unpack_pack (f : Fields) : Fields.unpack f.pack = f := by
  obtain ⟨opc, la, d, a, b, c, men, minv, fn, rm, sat, cmb, keep, aux, rsv, imm⟩ := f
  simp only [Fields.unpack, Fields.pack, Fields.mk.injEq]
  refine ⟨?_, ?_, ?_, ?_, ?_, ?_, ?_, ?_, ?_, ?_, ?_, ?_, ?_, ?_, ?_, ?_⟩
  all_goals first
    | (repeat rw [extract_hi _ _ _ _ (by decide)]
       try rw [extract_lo _ _ _ _ (by decide)]
       exact BitVec.extractLsb'_eq_self)
    | (repeat rw [bit_hi _ _ _ (by decide)]
       rw [bit_lo _ _ _ (by decide)]
       simp)

theorem ofBool_bit (b : Bool) : (BitVec.ofBool b).getLsbD 0 = b := by cases b <;> rfl

/-- The round trip of an instruction whose fields name it. -/
theorem of_fields {i : Instr} {f : Fields} (h : i.toFields = some f) (hc : i.wf = true → f.candidate = some i) : Statement i := by
  intro hw w he
  simp only [encode, h, Option.map_some, Option.some.injEq] at he
  subst he
  simp [decode, unpack_pack, hc hw, hw, encode, h]

/-- An event has no word. -/
theorem of_event {i : Instr} (h : i.toFields = none) : Statement i := by
  intro _ w he
  simp [encode, h] at he

/-! ## Operands of an instruction -/

theorem Fmt_ofBits (x : Fmt) : Fmt.ofBits x.bits = x := by cases x <;> rfl
theorem TFmt_ofBits (x : TFmt) : TFmt.ofBits x.bits = x := by cases x <;> rfl
theorem MFmt_ofBits (x : MFmt) : MFmt.ofBits x.bits = x := by cases x <;> rfl
theorem Code_ofBits (x : Code) : Code.ofBits x.bits = x := by cases x <;> rfl
theorem FCond_ofBits (x : FCond) : FCond.ofBits x.bits = x := by cases x <;> rfl
theorem IntTy_ofBits (x : IntTy) : IntTy.ofBits x.bits = x := by cases x <;> rfl
theorem SgnOp_ofBits (x : SgnOp) : SgnOp.ofBits x.bits = x := by cases x <;> rfl
theorem Cond_ofBits (x : Cond) : Cond.ofBits x.bits = x := by cases x <;> rfl
theorem VfCond_ofBits (x : VfCond) : VfCond.ofBits x.bits = x := by cases x <;> rfl
theorem AmoOp_ofBits (x : AmoOp) : AmoOp.ofBits x.bits = x := by cases x <;> rfl
theorem Ew_ofBits (x : Ew) : Ew.ofBits x.bits = x := by cases x <;> rfl
theorem WForm_ofBits (x : WForm) : WForm.ofBits x.bits = x := by cases x <;> rfl
theorem Notify_ofBits (x : Notify) : Notify.ofBits x.bits = x := by cases x <;> rfl
theorem MsgMode_ofBits (x : MsgMode) : MsgMode.ofBits x.bits = x := by cases x <;> rfl
theorem Attr_ofBits (x : Attr) : Attr.ofBits x.bits = x := by cases x <;> rfl
theorem RqField_ofBits (x : RqField) : RqField.ofBits x.bits = x := by cases x <;> rfl
theorem WCond_ofBits (x : WCond) : WCond.ofBits x.bits = x := by cases x <;> rfl
theorem RedOp_ofBits (x : RedOp) : RedOp.ofBits x.bits = x := by cases x <;> rfl
theorem TlbKind_ofBits (x : TlbKind) : TlbKind.ofBits x.bits = x := by cases x <;> rfl
theorem TlbSpace_ofBits (x : TlbSpace) : TlbSpace.ofBits x.bits = x := by cases x <;> rfl
theorem RmF_ofBits (x : RmF) : RmF.ofBits x.bits = x := by cases x <;> rfl
theorem Sign_ofBitsS (x : Sign) : Sign.ofBitsS x.bitsS = x := by cases x <;> rfl
theorem Sign_ofBitsZ (x : Sign) : Sign.ofBitsZ x.bitsZ = x := by cases x <;> rfl
theorem mask_ofBits (x : Mask) : Mask.ofBits x.creg x.men x.minv = x := by cases x <;> rfl
theorem vsrc_ofBits (x : VSrc) : VSrc.ofBits x.form x.reg x.imm' = x := by cases x <;> rfl
theorem slide_ofBits (x : SlideOff) : SlideOff.ofBits x.form x.reg x.imm' = x := by cases x <;> rfl

/-! ## Instructions -/

theorem nop : Statement (.nop) := of_fields rfl fun _ => rfl
theorem li : ∀ d imm, Statement (.li d imm) := fun _ _ => of_fields rfl fun _ => rfl
theorem mov : ∀ d a, Statement (.mov d a) := fun _ _ => of_fields rfl fun _ => rfl
theorem add : ∀ d a b, Statement (.add d a b) := fun _ _ _ => of_fields rfl fun _ => rfl
theorem addi : ∀ d a imm, Statement (.addi d a imm) := fun _ _ _ => of_fields rfl fun _ => rfl
theorem sub : ∀ d a b, Statement (.sub d a b) := fun _ _ _ => of_fields rfl fun _ => rfl
theorem mul : ∀ d a b, Statement (.mul d a b) := fun _ _ _ => of_fields rfl fun _ => rfl
theorem mulh : ∀ d a b, Statement (.mulh d a b) := fun _ _ _ => of_fields rfl fun _ => rfl
theorem mulhz : ∀ d a b, Statement (.mulhz d a b) := fun _ _ _ => of_fields rfl fun _ => rfl
theorem div : ∀ d a b la, Statement (.div d a b la) := fun _ _ _ _ => of_fields rfl fun _ => rfl
theorem divz : ∀ d a b la, Statement (.divz d a b la) := fun _ _ _ _ => of_fields rfl fun _ => rfl
theorem rem : ∀ d a b la, Statement (.rem d a b la) := fun _ _ _ _ => of_fields rfl fun _ => rfl
theorem remz : ∀ d a b la, Statement (.remz d a b la) := fun _ _ _ _ => of_fields rfl fun _ => rfl
theorem and : ∀ d a b, Statement (.and d a b) := fun _ _ _ => of_fields rfl fun _ => rfl
theorem andi : ∀ d a imm, Statement (.andi d a imm) := fun _ _ _ => of_fields rfl fun _ => rfl
theorem or : ∀ d a b, Statement (.or d a b) := fun _ _ _ => of_fields rfl fun _ => rfl
theorem ori : ∀ d a imm, Statement (.ori d a imm) := fun _ _ _ => of_fields rfl fun _ => rfl
theorem xor : ∀ d a b, Statement (.xor d a b) := fun _ _ _ => of_fields rfl fun _ => rfl
theorem xori : ∀ d a imm, Statement (.xori d a imm) := fun _ _ _ => of_fields rfl fun _ => rfl
theorem andn : ∀ d a b, Statement (.andn d a b) := fun _ _ _ => of_fields rfl fun _ => rfl
theorem shl : ∀ d a b, Statement (.shl d a b) := fun _ _ _ => of_fields rfl fun _ => rfl
theorem shli : ∀ d a sh, Statement (.shli d a sh) :=
  fun _ _ _ => of_fields rfl fun _ => by change some _ = some _; simp (disch := decide) only [extract_lo, BitVec.extractLsb'_eq_self]
theorem shr : ∀ d a b, Statement (.shr d a b) := fun _ _ _ => of_fields rfl fun _ => rfl
theorem shri : ∀ d a sh, Statement (.shri d a sh) :=
  fun _ _ _ => of_fields rfl fun _ => by change some _ = some _; simp (disch := decide) only [extract_lo, BitVec.extractLsb'_eq_self]
theorem sra : ∀ d a b, Statement (.sra d a b) := fun _ _ _ => of_fields rfl fun _ => rfl
theorem srai : ∀ d a sh, Statement (.srai d a sh) :=
  fun _ _ _ => of_fields rfl fun _ => by change some _ = some _; simp (disch := decide) only [extract_lo, BitVec.extractLsb'_eq_self]
theorem rotl : ∀ d a b, Statement (.rotl d a b) := fun _ _ _ => of_fields rfl fun _ => rfl
theorem rotr : ∀ d a b, Statement (.rotr d a b) := fun _ _ _ => of_fields rfl fun _ => rfl
theorem clz : ∀ d a, Statement (.clz d a) := fun _ _ => of_fields rfl fun _ => rfl
theorem ctz : ∀ d a, Statement (.ctz d a) := fun _ _ => of_fields rfl fun _ => rfl
theorem popc : ∀ d a, Statement (.popc d a) := fun _ _ => of_fields rfl fun _ => rfl
theorem min : ∀ d a b, Statement (.min d a b) := fun _ _ _ => of_fields rfl fun _ => rfl
theorem max : ∀ d a b, Statement (.max d a b) := fun _ _ _ => of_fields rfl fun _ => rfl
theorem umin : ∀ d a b, Statement (.umin d a b) := fun _ _ _ => of_fields rfl fun _ => rfl
theorem umax : ∀ d a b, Statement (.umax d a b) := fun _ _ _ => of_fields rfl fun _ => rfl
theorem slt : ∀ d a b, Statement (.slt d a b) := fun _ _ _ => of_fields rfl fun _ => rfl
theorem slo : ∀ d a b, Statement (.slo d a b) := fun _ _ _ => of_fields rfl fun _ => rfl
theorem seq : ∀ d a b, Statement (.seq d a b) := fun _ _ _ => of_fields rfl fun _ => rfl
theorem sel : ∀ d a b c, Statement (.sel d a b c) := fun _ _ _ _ => of_fields rfl fun _ => rfl
theorem sext : ∀ d a n, Statement (.sext d a n) :=
  fun _ _ _ => of_fields rfl fun _ => by change some _ = some _; simp (disch := decide) only [extract_lo, BitVec.extractLsb'_eq_self]
theorem zext : ∀ d a n, Statement (.zext d a n) :=
  fun _ _ _ => of_fields rfl fun _ => by change some _ = some _; simp (disch := decide) only [extract_lo, BitVec.extractLsb'_eq_self]
theorem bfx : ∀ sg d a pos len, Statement (.bfx sg d a pos len) :=
  fun _ _ _ _ _ => of_fields rfl fun _ => by change some _ = some _; simp (disch := decide) only [extract_hi, extract_lo, BitVec.extractLsb'_eq_self, Nat.sub_self, Nat.reduceSub, Sign_ofBitsZ]
theorem bfi : ∀ d a pos len, Statement (.bfi d a pos len) :=
  fun _ _ _ _ => of_fields rfl fun _ => by change some _ = some _; simp (disch := decide) only [extract_hi, extract_lo, BitVec.extractLsb'_eq_self, Nat.sub_self, Nat.reduceSub]
theorem lea : ∀ d a b sh imm, Statement (.lea d a b sh imm) :=
  fun _ _ _ _ _ => of_fields rfl fun _ => by change some _ = some _; simp (disch := decide) only [extract_lo, BitVec.extractLsb'_eq_self]
theorem bswap : ∀ d a, Statement (.bswap d a) := fun _ _ => of_fields rfl fun _ => rfl
theorem fadd : ∀ f rm d a b, Statement (.fadd f rm d a b) :=
  fun _ _ _ _ _ => of_fields rfl fun _ => by change some _ = some _; simp (disch := decide) only [extract_lo, BitVec.extractLsb'_eq_self, Fmt_ofBits, RmF_ofBits]
theorem fsub : ∀ f rm d a b, Statement (.fsub f rm d a b) :=
  fun _ _ _ _ _ => of_fields rfl fun _ => by change some _ = some _; simp (disch := decide) only [extract_lo, BitVec.extractLsb'_eq_self, Fmt_ofBits, RmF_ofBits]
theorem fmul : ∀ f rm d a b, Statement (.fmul f rm d a b) :=
  fun _ _ _ _ _ => of_fields rfl fun _ => by change some _ = some _; simp (disch := decide) only [extract_lo, BitVec.extractLsb'_eq_self, Fmt_ofBits, RmF_ofBits]
theorem fma : ∀ f rm d a b c, Statement (.fma f rm d a b c) :=
  fun _ _ _ _ _ _ => of_fields rfl fun _ => by change some _ = some _; simp (disch := decide) only [extract_lo, BitVec.extractLsb'_eq_self, Fmt_ofBits, RmF_ofBits]
theorem fms : ∀ f rm d a b c, Statement (.fms f rm d a b c) :=
  fun _ _ _ _ _ _ => of_fields rfl fun _ => by change some _ = some _; simp (disch := decide) only [extract_lo, BitVec.extractLsb'_eq_self, Fmt_ofBits, RmF_ofBits]
theorem fnma : ∀ f rm d a b c, Statement (.fnma f rm d a b c) :=
  fun _ _ _ _ _ _ => of_fields rfl fun _ => by change some _ = some _; simp (disch := decide) only [extract_lo, BitVec.extractLsb'_eq_self, Fmt_ofBits, RmF_ofBits]
theorem fdiv : ∀ f rm d a b la, Statement (.fdiv f rm d a b la) :=
  fun _ _ _ _ _ _ => of_fields rfl fun _ => by change some _ = some _; simp (disch := decide) only [extract_lo, BitVec.extractLsb'_eq_self, Fmt_ofBits, RmF_ofBits]
theorem fsqrt : ∀ f rm d a la, Statement (.fsqrt f rm d a la) :=
  fun _ _ _ _ _ => of_fields rfl fun _ => by change some _ = some _; simp (disch := decide) only [extract_lo, BitVec.extractLsb'_eq_self, Fmt_ofBits, RmF_ofBits]
theorem fmin : ∀ f d a b, Statement (.fmin f d a b) :=
  fun _ _ _ _ => of_fields rfl fun _ => by change some _ = some _; simp (disch := decide) only [extract_lo, BitVec.extractLsb'_eq_self, Fmt_ofBits]
theorem fmax : ∀ f d a b, Statement (.fmax f d a b) :=
  fun _ _ _ _ => of_fields rfl fun _ => by change some _ = some _; simp (disch := decide) only [extract_lo, BitVec.extractLsb'_eq_self, Fmt_ofBits]
theorem fcmp : ∀ f k d a b, Statement (.fcmp f k d a b) :=
  fun _ _ _ _ _ => of_fields rfl fun _ => by change some _ = some _; simp (disch := decide) only [extract_lo, BitVec.extractLsb'_eq_self, Fmt_ofBits, FCond_ofBits]
theorem fcvt : ∀ f rm sf d a, Statement (.fcvt f rm sf d a) :=
  fun _ _ _ _ _ => of_fields rfl fun _ => by change some _ = some _; simp (disch := decide) only [extract_lo, BitVec.extractLsb'_eq_self, Fmt_ofBits, RmF_ofBits]
theorem fcvti : ∀ f rm ty d a, Statement (.fcvti f rm ty d a) :=
  fun _ _ _ _ _ => of_fields rfl fun _ => by change some _ = some _; simp (disch := decide) only [extract_lo, BitVec.extractLsb'_eq_self, Fmt_ofBits, IntTy_ofBits, RmF_ofBits]
theorem icvtf : ∀ f rm ty d a, Statement (.icvtf f rm ty d a) :=
  fun _ _ _ _ _ => of_fields rfl fun _ => by change some _ = some _; simp (disch := decide) only [extract_lo, BitVec.extractLsb'_eq_self, Fmt_ofBits, IntTy_ofBits, RmF_ofBits]
theorem fclass : ∀ f d a, Statement (.fclass f d a) :=
  fun _ _ _ => of_fields rfl fun _ => by change some _ = some _; simp (disch := decide) only [extract_lo, BitVec.extractLsb'_eq_self, Fmt_ofBits]
theorem fsgn : ∀ f k d a b, Statement (.fsgn f k d a b) :=
  fun _ _ _ _ _ => of_fields rfl fun _ => by change some _ = some _; simp (disch := decide) only [extract_lo, BitVec.extractLsb'_eq_self, Fmt_ofBits, SgnOp_ofBits]
theorem frnd : ∀ f rm d a, Statement (.frnd f rm d a) :=
  fun _ _ _ _ => of_fields rfl fun _ => by change some _ = some _; simp (disch := decide) only [extract_lo, BitVec.extractLsb'_eq_self, Fmt_ofBits, RmF_ofBits]
theorem jmp : ∀ imm, Statement (.jmp imm) := fun _ => of_fields rfl fun _ => rfl
theorem jr : ∀ a imm, Statement (.jr a imm) := fun _ _ => of_fields rfl fun _ => rfl
theorem br : ∀ k a b imm, Statement (.br k a b imm) :=
  fun _ _ _ _ => of_fields rfl fun _ => by change some _ = some _; simp (disch := decide) only [extract_lo, BitVec.extractLsb'_eq_self, Cond_ofBits]
theorem bz : ∀ a imm, Statement (.bz a imm) := fun _ _ => of_fields rfl fun _ => rfl
theorem bnz : ∀ a imm, Statement (.bnz a imm) := fun _ _ => of_fields rfl fun _ => rfl
theorem bvf : ∀ k imm, Statement (.bvf k imm) :=
  fun _ _ => of_fields rfl fun _ => by change some _ = some _; simp (disch := decide) only [extract_lo, BitVec.extractLsb'_eq_self, VfCond_ofBits]
theorem call : ∀ imm, Statement (.call imm) := fun _ => of_fields rfl fun _ => rfl
theorem callr : ∀ a imm, Statement (.callr a imm) := fun _ _ => of_fields rfl fun _ => rfl
theorem ret : Statement (.ret) := of_fields rfl fun _ => rfl
theorem loop : ∀ a n, Statement (.loop a n) :=
  fun _ _ => of_fields rfl fun _ => by change some _ = some _; simp (disch := decide) only [extract_lo, BitVec.extractLsb'_eq_self]
theorem exit : Statement (.exit) := of_fields rfl fun _ => rfl
theorem ld : ∀ w sx d a b imm la, Statement (.ld w sx d a b imm la) :=
  fun _ _ _ _ _ _ _ => of_fields rfl fun _ => by change some _ = some _; simp (disch := decide) only [extract_lo, BitVec.extractLsb'_eq_self, Nat.sub_self, bit_hi, bit_lo, ofBool_bit]
theorem st : ∀ w d a b imm la, Statement (.st w d a b imm la) :=
  fun _ _ _ _ _ _ => of_fields rfl fun _ => by change some _ = some _; simp (disch := decide) only [extract_lo, BitVec.extractLsb'_eq_self]
theorem ldAcq : ∀ w sx sc d a b imm la, Statement (.ldAcq w sx sc d a b imm la) :=
  fun _ _ _ _ _ _ _ _ => of_fields rfl fun _ => by change some _ = some _; simp (disch := decide) only [extract_lo, BitVec.extractLsb'_eq_self, Nat.sub_self, bit_hi, bit_lo, ofBool_bit]
theorem stRel : ∀ w sc d a b imm la, Statement (.stRel w sc d a b imm la) :=
  fun _ _ _ _ _ _ _ => of_fields rfl fun _ => by change some _ = some _; simp (disch := decide) only [extract_lo, BitVec.extractLsb'_eq_self]
theorem amo : ∀ op w cmb d a b sc acq rel imm la, Statement (.amo op w cmb d a b sc acq rel imm la) :=
  fun _ _ _ _ _ _ _ _ _ _ _ => of_fields rfl fun _ => by change some _ = some _; simp (disch := decide) only [extract_hi, extract_lo, BitVec.extractLsb'_eq_self, Nat.sub_self, Nat.reduceSub, bit_hi, bit_lo, ofBool_bit, AmoOp_ofBits]
theorem cas : ∀ w d a b c sc acq rel imm la, Statement (.cas w d a b c sc acq rel imm la) :=
  fun _ _ _ _ _ _ _ _ _ _ => of_fields rfl fun _ => by change some _ = some _; simp (disch := decide) only [extract_hi, extract_lo, BitVec.extractLsb'_eq_self, Nat.sub_self, Nat.reduceSub, bit_hi, bit_lo, ofBool_bit]
theorem ldP : ∀ w sx d a b imm la, Statement (.ldP w sx d a b imm la) :=
  fun _ _ _ _ _ _ _ => of_fields rfl fun _ => by change some _ = some _; simp (disch := decide) only [extract_lo, BitVec.extractLsb'_eq_self, Nat.sub_self, bit_hi, bit_lo, ofBool_bit]
theorem stP : ∀ w d a b imm la, Statement (.stP w d a b imm la) :=
  fun _ _ _ _ _ _ => of_fields rfl fun _ => by change some _ = some _; simp (disch := decide) only [extract_lo, BitVec.extractLsb'_eq_self]
theorem ldL : ∀ w sx d a b imm la, Statement (.ldL w sx d a b imm la) :=
  fun _ _ _ _ _ _ _ => of_fields rfl fun _ => by change some _ = some _; simp (disch := decide) only [extract_lo, BitVec.extractLsb'_eq_self, Nat.sub_self, bit_hi, bit_lo, ofBool_bit]
theorem stL : ∀ w d a b imm la, Statement (.stL w d a b imm la) :=
  fun _ _ _ _ _ _ => of_fields rfl fun _ => by change some _ = some _; simp (disch := decide) only [extract_lo, BitVec.extractLsb'_eq_self]
theorem pf : ∀ l2 a b imm la, Statement (.pf l2 a b imm la) :=
  fun _ _ _ _ _ => of_fields rfl fun _ => by change some _ = some _; simp (disch := decide) only [bit_lo, ofBool_bit]
theorem cflush : ∀ a b imm la, Statement (.cflush a b imm la) := fun _ _ _ _ => of_fields rfl fun _ => rfl
theorem cinv : ∀ a b imm la, Statement (.cinv a b imm la) := fun _ _ _ _ => of_fields rfl fun _ => rfl
theorem cpin : ∀ d a b imm la, Statement (.cpin d a b imm la) := fun _ _ _ _ _ => of_fields rfl fun _ => rfl
theorem cunpin : ∀ d a b imm la, Statement (.cunpin d a b imm la) := fun _ _ _ _ _ => of_fields rfl fun _ => rfl
theorem setvl : ∀ keep d a ew grp, Statement (.setvl keep d a ew grp) :=
  fun _ _ _ _ _ => of_fields rfl fun _ => by change some _ = some _; simp (disch := decide) only [extract_hi, extract_lo, BitVec.extractLsb'_eq_self, Nat.sub_self, Nat.reduceSub, Ew_ofBits]
theorem vcfg : ∀ which d a ew grp sc rm, Statement (.vcfg which d a ew grp sc rm) :=
  fun _ _ _ _ _ _ _ => of_fields rfl fun _ => by change some _ = some _; simp (disch := decide) only [extract_hi, extract_lo, BitVec.extractLsb'_eq_self, Nat.sub_self, Nat.reduceSub]
theorem vmpush : ∀ c inv, Statement (.vmpush c inv) := fun _ _ => of_fields rfl fun _ => rfl
theorem vmelse : Statement (.vmelse) := of_fields rfl fun _ => rfl
theorem vmpop : Statement (.vmpop) := of_fields rfl fun _ => rfl
theorem vmall : Statement (.vmall) := of_fields rfl fun _ => rfl
theorem forkLanes : ∀ d imm, Statement (.forkLanes d imm) := fun _ _ => of_fields rfl fun _ => rfl
theorem joinLanes : Statement (.joinLanes) := of_fields rfl fun _ => rfl
theorem vclaim : Statement (.vclaim) := of_fields rfl fun _ => rfl
theorem vadd : ∀ d a b m, Statement (.vadd d a b m) :=
  fun _ _ _ _ => of_fields rfl fun _ => by change some _ = some _; simp (disch := decide) only [extract_lo, BitVec.extractLsb'_eq_self, mask_ofBits, vsrc_ofBits]
theorem vsub : ∀ d a b m, Statement (.vsub d a b m) :=
  fun _ _ _ _ => of_fields rfl fun _ => by change some _ = some _; simp (disch := decide) only [extract_lo, BitVec.extractLsb'_eq_self, mask_ofBits, vsrc_ofBits]
theorem vadc : ∀ d a b c, Statement (.vadc d a b c) :=
  fun _ _ _ _ => of_fields rfl fun _ => by change some _ = some _; simp (disch := decide) only [extract_lo, BitVec.extractLsb'_eq_self, vsrc_ofBits]
theorem vmadc : ∀ d a b c, Statement (.vmadc d a b c) :=
  fun _ _ _ _ => of_fields rfl fun _ => by change some _ = some _; simp (disch := decide) only [extract_lo, BitVec.extractLsb'_eq_self, vsrc_ofBits]
theorem vsbc : ∀ d a b c, Statement (.vsbc d a b c) :=
  fun _ _ _ _ => of_fields rfl fun _ => by change some _ = some _; simp (disch := decide) only [extract_lo, BitVec.extractLsb'_eq_self, vsrc_ofBits]
theorem vmsbc : ∀ d a b c, Statement (.vmsbc d a b c) :=
  fun _ _ _ _ => of_fields rfl fun _ => by change some _ = some _; simp (disch := decide) only [extract_lo, BitVec.extractLsb'_eq_self, vsrc_ofBits]
theorem vmul : ∀ d a b m, Statement (.vmul d a b m) :=
  fun _ _ _ _ => of_fields rfl fun _ => by change some _ = some _; simp (disch := decide) only [extract_lo, BitVec.extractLsb'_eq_self, mask_ofBits, vsrc_ofBits]
theorem vmulh : ∀ d a b m, Statement (.vmulh d a b m) :=
  fun _ _ _ _ => of_fields rfl fun _ => by change some _ = some _; simp (disch := decide) only [extract_lo, BitVec.extractLsb'_eq_self, mask_ofBits, vsrc_ofBits]
theorem vmulhz : ∀ d a b m, Statement (.vmulhz d a b m) :=
  fun _ _ _ _ => of_fields rfl fun _ => by change some _ = some _; simp (disch := decide) only [extract_lo, BitVec.extractLsb'_eq_self, mask_ofBits, vsrc_ofBits]
theorem vmacc : ∀ d a b m, Statement (.vmacc d a b m) :=
  fun _ _ _ _ => of_fields rfl fun _ => by change some _ = some _; simp (disch := decide) only [extract_lo, BitVec.extractLsb'_eq_self, mask_ofBits, vsrc_ofBits]
theorem vdiv : ∀ d a b m la, Statement (.vdiv d a b m la) :=
  fun _ _ _ _ _ => of_fields rfl fun _ => by change some _ = some _; simp (disch := decide) only [extract_lo, BitVec.extractLsb'_eq_self, mask_ofBits, vsrc_ofBits]
theorem vdivz : ∀ d a b m la, Statement (.vdivz d a b m la) :=
  fun _ _ _ _ _ => of_fields rfl fun _ => by change some _ = some _; simp (disch := decide) only [extract_lo, BitVec.extractLsb'_eq_self, mask_ofBits, vsrc_ofBits]
theorem vrem : ∀ sg d a b m la, Statement (.vrem sg d a b m la) :=
  fun _ _ _ _ _ _ => of_fields rfl fun _ => by change some _ = some _; simp (disch := decide) only [extract_lo, BitVec.extractLsb'_eq_self, Sign_ofBitsS, mask_ofBits, vsrc_ofBits]
theorem vand : ∀ d a b m, Statement (.vand d a b m) :=
  fun _ _ _ _ => of_fields rfl fun _ => by change some _ = some _; simp (disch := decide) only [extract_lo, BitVec.extractLsb'_eq_self, mask_ofBits, vsrc_ofBits]
theorem vor : ∀ d a b m, Statement (.vor d a b m) :=
  fun _ _ _ _ => of_fields rfl fun _ => by change some _ = some _; simp (disch := decide) only [extract_lo, BitVec.extractLsb'_eq_self, mask_ofBits, vsrc_ofBits]
theorem vxor : ∀ d a b m, Statement (.vxor d a b m) :=
  fun _ _ _ _ => of_fields rfl fun _ => by change some _ = some _; simp (disch := decide) only [extract_lo, BitVec.extractLsb'_eq_self, mask_ofBits, vsrc_ofBits]
theorem vshl : ∀ d a b m, Statement (.vshl d a b m) :=
  fun _ _ _ _ => of_fields rfl fun _ => by change some _ = some _; simp (disch := decide) only [extract_lo, BitVec.extractLsb'_eq_self, mask_ofBits, vsrc_ofBits]
theorem vshr : ∀ d a b m, Statement (.vshr d a b m) :=
  fun _ _ _ _ => of_fields rfl fun _ => by change some _ = some _; simp (disch := decide) only [extract_lo, BitVec.extractLsb'_eq_self, mask_ofBits, vsrc_ofBits]
theorem vsra : ∀ d a b m, Statement (.vsra d a b m) :=
  fun _ _ _ _ => of_fields rfl fun _ => by change some _ = some _; simp (disch := decide) only [extract_lo, BitVec.extractLsb'_eq_self, mask_ofBits, vsrc_ofBits]
theorem vmin : ∀ d a b m, Statement (.vmin d a b m) :=
  fun _ _ _ _ => of_fields rfl fun _ => by change some _ = some _; simp (disch := decide) only [extract_lo, BitVec.extractLsb'_eq_self, mask_ofBits, vsrc_ofBits]
theorem vmax : ∀ d a b m, Statement (.vmax d a b m) :=
  fun _ _ _ _ => of_fields rfl fun _ => by change some _ = some _; simp (disch := decide) only [extract_lo, BitVec.extractLsb'_eq_self, mask_ofBits, vsrc_ofBits]
theorem vumin : ∀ d a b m, Statement (.vumin d a b m) :=
  fun _ _ _ _ => of_fields rfl fun _ => by change some _ = some _; simp (disch := decide) only [extract_lo, BitVec.extractLsb'_eq_self, mask_ofBits, vsrc_ofBits]
theorem vumax : ∀ d a b m, Statement (.vumax d a b m) :=
  fun _ _ _ _ => of_fields rfl fun _ => by change some _ = some _; simp (disch := decide) only [extract_lo, BitVec.extractLsb'_eq_self, mask_ofBits, vsrc_ofBits]
theorem vcmp : ∀ k d a b m, Statement (.vcmp k d a b m) :=
  fun _ _ _ _ _ => of_fields rfl fun _ => by change some _ = some _; simp (disch := decide) only [extract_lo, BitVec.extractLsb'_eq_self, Cond_ofBits, mask_ofBits, vsrc_ofBits]
theorem vsel : ∀ d a b c inv, Statement (.vsel d a b c inv) :=
  fun _ _ _ _ _ => of_fields rfl fun _ => by change some _ = some _; simp (disch := decide) only [extract_lo, BitVec.extractLsb'_eq_self, vsrc_ofBits]
theorem vmov : ∀ d b m, Statement (.vmov d b m) :=
  fun _ _ _ => of_fields rfl fun _ => by change some _ = some _; simp (disch := decide) only [extract_lo, BitVec.extractLsb'_eq_self, mask_ofBits, vsrc_ofBits]
theorem vid : ∀ d m, Statement (.vid d m) :=
  fun _ _ => of_fields rfl fun _ => by change some _ = some _; simp (disch := decide) only [mask_ofBits]
theorem vcvti : ∀ sg sat sw d a m, Statement (.vcvti sg sat sw d a m) :=
  fun _ _ _ _ _ _ => of_fields rfl fun _ => by change some _ = some _; simp (disch := decide) only [extract_hi, extract_lo, BitVec.extractLsb'_eq_self, Nat.sub_self, Ew_ofBits, Sign_ofBitsZ, mask_ofBits]
theorem vpopc : ∀ d a m, Statement (.vpopc d a m) :=
  fun _ _ _ => of_fields rfl fun _ => by change some _ = some _; simp (disch := decide) only [mask_ofBits]
theorem vfirst : ∀ d a m, Statement (.vfirst d a m) :=
  fun _ _ _ => of_fields rfl fun _ => by change some _ = some _; simp (disch := decide) only [mask_ofBits]
theorem vlast : ∀ d a m, Statement (.vlast d a m) :=
  fun _ _ _ => of_fields rfl fun _ => by change some _ = some _; simp (disch := decide) only [mask_ofBits]
theorem vsadd : ∀ sg d a b m, Statement (.vsadd sg d a b m) :=
  fun _ _ _ _ _ => of_fields rfl fun _ => by change some _ = some _; simp (disch := decide) only [extract_lo, BitVec.extractLsb'_eq_self, Sign_ofBitsS, mask_ofBits, vsrc_ofBits]
theorem vssub : ∀ sg d a b m, Statement (.vssub sg d a b m) :=
  fun _ _ _ _ _ => of_fields rfl fun _ => by change some _ = some _; simp (disch := decide) only [extract_lo, BitVec.extractLsb'_eq_self, Sign_ofBitsS, mask_ofBits, vsrc_ofBits]
theorem vfadd : ∀ f rm d a b m, Statement (.vfadd f rm d a b m) :=
  fun _ _ _ _ _ _ => of_fields rfl fun _ => by change some _ = some _; simp (disch := decide) only [extract_lo, BitVec.extractLsb'_eq_self, Fmt_ofBits, RmF_ofBits, mask_ofBits, vsrc_ofBits]
theorem vfsub : ∀ f rm d a b m, Statement (.vfsub f rm d a b m) :=
  fun _ _ _ _ _ _ => of_fields rfl fun _ => by change some _ = some _; simp (disch := decide) only [extract_lo, BitVec.extractLsb'_eq_self, Fmt_ofBits, RmF_ofBits, mask_ofBits, vsrc_ofBits]
theorem vfmul : ∀ f rm d a b m, Statement (.vfmul f rm d a b m) :=
  fun _ _ _ _ _ _ => of_fields rfl fun _ => by change some _ = some _; simp (disch := decide) only [extract_lo, BitVec.extractLsb'_eq_self, Fmt_ofBits, RmF_ofBits, mask_ofBits, vsrc_ofBits]
theorem vfma : ∀ f rm d a b m, Statement (.vfma f rm d a b m) :=
  fun _ _ _ _ _ _ => of_fields rfl fun _ => by change some _ = some _; simp (disch := decide) only [extract_lo, BitVec.extractLsb'_eq_self, Fmt_ofBits, RmF_ofBits, mask_ofBits, vsrc_ofBits]
theorem vfms : ∀ f rm d a b m, Statement (.vfms f rm d a b m) :=
  fun _ _ _ _ _ _ => of_fields rfl fun _ => by change some _ = some _; simp (disch := decide) only [extract_lo, BitVec.extractLsb'_eq_self, Fmt_ofBits, RmF_ofBits, mask_ofBits, vsrc_ofBits]
theorem vfnma : ∀ f rm d a b m, Statement (.vfnma f rm d a b m) :=
  fun _ _ _ _ _ _ => of_fields rfl fun _ => by change some _ = some _; simp (disch := decide) only [extract_lo, BitVec.extractLsb'_eq_self, Fmt_ofBits, RmF_ofBits, mask_ofBits, vsrc_ofBits]
theorem vfdiv : ∀ f rm d a b m la, Statement (.vfdiv f rm d a b m la) :=
  fun _ _ _ _ _ _ _ => of_fields rfl fun _ => by change some _ = some _; simp (disch := decide) only [extract_lo, BitVec.extractLsb'_eq_self, Fmt_ofBits, RmF_ofBits, mask_ofBits, vsrc_ofBits]
theorem vfsqrt : ∀ f rm d a m la, Statement (.vfsqrt f rm d a m la) :=
  fun _ _ _ _ _ _ => of_fields rfl fun _ => by change some _ = some _; simp (disch := decide) only [extract_lo, BitVec.extractLsb'_eq_self, Fmt_ofBits, RmF_ofBits, mask_ofBits]
theorem vfrsqe : ∀ f d a m, Statement (.vfrsqe f d a m) :=
  fun _ _ _ _ => of_fields rfl fun _ => by change some _ = some _; simp (disch := decide) only [extract_lo, BitVec.extractLsb'_eq_self, Fmt_ofBits, mask_ofBits]
theorem vfrece : ∀ f d a m, Statement (.vfrece f d a m) :=
  fun _ _ _ _ => of_fields rfl fun _ => by change some _ = some _; simp (disch := decide) only [extract_lo, BitVec.extractLsb'_eq_self, Fmt_ofBits, mask_ofBits]
theorem vfmin : ∀ f d a b m, Statement (.vfmin f d a b m) :=
  fun _ _ _ _ _ => of_fields rfl fun _ => by change some _ = some _; simp (disch := decide) only [extract_lo, BitVec.extractLsb'_eq_self, Fmt_ofBits, mask_ofBits, vsrc_ofBits]
theorem vfmax : ∀ f d a b m, Statement (.vfmax f d a b m) :=
  fun _ _ _ _ _ => of_fields rfl fun _ => by change some _ = some _; simp (disch := decide) only [extract_lo, BitVec.extractLsb'_eq_self, Fmt_ofBits, mask_ofBits, vsrc_ofBits]
theorem vfcmp : ∀ f k d a b m, Statement (.vfcmp f k d a b m) :=
  fun _ _ _ _ _ _ => of_fields rfl fun _ => by change some _ = some _; simp (disch := decide) only [extract_hi, extract_lo, BitVec.extractLsb'_eq_self, Nat.sub_self, Fmt_ofBits, FCond_ofBits, mask_ofBits, vsrc_ofBits]
theorem vfcvt : ∀ f rm sf d a m, Statement (.vfcvt f rm sf d a m) :=
  fun _ _ _ _ _ _ => of_fields rfl fun _ => by change some _ = some _; simp (disch := decide) only [extract_hi, extract_lo, BitVec.extractLsb'_eq_self, Nat.sub_self, Fmt_ofBits, RmF_ofBits, mask_ofBits]
theorem vfcvti : ∀ f rm u d a m, Statement (.vfcvti f rm u d a m) :=
  fun _ _ _ _ _ _ => of_fields rfl fun _ => by change some _ = some _; simp (disch := decide) only [extract_lo, BitVec.extractLsb'_eq_self, Nat.sub_self, bit_hi, bit_lo, ofBool_bit, Fmt_ofBits, RmF_ofBits, mask_ofBits]
theorem vicvtf : ∀ f rm u d a m, Statement (.vicvtf f rm u d a m) :=
  fun _ _ _ _ _ _ => of_fields rfl fun _ => by change some _ = some _; simp (disch := decide) only [extract_lo, BitVec.extractLsb'_eq_self, Nat.sub_self, bit_hi, bit_lo, ofBool_bit, Fmt_ofBits, RmF_ofBits, mask_ofBits]
theorem vfclass : ∀ f d a m, Statement (.vfclass f d a m) :=
  fun _ _ _ _ => of_fields rfl fun _ => by change some _ = some _; simp (disch := decide) only [extract_lo, BitVec.extractLsb'_eq_self, Fmt_ofBits, mask_ofBits]
theorem vfsgn : ∀ f k d a b m, Statement (.vfsgn f k d a b m) :=
  fun _ _ _ _ _ _ => of_fields rfl fun _ => by change some _ = some _; simp (disch := decide) only [extract_hi, extract_lo, BitVec.extractLsb'_eq_self, Nat.sub_self, Fmt_ofBits, SgnOp_ofBits, mask_ofBits, vsrc_ofBits]
theorem vfrnd : ∀ f rm d a m, Statement (.vfrnd f rm d a m) :=
  fun _ _ _ _ _ => of_fields rfl fun _ => by change some _ = some _; simp (disch := decide) only [extract_lo, BitVec.extractLsb'_eq_self, Fmt_ofBits, RmF_ofBits, mask_ofBits]
theorem vslideup : ∀ d a off pair m, Statement (.vslideup d a off pair m) :=
  fun _ _ _ _ _ => of_fields rfl fun _ => by change some _ = some _; simp (disch := decide) only [extract_lo, BitVec.extractLsb'_eq_self, Nat.sub_self, Nat.reduceSub, bit_hi, ofBool_bit, mask_ofBits, slide_ofBits]
theorem vslidedn : ∀ d a off pair m, Statement (.vslidedn d a off pair m) :=
  fun _ _ _ _ _ => of_fields rfl fun _ => by change some _ = some _; simp (disch := decide) only [extract_lo, BitVec.extractLsb'_eq_self, Nat.sub_self, Nat.reduceSub, bit_hi, ofBool_bit, mask_ofBits, slide_ofBits]
theorem vgatherR : ∀ d a b pair m, Statement (.vgatherR d a b pair m) :=
  fun _ _ _ _ _ => of_fields rfl fun _ => by change some _ = some _; simp (disch := decide) only [bit_hi, ofBool_bit, Nat.sub_self, mask_ofBits]
theorem vcompress : ∀ d a pair m, Statement (.vcompress d a pair m) :=
  fun _ _ _ _ => of_fields rfl fun _ => by change some _ = some _; simp (disch := decide) only [bit_hi, ofBool_bit, Nat.sub_self, mask_ofBits]
theorem vexpand : ∀ d a pair m, Statement (.vexpand d a pair m) :=
  fun _ _ _ _ => of_fields rfl fun _ => by change some _ = some _; simp (disch := decide) only [bit_hi, ofBool_bit, Nat.sub_self, mask_ofBits]
theorem vredadd : ∀ sg d a b m, Statement (.vredadd sg d a b m) :=
  fun _ _ _ _ _ => of_fields rfl fun _ => by change some _ = some _; simp (disch := decide) only [extract_lo, BitVec.extractLsb'_eq_self, Sign_ofBitsS, mask_ofBits]
theorem vredmax : ∀ sg d a b m, Statement (.vredmax sg d a b m) :=
  fun _ _ _ _ _ => of_fields rfl fun _ => by change some _ = some _; simp (disch := decide) only [extract_lo, BitVec.extractLsb'_eq_self, Sign_ofBitsS, mask_ofBits]
theorem vredmin : ∀ sg d a b m, Statement (.vredmin sg d a b m) :=
  fun _ _ _ _ _ => of_fields rfl fun _ => by change some _ = some _; simp (disch := decide) only [extract_lo, BitVec.extractLsb'_eq_self, Sign_ofBitsS, mask_ofBits]
theorem vfredadd : ∀ f rm tree d a b m, Statement (.vfredadd f rm tree d a b m) :=
  fun _ _ _ _ _ _ _ => of_fields rfl fun _ => by change some _ = some _; simp (disch := decide) only [extract_lo, BitVec.extractLsb'_eq_self, Nat.sub_self, bit_hi, bit_lo, ofBool_bit, Fmt_ofBits, RmF_ofBits, mask_ofBits]
theorem vfredmax : ∀ f d a b m, Statement (.vfredmax f d a b m) :=
  fun _ _ _ _ _ => of_fields rfl fun _ => by change some _ = some _; simp (disch := decide) only [extract_lo, BitVec.extractLsb'_eq_self, Fmt_ofBits, mask_ofBits]
theorem vfredmin : ∀ f d a b m, Statement (.vfredmin f d a b m) :=
  fun _ _ _ _ _ => of_fields rfl fun _ => by change some _ = some _; simp (disch := decide) only [extract_lo, BitVec.extractLsb'_eq_self, Fmt_ofBits, mask_ofBits]
theorem vbfly : ∀ f rm d a dist m, Statement (.vbfly f rm d a dist m) :=
  fun _ _ _ _ _ _ => of_fields rfl fun _ => by change some _ = some _; simp (disch := decide) only [extract_lo, BitVec.extractLsb'_eq_self, Fmt_ofBits, RmF_ofBits, mask_ofBits]
theorem vextr : ∀ sg d a b, Statement (.vextr sg d a b) :=
  fun _ _ _ _ => of_fields rfl fun _ => by change some _ = some _; simp (disch := decide) only [extract_lo, BitVec.extractLsb'_eq_self, Sign_ofBitsS]
theorem vinsr : ∀ d a b, Statement (.vinsr d a b) := fun _ _ _ => of_fields rfl fun _ => rfl
theorem vld : ∀ d a b imm m la, Statement (.vld d a b imm m la) :=
  fun _ _ _ _ _ _ => of_fields rfl fun _ => by change some _ = some _; simp (disch := decide) only [mask_ofBits]
theorem vst : ∀ d a b imm m la, Statement (.vst d a b imm m la) :=
  fun _ _ _ _ _ _ => of_fields rfl fun _ => by change some _ = some _; simp (disch := decide) only [mask_ofBits]
theorem vlds : ∀ d a b imm m la, Statement (.vlds d a b imm m la) :=
  fun _ _ _ _ _ _ => of_fields rfl fun _ => by change some _ = some _; simp (disch := decide) only [mask_ofBits]
theorem vsts : ∀ d a b imm m la, Statement (.vsts d a b imm m la) :=
  fun _ _ _ _ _ _ => of_fields rfl fun _ => by change some _ = some _; simp (disch := decide) only [mask_ofBits]
theorem vldx : ∀ d a b iw scale m la, Statement (.vldx d a b iw scale m la) :=
  fun _ _ _ _ _ _ _ => of_fields rfl fun _ => by change some _ = some _; simp (disch := decide) only [extract_hi, extract_lo, BitVec.extractLsb'_eq_self, Nat.sub_self, Ew_ofBits, mask_ofBits]
theorem vstx : ∀ d a b iw scale m la, Statement (.vstx d a b iw scale m la) :=
  fun _ _ _ _ _ _ _ => of_fields rfl fun _ => by change some _ = some _; simp (disch := decide) only [extract_hi, extract_lo, BitVec.extractLsb'_eq_self, Nat.sub_self, Ew_ofBits, mask_ofBits]
theorem vldL : ∀ d a b imm m la, Statement (.vldL d a b imm m la) :=
  fun _ _ _ _ _ _ => of_fields rfl fun _ => by change some _ = some _; simp (disch := decide) only [mask_ofBits]
theorem vstL : ∀ d a b imm m la, Statement (.vstL d a b imm m la) :=
  fun _ _ _ _ _ _ => of_fields rfl fun _ => by change some _ = some _; simp (disch := decide) only [mask_ofBits]
theorem vldxL : ∀ d a b iw scale m la, Statement (.vldxL d a b iw scale m la) :=
  fun _ _ _ _ _ _ _ => of_fields rfl fun _ => by change some _ = some _; simp (disch := decide) only [extract_hi, extract_lo, BitVec.extractLsb'_eq_self, Nat.sub_self, Ew_ofBits, mask_ofBits]
theorem vstxL : ∀ d a b iw scale m la, Statement (.vstxL d a b iw scale m la) :=
  fun _ _ _ _ _ _ _ => of_fields rfl fun _ => by change some _ = some _; simp (disch := decide) only [extract_hi, extract_lo, BitVec.extractLsb'_eq_self, Nat.sub_self, Ew_ofBits, mask_ofBits]
theorem vpgather : ∀ d b f m la, Statement (.vpgather d b f m la) :=
  fun _ _ _ _ _ => of_fields rfl fun _ => by change some _ = some _; simp (disch := decide) only [extract_lo, BitVec.extractLsb'_eq_self, mask_ofBits]
theorem vpscatter : ∀ d b f m la, Statement (.vpscatter d b f m la) :=
  fun _ _ _ _ _ => of_fields rfl fun _ => by change some _ = some _; simp (disch := decide) only [extract_lo, BitVec.extractLsb'_eq_self, mask_ofBits]
theorem vstP : ∀ d a b imm m la, Statement (.vstP d a b imm m la) :=
  fun _ _ _ _ _ _ => of_fields rfl fun _ => by change some _ = some _; simp (disch := decide) only [mask_ofBits]
theorem vamo : ∀ op cmb d a b iw scale acq rel m la, Statement (.vamo op cmb d a b iw scale acq rel m la) :=
  fun _ _ _ _ _ _ _ _ _ _ _ => of_fields rfl fun _ => by change some _ = some _; simp (disch := decide) only [extract_hi, extract_lo, BitVec.extractLsb'_eq_self, Nat.sub_self, Nat.reduceSub, bit_hi, bit_lo, ofBool_bit, AmoOp_ofBits, Ew_ofBits, mask_ofBits]
theorem vldxM : ∀ d a b iw scale f m la, Statement (.vldxM d a b iw scale f m la) :=
  fun _ _ _ _ _ _ _ _ => of_fields rfl fun _ => by change some _ = some _; simp (disch := decide) only [extract_hi, extract_lo, BitVec.extractLsb'_eq_self, Nat.sub_self, Ew_ofBits, mask_ofBits]
theorem mclr : ∀ t, Statement (.mclr t) :=
  fun _ => of_fields rfl fun _ => by change some _ = some _; simp (disch := decide) only [extract_lo, BitVec.extractLsb'_eq_self]
theorem mldT : ∀ f t a b sp imm la, Statement (.mldT f t a b sp imm la) :=
  fun _ _ _ _ _ _ _ => of_fields rfl fun _ => by change some _ = some _; simp (disch := decide) only [extract_lo, BitVec.extractLsb'_eq_self, Nat.sub_self, bit_hi, ofBool_bit, TFmt_ofBits]
theorem mstT : ∀ f rm sat t a b sp imm la, Statement (.mstT f rm sat t a b sp imm la) :=
  fun _ _ _ _ _ _ _ _ _ => of_fields rfl fun _ => by change some _ = some _; simp (disch := decide) only [extract_lo, BitVec.extractLsb'_eq_self, Nat.sub_self, bit_hi, ofBool_bit, TFmt_ofBits, RmF_ofBits]
theorem mldW : ∀ slot panel form scl a b sp imm la, Statement (.mldW slot panel form scl a b sp imm la) :=
  fun _ _ _ _ _ _ _ _ _ => of_fields rfl fun _ => by change some _ = some _; simp (disch := decide) only [extract_lo, BitVec.extractLsb'_eq_self, Nat.sub_self, Nat.reduceSub, bit_hi, bit_lo, ofBool_bit, WForm_ofBits]
theorem mma : ∀ f sat t a slot panel row0 la, Statement (.mma f sat t a slot panel row0 la) :=
  fun _ _ _ _ _ _ _ _ => of_fields rfl fun _ => by change some _ = some _; simp (disch := decide) only [extract_hi, extract_lo, BitVec.extractLsb'_eq_self, Nat.sub_self, Nat.reduceSub, MFmt_ofBits]
theorem mvt : ∀ toTile d a row0, Statement (.mvt toTile d a row0) :=
  fun _ _ _ _ => of_fields rfl fun _ => by change some _ = some _; simp (disch := decide) only [extract_lo, BitVec.extractLsb'_eq_self, bit_lo, ofBool_bit]
theorem mcmd : ∀ trap d a b c la, Statement (.mcmd trap d a b c la) :=
  fun _ _ _ _ _ _ => of_fields rfl fun _ => by change some _ = some _; simp (disch := decide) only [bit_lo, ofBool_bit]
theorem mwait : Statement (.mwait) := of_fields rfl fun _ => rfl
theorem dtabLd : ∀ n a sp imm la, Statement (.dtabLd n a sp imm la) :=
  fun _ _ _ _ _ => of_fields rfl fun _ => by change some _ = some _; simp (disch := decide) only [extract_lo, BitVec.extractLsb'_eq_self, Nat.sub_self, bit_hi, ofBool_bit]
theorem vcvtQ : ∀ q d a b m, Statement (.vcvtQ q d a b m) :=
  fun _ _ _ _ _ => of_fields rfl fun _ => by change some _ = some _; simp (disch := decide) only [extract_lo, BitVec.extractLsb'_eq_self, Code_ofBits, mask_ofBits]
theorem vcvtDq : ∀ q sat d a m, Statement (.vcvtDq q sat d a m) :=
  fun _ _ _ _ _ => of_fields rfl fun _ => by change some _ = some _; simp (disch := decide) only [extract_lo, BitVec.extractLsb'_eq_self, Code_ofBits, mask_ofBits]
theorem vscl : ∀ q sat d a b tab m, Statement (.vscl q sat d a b tab m) :=
  fun _ _ _ _ _ _ _ => of_fields rfl fun _ => by change some _ = some _; simp (disch := decide) only [extract_lo, BitVec.extractLsb'_eq_self, Code_ofBits, mask_ofBits]
theorem vhadq : ∀ q d a b n m, Statement (.vhadq q d a b n m) :=
  fun _ _ _ _ _ _ => of_fields rfl fun _ => by change some _ = some _; simp (disch := decide) only [extract_lo, BitVec.extractLsb'_eq_self, Code_ofBits, mask_ofBits]
theorem cpStart : ∀ ch a sp imm la, Statement (.cpStart ch a sp imm la) :=
  fun _ _ _ _ _ => of_fields rfl fun _ => by change some _ = some _; simp (disch := decide) only [extract_lo, BitVec.extractLsb'_eq_self, Nat.sub_self, Nat.reduceSub, bit_hi, ofBool_bit]
theorem cpSeal : ∀ d la, Statement (.cpSeal d la) := fun _ _ => of_fields rfl fun _ => rfl
theorem cpWait : ∀ n, Statement (.cpWait n) :=
  fun _ => of_fields rfl fun _ => by change some _ = some _; simp (disch := decide) only [extract_lo, BitVec.extractLsb'_eq_self]
theorem sbind : ∀ out d ch, Statement (.sbind out d ch) :=
  fun _ _ _ => of_fields rfl fun _ => by change some _ = some _; simp (disch := decide) only [extract_lo, BitVec.extractLsb'_eq_self, bit_lo, ofBool_bit]
theorem sunbind : ∀ d, Statement (.sunbind d) := fun _ => of_fields rfl fun _ => rfl
theorem qPush : ∀ qh a n la, Statement (.qPush qh a n la) :=
  fun _ _ _ _ => of_fields rfl fun _ => by change some _ = some _; simp (disch := decide) only [extract_lo, BitVec.extractLsb'_eq_self]
theorem qPop : ∀ try_ qh d a la, Statement (.qPop try_ qh d a la) :=
  fun _ _ _ _ _ => of_fields rfl fun _ => by change some _ = some _; simp (disch := decide) only [extract_lo, BitVec.extractLsb'_eq_self, bit_lo, ofBool_bit]
theorem qNotify : ∀ what qh a la, Statement (.qNotify what qh a la) :=
  fun _ _ _ _ => of_fields rfl fun _ => by change some _ = some _; simp (disch := decide) only [extract_lo, BitVec.extractLsb'_eq_self, Notify_ofBits]
theorem qCancel : ∀ qh d a la, Statement (.qCancel qh d a la) :=
  fun _ _ _ _ => of_fields rfl fun _ => by change some _ = some _; simp (disch := decide) only [extract_lo, BitVec.extractLsb'_eq_self]
theorem msgSend : ∀ mode d a b c qh la, Statement (.msgSend mode d a b c qh la) :=
  fun _ _ _ _ _ _ _ => of_fields rfl fun _ => by change some _ = some _; simp (disch := decide) only [extract_lo, BitVec.extractLsb'_eq_self, MsgMode_ofBits]
theorem hret : ∀ a, Statement (.hret a) := fun _ => of_fields rfl fun _ => rfl
theorem gangForm : ∀ d a b size, Statement (.gangForm d a b size) :=
  fun _ _ _ _ => of_fields rfl fun _ => by change some _ = some _; simp (disch := decide) only [extract_lo, BitVec.extractLsb'_eq_self]
theorem gangSplit : Statement (.gangSplit) := of_fields rfl fun _ => rfl
theorem rastSetup : ∀ s d a b, Statement (.rastSetup s d a b) :=
  fun _ _ _ _ => of_fields rfl fun _ => by change some _ = some _; simp (disch := decide) only [extract_lo, BitVec.extractLsb'_eq_self]
theorem rastCover : ∀ s d a m, Statement (.rastCover s d a m) :=
  fun _ _ _ _ => of_fields rfl fun _ => by change some _ = some _; simp (disch := decide) only [extract_lo, BitVec.extractLsb'_eq_self, mask_ofBits]
theorem rastAttr : ∀ what s d a m, Statement (.rastAttr what s d a m) :=
  fun _ _ _ _ _ => of_fields rfl fun _ => by change some _ = some _; simp (disch := decide) only [extract_lo, BitVec.extractLsb'_eq_self, Attr_ofBits, mask_ofBits]
theorem vsample : ∀ d a b m la, Statement (.vsample d a b m la) :=
  fun _ _ _ _ _ => of_fields rfl fun _ => by change some _ = some _; simp (disch := decide) only [mask_ofBits]
theorem vsampleM : ∀ d a b f m la, Statement (.vsampleM d a b f m la) :=
  fun _ _ _ _ _ _ => of_fields rfl fun _ => by change some _ = some _; simp (disch := decide) only [extract_lo, BitVec.extractLsb'_eq_self, mask_ofBits]
theorem rqInit : ∀ q d a b m la, Statement (.rqInit q d a b m la) :=
  fun _ _ _ _ _ _ => of_fields rfl fun _ => by change some _ = some _; simp (disch := decide) only [bit_lo, ofBool_bit, mask_ofBits]
theorem rqStep : ∀ q d n m la, Statement (.rqStep q d n m la) :=
  fun _ _ _ _ _ => of_fields rfl fun _ => by change some _ = some _; simp (disch := decide) only [extract_lo, BitVec.extractLsb'_eq_self, bit_lo, ofBool_bit, mask_ofBits]
theorem rqGet : ∀ fld q cand d m, Statement (.rqGet fld q cand d m) :=
  fun _ _ _ _ _ => of_fields rfl fun _ => by change some _ = some _; simp (disch := decide) only [extract_lo, BitVec.extractLsb'_eq_self, Nat.sub_self, bit_hi, bit_lo, ofBool_bit, RqField_ofBits, mask_ofBits]
theorem rqCommit : ∀ q m, Statement (.rqCommit q m) :=
  fun _ _ => of_fields rfl fun _ => by change some _ = some _; simp (disch := decide) only [bit_lo, ofBool_bit, mask_ofBits]
theorem rqEnd : ∀ q, Statement (.rqEnd q) :=
  fun _ => of_fields rfl fun _ => by change some _ = some _; simp (disch := decide) only [bit_lo, ofBool_bit]
theorem bldCmd : ∀ d a la, Statement (.bldCmd d a la) := fun _ _ _ => of_fields rfl fun _ => rfl
theorem fence : ∀ kind sc, Statement (.fence kind sc) :=
  fun _ _ => of_fields rfl fun _ => by change some _ = some _; simp (disch := decide) only [extract_hi, extract_lo, BitVec.extractLsb'_eq_self, Nat.sub_self]
theorem wait : ∀ k w d a b c sp imm, Statement (.wait k w d a b c sp imm) :=
  fun _ _ _ _ _ _ _ _ => of_fields rfl fun _ => by change some _ = some _; simp (disch := decide) only [extract_lo, BitVec.extractLsb'_eq_self, Nat.sub_self, Nat.reduceSub, bit_hi, ofBool_bit, WCond_ofBits]
theorem bar : ∀ slot, Statement (.bar slot) :=
  fun _ => of_fields rfl fun _ => by change some _ = some _; simp (disch := decide) only [extract_lo, BitVec.extractLsb'_eq_self]
theorem grpRed : ∀ op d a slot, Statement (.grpRed op d a slot) :=
  fun _ _ _ _ => of_fields rfl fun _ => by change some _ = some _; simp (disch := decide) only [extract_lo, BitVec.extractLsb'_eq_self, RedOp_ofBits]
theorem grpBcast : ∀ d a slot root, Statement (.grpBcast d a slot root) :=
  fun _ _ _ _ => of_fields rfl fun _ => by change some _ = some _; simp (disch := decide) only [extract_hi, extract_lo, BitVec.extractLsb'_eq_self, Nat.sub_self, Nat.reduceSub]
theorem crr : ∀ d cr, Statement (.crr d cr) :=
  fun _ _ => of_fields rfl fun _ => by change some _ = some _; simp (disch := decide) only [extract_lo, BitVec.extractLsb'_eq_self]
theorem crw : ∀ d a cr, Statement (.crw d a cr) :=
  fun _ _ _ => of_fields rfl fun _ => by change some _ = some _; simp (disch := decide) only [extract_lo, BitVec.extractLsb'_eq_self]
theorem crset : ∀ d a cr, Statement (.crset d a cr) :=
  fun _ _ _ => of_fields rfl fun _ => by change some _ = some _; simp (disch := decide) only [extract_lo, BitVec.extractLsb'_eq_self]
theorem crclr : ∀ d a cr, Statement (.crclr d a cr) :=
  fun _ _ _ => of_fields rfl fun _ => by change some _ = some _; simp (disch := decide) only [extract_lo, BitVec.extractLsb'_eq_self]
theorem ecall : ∀ n, Statement (.ecall n) :=
  fun _ => of_fields rfl fun _ => by change some _ = some _; simp (disch := decide) only [extract_lo, BitVec.extractLsb'_eq_self]
theorem sret : Statement (.sret) := of_fields rfl fun _ => rfl
theorem brk : ∀ n, Statement (.brk n) :=
  fun _ => of_fields rfl fun _ => by change some _ = some _; simp (disch := decide) only [extract_lo, BitVec.extractLsb'_eq_self]
theorem wfi : Statement (.wfi) := of_fields rfl fun _ => rfl
theorem icinv : ∀ all a imm, Statement (.icinv all a imm) :=
  fun _ _ _ => of_fields rfl fun _ => by change some _ = some _; simp (disch := decide) only [bit_lo, ofBool_bit]
theorem tlbinv : ∀ kind space a b, Statement (.tlbinv kind space a b) :=
  fun _ _ _ _ => of_fields rfl fun _ => by change some _ = some _; simp (disch := decide) only [extract_lo, BitVec.extractLsb'_eq_self, TlbKind_ofBits, TlbSpace_ofBits]
theorem vmld : ∀ t a b imm la, Statement (.vmld t a b imm la) :=
  fun _ _ _ _ _ => of_fields rfl fun _ => by change some _ = some _; simp (disch := decide) only [extract_lo, BitVec.extractLsb'_eq_self]
theorem vmst : ∀ t a b imm la, Statement (.vmst t a b imm la) :=
  fun _ _ _ _ _ => of_fields rfl fun _ => by change some _ = some _; simp (disch := decide) only [extract_lo, BitVec.extractLsb'_eq_self]
theorem bmsk : ∀ d a m, Statement (.bmsk d a m) :=
  fun _ _ _ => of_fields rfl fun _ => by change some _ = some _; simp (disch := decide) only [mask_ofBits]
theorem mmaS48 : ∀ sat t a slot panel row0 la, Statement (.mmaS48 sat t a slot panel row0 la) :=
  fun _ _ _ _ _ _ _ => of_fields rfl fun _ => by change some _ = some _; simp (disch := decide) only [extract_hi, extract_lo, BitVec.extractLsb'_eq_self, Nat.sub_self, Nat.reduceSub]
theorem rqSort : ∀ q d m la, Statement (.rqSort q d m la) :=
  fun _ _ _ _ => of_fields rfl fun _ => by change some _ = some _; simp (disch := decide) only [bit_lo, ofBool_bit, mask_ofBits]
theorem waitConditionMet : ∀ a0, Statement (.waitConditionMet a0) := fun _ => of_event rfl
theorem waitTimeout : ∀ a0, Statement (.waitTimeout a0) := fun _ => of_event rfl
theorem longLatencyComplete : ∀ a0 a1 a2, Statement (.longLatencyComplete a0 a1 a2) := fun _ _ _ => of_event rfl
theorem trapEntry : ∀ a0 a1, Statement (.trapEntry a0 a1) := fun _ _ => of_event rfl
theorem cycleMatch : ∀ a0, Statement (.cycleMatch a0) := fun _ => of_event rfl
theorem stopTaken : ∀ a0 a1, Statement (.stopTaken a0 a1) := fun _ _ => of_event rfl
theorem stopRegisterWrite : ∀ a0 a1, Statement (.stopRegisterWrite a0 a1) := fun _ _ => of_event rfl
theorem migrationPlace : ∀ a0, Statement (.migrationPlace a0) := fun _ => of_event rfl
theorem matrixClaimGrant : ∀ a0, Statement (.matrixClaimGrant a0) := fun _ => of_event rfl
theorem laneReclaim : ∀ a0 a1 a2, Statement (.laneReclaim a0 a1 a2) := fun _ _ _ => of_event rfl
theorem reclaimWindowExpiry : ∀ a0 a1, Statement (.reclaimWindowExpiry a0 a1) := fun _ _ => of_event rfl
theorem fullSwitch : ∀ a0, Statement (.fullSwitch a0) := fun _ => of_event rfl
theorem contextResume : ∀ a0 a1, Statement (.contextResume a0 a1) := fun _ _ => of_event rfl
theorem sequencerRound : ∀ a0, Statement (.sequencerRound a0) := fun _ => of_event rfl
theorem tailNotifyWrite : ∀ a0 a1 a2, Statement (.tailNotifyWrite a0 a1 a2) := fun _ _ _ => of_event rfl
theorem dispatcherConsume : ∀ a0, Statement (.dispatcherConsume a0) := fun _ => of_event rfl
theorem recordReread : ∀ a0, Statement (.recordReread a0) := fun _ => of_event rfl
theorem dispatch : ∀ a0, Statement (.dispatch a0) := fun _ => of_event rfl
theorem preemptDelayExpiry : ∀ a0, Statement (.preemptDelayExpiry a0) := fun _ => of_event rfl
theorem instanceRetire : ∀ a0, Statement (.instanceRetire a0) := fun _ => of_event rfl
theorem launchRetire : ∀ a0 a1, Statement (.launchRetire a0 a1) := fun _ _ => of_event rfl
theorem gangFormed : ∀ a0, Statement (.gangFormed a0) := fun _ => of_event rfl
theorem gangFormTimeout : ∀ a0, Statement (.gangFormTimeout a0) := fun _ => of_event rfl
theorem copyBegin : ∀ a0 a1, Statement (.copyBegin a0 a1) := fun _ _ => of_event rfl
theorem copyElementLand : ∀ a0 a1 a2 a3, Statement (.copyElementLand a0 a1 a2 a3) := fun _ _ _ _ => of_event rfl
theorem pageWalk : ∀ a0 a1 a2, Statement (.pageWalk a0 a1 a2) := fun _ _ _ => of_event rfl
theorem homeAccess : ∀ a0, Statement (.homeAccess a0) := fun _ => of_event rfl
theorem rdcInvalidate : ∀ a0 a1, Statement (.rdcInvalidate a0 a1) := fun _ _ => of_event rfl
theorem peerAccessArrive : ∀ a0 a1, Statement (.peerAccessArrive a0 a1) := fun _ _ => of_event rfl
theorem atmCombine : ∀ a0 a1, Statement (.atmCombine a0 a1) := fun _ _ => of_event rfl
theorem replySplit : ∀ a0, Statement (.replySplit a0) := fun _ => of_event rfl
theorem escapeMove : ∀ a0 a1, Statement (.escapeMove a0 a1) := fun _ _ => of_event rfl
theorem linkRetrain : ∀ a0 a1 a2, Statement (.linkRetrain a0 a1 a2) := fun _ _ _ => of_event rfl
theorem linkDown : ∀ a0 a1, Statement (.linkDown a0 a1) := fun _ _ => of_event rfl
theorem routeRecompute : ∀ a0, Statement (.routeRecompute a0) := fun _ => of_event rfl
theorem sheetPortDown : ∀ a0, Statement (.sheetPortDown a0) := fun _ => of_event rfl
theorem sheetAccessArrive : ∀ a0 a1 a2 a3, Statement (.sheetAccessArrive a0 a1 a2 a3) := fun _ _ _ _ => of_event rfl
theorem dramScrub : ∀ a0 a1 a2, Statement (.dramScrub a0 a1 a2) := fun _ _ _ => of_event rfl
theorem handlerActivation : ∀ a0, Statement (.handlerActivation a0) := fun _ => of_event rfl
theorem handlerReplyPush : ∀ a0, Statement (.handlerReplyPush a0) := fun _ => of_event rfl
theorem msgReplyArrive : ∀ a0 a1 a2, Statement (.msgReplyArrive a0 a1 a2) := fun _ _ _ => of_event rfl
theorem remoteMclr : ∀ a0, Statement (.remoteMclr a0) := fun _ => of_event rfl
theorem remoteMldT : ∀ a0, Statement (.remoteMldT a0) := fun _ => of_event rfl
theorem remoteMstT : ∀ a0, Statement (.remoteMstT a0) := fun _ => of_event rfl
theorem remoteMldW : ∀ a0, Statement (.remoteMldW a0) := fun _ => of_event rfl
theorem mma16 : ∀ a0, Statement (.mma16 a0) := fun _ => of_event rfl
theorem mcmdStatusArrive : ∀ a0 a1, Statement (.mcmdStatusArrive a0 a1) := fun _ _ => of_event rfl
theorem primitiveRecord : ∀ a0 a1, Statement (.primitiveRecord a0 a1) := fun _ _ => of_event rfl
theorem distributorSetup : ∀ a0 a1, Statement (.distributorSetup a0 a1) := fun _ _ => of_event rfl
theorem distributorFlush : ∀ a0 a1, Statement (.distributorFlush a0 a1) := fun _ _ => of_event rfl
theorem distributorFence : ∀ a0 a1, Statement (.distributorFence a0 a1) := fun _ _ => of_event rfl
theorem distributorFenceCount : ∀ a0 a1, Statement (.distributorFenceCount a0 a1) := fun _ _ => of_event rfl
theorem distributorClose : ∀ a0 a1, Statement (.distributorClose a0 a1) := fun _ _ => of_event rfl
theorem bufferFullResume : ∀ a0 a1, Statement (.bufferFullResume a0 a1) := fun _ _ => of_event rfl
theorem tilePost : ∀ a0 a1 a2 a3, Statement (.tilePost a0 a1 a2 a3) := fun _ _ _ _ => of_event rfl
theorem passEnd : ∀ a0 a1, Statement (.passEnd a0 a1) := fun _ _ => of_event rfl
theorem reprojectionSetup : ∀ a0 a1, Statement (.reprojectionSetup a0 a1) := fun _ _ => of_event rfl
theorem blockRequest : ∀ a0 a1, Statement (.blockRequest a0 a1) := fun _ _ => of_event rfl
theorem blendRequest : ∀ a0 a1, Statement (.blendRequest a0 a1) := fun _ _ => of_event rfl
theorem ticketCommit : ∀ a0 a1 a2, Statement (.ticketCommit a0 a1 a2) := fun _ _ _ => of_event rfl
theorem build : ∀ a0 a1 a2, Statement (.build a0 a1 a2) := fun _ _ _ => of_event rfl
theorem refit : ∀ a0 a1 a2, Statement (.refit a0 a1 a2) := fun _ _ _ => of_event rfl
theorem rebalance : ∀ a0 a1 a2, Statement (.rebalance a0 a1 a2) := fun _ _ _ => of_event rfl
theorem publish : ∀ a0 a1 a2, Statement (.publish a0 a1 a2) := fun _ _ _ => of_event rfl
theorem retire : ∀ a0 a1 a2, Statement (.retire a0 a1 a2) := fun _ _ _ => of_event rfl
theorem query : ∀ a0 a1 a2, Statement (.query a0 a1 a2) := fun _ _ _ => of_event rfl
theorem powerInterval : ∀ a0 a1, Statement (.powerInterval a0 a1) := fun _ _ => of_event rfl
theorem powerCapOverrun : ∀ a0 a1, Statement (.powerCapOverrun a0 a1) := fun _ _ => of_event rfl
theorem powerOnReset : ∀ a0, Statement (.powerOnReset a0) := fun _ => of_event rfl
theorem vfEnable : ∀ a0 a1, Statement (.vfEnable a0 a1) := fun _ _ => of_event rfl
theorem vfDisable : ∀ a0 a1, Statement (.vfDisable a0 a1) := fun _ _ => of_event rfl
theorem commandDoorbell : ∀ a0 a1 a2, Statement (.commandDoorbell a0 a1 a2) := fun _ _ _ => of_event rfl
theorem cqbaseWrite : ∀ a0 a1 a2, Statement (.cqbaseWrite a0 a1 a2) := fun _ _ _ => of_event rfl
theorem rdcwaysWrite : ∀ a0 a1, Statement (.rdcwaysWrite a0 a1) := fun _ _ => of_event rfl
theorem ownershipWrite : ∀ a0 a1 a2 a3, Statement (.ownershipWrite a0 a1 a2 a3) := fun _ _ _ _ => of_event rfl
theorem registerWrite : ∀ a0 a1, Statement (.registerWrite a0 a1) := fun _ _ => of_event rfl
theorem identify : ∀ a0, Statement (.identify a0) := fun _ => of_event rfl
theorem attest : ∀ a0, Statement (.attest a0) := fun _ => of_event rfl
theorem createAs : ∀ a0, Statement (.createAs a0) := fun _ => of_event rfl
theorem destroyAs : ∀ a0, Statement (.destroyAs a0) := fun _ => of_event rfl
theorem map : ∀ a0, Statement (.map a0) := fun _ => of_event rfl
theorem unmap : ∀ a0, Statement (.unmap a0) := fun _ => of_event rfl
theorem migrate : ∀ a0, Statement (.migrate a0) := fun _ => of_event rfl
theorem loadCode : ∀ a0, Statement (.loadCode a0) := fun _ => of_event rfl
theorem createQueue : ∀ a0, Statement (.createQueue a0) := fun _ => of_event rfl
theorem destroyQueue : ∀ a0, Statement (.destroyQueue a0) := fun _ => of_event rfl
theorem setKey : ∀ a0, Statement (.setKey a0) := fun _ => of_event rfl
theorem clearKey : ∀ a0, Statement (.clearKey a0) := fun _ => of_event rfl
theorem setShare : ∀ a0, Statement (.setShare a0) := fun _ => of_event rfl
theorem setPowerCap : ∀ a0, Statement (.setPowerCap a0) := fun _ => of_event rfl
theorem createGroupTemplate : ∀ a0, Statement (.createGroupTemplate a0) := fun _ => of_event rfl
theorem createCap : ∀ a0, Statement (.createCap a0) := fun _ => of_event rfl
theorem createAstruct : ∀ a0, Statement (.createAstruct a0) := fun _ => of_event rfl
theorem setRdc : ∀ a0, Statement (.setRdc a0) := fun _ => of_event rfl
theorem pinQuota : ∀ a0, Statement (.pinQuota a0) := fun _ => of_event rfl
theorem installHandlers : ∀ a0, Statement (.installHandlers a0) := fun _ => of_event rfl
theorem setBudget : ∀ a0, Statement (.setBudget a0) := fun _ => of_event rfl
theorem resetVi : ∀ a0, Statement (.resetVi a0) := fun _ => of_event rfl
theorem readCounters : ∀ a0, Statement (.readCounters a0) := fun _ => of_event rfl
theorem traceStart : ∀ a0, Statement (.traceStart a0) := fun _ => of_event rfl
theorem traceStop : ∀ a0, Statement (.traceStop a0) := fun _ => of_event rfl
theorem sheetConfig : ∀ a0, Statement (.sheetConfig a0) := fun _ => of_event rfl
theorem bootRecord : ∀ a0, Statement (.bootRecord a0) := fun _ => of_event rfl
theorem debug : ∀ a0, Statement (.debug a0) := fun _ => of_event rfl
theorem readErrors : ∀ a0, Statement (.readErrors a0) := fun _ => of_event rfl
theorem setQmap : ∀ a0, Statement (.setQmap a0) := fun _ => of_event rfl
theorem setTrap : ∀ a0, Statement (.setTrap a0) := fun _ => of_event rfl
theorem assignMem : ∀ a0, Statement (.assignMem a0) := fun _ => of_event rfl
theorem setPool : ∀ a0, Statement (.setPool a0) := fun _ => of_event rfl
theorem hostHold : ∀ a0 a1 a2, Statement (.hostHold a0 a1 a2) := fun _ _ _ => of_event rfl
theorem spdmOverDoe : ∀ a0 a1, Statement (.spdmOverDoe a0 a1) := fun _ _ => of_event rfl

end Sys2Proof.Laws.Encoded
end

