-- ==== Sys2Proof/Tests/Slice0.lean ====
section
/-! SUPPORT. Witnesses: for every statement of Certificates/Slice0/Obligations.lean that has hypotheses, states and operands
that meet them; and tests: words of the spec's examples decoded, ill-formed terms refused, single steps and events. The
expected values come from the spec's text, not from a run of the model. -/

namespace Sys2Proof.Tests

set_option Elab.async false

open Sys2Proof Sys2Proof.Machine Sys2Proof.Safety

/-! ## States -/

/-- Hart 0 running in VI 0 with one lane group, at 0x200000. Its data space maps 2 MiB there for mode U, readable and
writable, by tables of its own at 0x104000, and 2 MiB of host memory at 0x600000. -/
def base : State :=
  let s := State.reset.withFetchWord 128 0
  let ws := [(0x104000, 0x105003), (0x105000, 0x106003), (0x106000, 0x107003), (0x107008, 0x2001F1 + 2 ^ 50 + 2 ^ 51),
    (0x107018, 0x8000000001F1)]
  let s := { s with phys := { s.phys with dram := ws.foldl (fun (d : Memory) (e : Nat × Nat) => Memory.writeN d e.1 (leBytes 8 e.2)) s.phys.dram } }
  s.modMe fun x => { x with sys := { x.sys with space := { x.sys.space with droot := 0x104 } } }

/-- A state with these g registers in its current hart. -/
def regs (s : State) (l : List (Reg × Word)) : State := s.modMe fun x => l.foldl (fun x e => x.writeG e.1 e.2) x

/-- Small numbers, a data address and a stack. -/
def s0 : State := regs base [(5, 100), (6, 7), (7, -1), (10, 0x200100), (11, 3), (63, 0x201000)]

/-- VL elements of 32 bits, v1 holding 1, 2, 3 ... and v2 holding 10, 10, ... -/
def vec (s : State) (vl : BitVec 16) : State := s.modMe fun x =>
  (List.range 4).foldl (fun x i => (x.setElem 1 32 i (i + 1) none).setElem 2 32 i 10 none)
    (x.modVs fun v => { v with cfg := { v.cfg with vl := vl } })

def v0 : State := vec s0 4

/-- A hart in mode S, and one in a handler of mode S that has not executed vclaim. -/
def sMode (s : State) : State := s.modMe fun x => { x with core := { x.core with mode := .s } }
def inTrap (s : State) : State := s.modMe fun x =>
  { x with core := { x.core with mode := .s, st := .trapped },
           frames := [{ mode := .s, claimed := false, kept := none, rayTag := 0 }],
           sys := { x.sys with strap := { x.sys.strap with tsave := 0x210000, tpc := 0x200040 } } }

/-- The value that exec's next state gives. -/
def after (o : Out) (f : State → α) : Option α := match o with
  | .next t => some (f t)
  | _ => none

/-- A result that holds a value of which f is true. -/
def okAnd (e : Except ε α) (f : α → Bool) : Bool := match e with
  | .ok x => f x
  | .error _ => false

theorem clean0 : Clean s0.me [5, 6, 7, 10, 11, 63] := by unfold Clean; decide +kernel

/-! ## Witnesses: scalar instructions -/

theorem witness_ScalarIntegerResults : Clean s0.me [5, 6, 7] ∧ after (exec (.add 8 5 7) s0) (·.me.readG 8) = some 99 := by
  unfold Clean; decide +kernel

theorem witness_MultiplyAndBitFields : Clean s0.me [5, 7] ∧ (Instr.zext 8 5 64).wf = true ∧ (Instr.sext 8 5 1).wf = true ∧
    (Instr.bfx .z 8 5 63 1).wf = true ∧ (Instr.bfx .s 8 5 0 64).wf = true ∧ (Instr.bfi 8 5 63 1).wf = true ∧
    after (exec (.mulh 8 7 7) s0) (·.me.readG 8) = some 0 ∧ after (exec (.rem 8 5 6 0) s0) (·.me.readG 8) = some 2 := by
  unfold Clean; decide +kernel

theorem witness_ScalarFloatRule : Clean s0.me [5, 6, 7] ∧
    after (exec (.icvtf .s .rne .s32 8 6) s0) (·.me.readG 8) = some 0x40E00000 := by
  unfold Clean; decide +kernel

theorem witness_MinMaxRule : Clean s0.me [0, 7] ∧ Clean s0.me [5, 6] ∧
    after (exec (.fmin .s 8 0 7) s0) (fun t => (t.me.readG 8, t.me.core.fflags)) = some (0, 0) := by
  unfold Clean; decide +kernel

theorem witness_ClassifyRule : Clean s0.me [0] ∧ after (exec (.fclass .s 8 0) s0) (·.me.readG 8) = some 0x10 := by
  unfold Clean; decide +kernel

theorem witness_BranchesAndLoops : s0.me.loopActive = false ∧ s0.me.frozen = false ∧ Clean s0.me [5, 6] ∧
    (s0.me.core.pc + 32).toNat % 16 = 0 ∧ (s0.me.core.pc + 33).toNat % 16 ≠ 0 ∧ (s0.me.readG 5 = 100) ∧
    (regs s0 [(5, 0)]).me.readG 5 = 0 ∧ Clean (regs s0 [(5, 0)]).me [5] ∧
    after (exec (.bnz 5 32) s0) (·.me.core.pc) = some 0x200020 ∧ after (exec (.bz 5 33) s0) (·.me.core.pc) = some 0x200010 ∧
    after (exec (.bnz 5 33) s0) (fun t => (t.me.sys.mtrap.tcause, t.me.sys.mtrap.tval)) = some (0x09, 0x200021) := by
  unfold Clean; decide +kernel

/-- g63 at 0x201000, and the probe of the 16 bytes below. -/
theorem witness_CallAndReturn :
    s0.me.loopActive = false ∧ s0.me.frozen = false ∧ s0.me.core.vs.mstack.length < 16 ∧
    (s0.me.readG 63 - 16).toNat % 16 = 0 ∧ (s0.probeStack .store (s0.me.readG 63 - 16)).1.toBool = true ∧ Clean s0.me [5, 63] ∧
    (s0.me.core.pc + 64).toNat % 16 = 0 := by
  unfold Clean; decide +kernel

/-- After a call, the frame that ret reads. -/
def called : State := (after (exec (.call 64) v0) id).getD s0

theorem witness_ReturnRule :
    let x := called.me
    x.loopActive = false ∧ x.frozen = false ∧ Clean x [63] ∧ (x.readG 63).toNat % 16 = 0 ∧
    (called.probeStack .load (x.readG 63)).1.toBool = true ∧ x.core.vs.mstack.length = 1 ∧
    after (exec .ret called) (fun t => (t.me.core.pc, t.me.readG 63, t.me.core.vs.mstack.length, t.me.vl)) =
      some (0x200010, 0x201000, 0, 4) := by
  unfold Clean; decide +kernel

/-! ## Witnesses: memory -/

/-- An RDC invalidation of the hart that its die has not acknowledged. -/
def unacked : State := { s0 with net := { s0.net with invals := [{ die := 1, line := 0, uid := 0 }] } }

/-- Block 0 of core 0's lane memory belongs to VI 0, and peers may reach it. -/
def lane0 (s : State) : State := s.modCore 0 fun c => { c with owners := [(0, { exp := true, v := true, vi := 0 })] }

theorem ready0 : VReady v0.me where
  claimed := by decide +kernel
  landed := by decide +kernel
  unbound := by decide +kernel
  sound := by decide +kernel
  unsplit := by decide +kernel
  vl := by decide +kernel
  groups := by decide +kernel

/-- An atomic to 0x200108 that congested networks have not carried to its home yet, and the same with networks that are free. -/
def onWay : State := (after (exec (.amo .add 3 false 8 10 5 1 false false 8 3) { s0 with net := { s0.net with congested := true } }) id).getD s0
def onWayFree : State := { onWay with net := { onWay.net with congested := false } }

/-- A copy of the line of 0x200108 that an RDC has not given up yet. -/
def owing : State := { s0 with net := { s0.net with invals := [{ die := 1, line := 0x200108 / 128, uid := 0 }] } }

/-- What a probe of eight bytes in the data space finds. -/
def aims (s : State) (k : AKind) (a : Word) (f : Target → State → Bool) : Bool :=
  match s.probe (s.who s.cur) k a 8 with
  | (.ok t, u) => f t u
  | _ => false

theorem witness_LoadsAndStores : Clean s0.me [5, 10, 0] ∧ (0x200108#64).toNat % 8 = 0 ∧
    (aims s0 .load 0x200108 fun t u => !u.targetMet 0 t 8) = true ∧ (aims s0 .store 0x200108 fun t u => !u.targetMet 0 t 8) = true ∧
    Clean onWay.me [5, 10, 0] ∧
    (aims onWay .load 0x200108 fun t u => u.targetMet 0 t 8) = true ∧ (aims onWay .store 0x200108 fun t u => u.targetMet 0 t 8) = true ∧
    (onWay.landPeers fun p => p.uid == 0).atmsOpen 0 = true ∧ (s0.landPeers fun p => p.uid == 0).atmsOpen 0 = false ∧
    (s0.landPeers fun p => p.uid == 0).acked = true ∧ (unacked.landPeers fun p => p.uid == 0).acked = false ∧
    (unacked.landPeers fun p => p.uid == 0).atmsOpen 0 = false ∧ Clean unacked.me [5, 10, 0] ∧
    (after (exec (.st 3 7 10 0 8 0) s0) fun t => after (exec (.ld 0 true 8 10 0 15 0) t) (·.me.readG 8)) = some (some (-1)) := by
  unfold Clean; decide +kernel

theorem witness_AccessFaultTraps : Clean s0.me [8, 10, 11] ∧ Clean s0.me [10, 11, 6] ∧ (0x200103#64).toNat % 2 ≠ 0 ∧
    (after (exec (.ld 1 true 8 10 11 0 0) s0) fun t => (t.me.sys.mtrap.tcause, t.me.sys.mtrap.tval)) = some (0x13, 0x200103) := by
  unfold Clean; decide +kernel

/-- Elements 0 and 1 of the access are the last ones of the page, element 2 is the first that faults. -/
def atEdge : State := regs v0 [(10, 0x3FFFF8), (11, 0)]

theorem readyAtEdge : VReady atEdge.me where
  claimed := by decide +kernel
  landed := by decide +kernel
  unbound := by decide +kernel
  sound := by decide +kernel
  unsplit := by decide +kernel
  vl := by decide +kernel
  groups := by decide +kernel

theorem witness_ElementFaults : GroupOk atEdge.me 2 atEdge.me.ew ∧
    MaskOk atEdge.me .none ∧ Clean atEdge.me [10, 11] ∧ atEdge.me.vstart < atEdge.me.vl ∧
    (((probed atEdge .data .load false .none fun i => 0x3FFFF8 + BitVec.ofNat 64 (i * 4)).1.find? fun p => (faultOf p).isSome).map
      fun p => (p.1, faultOf p)) = some (2, some (.loadPage, 0x400000)) ∧
    (((probed atEdge .data .store false .none fun i => 0x3FFFF8 + BitVec.ofNat 64 (i * 4)).1.find? fun p => (faultOf p).isSome).map
      fun p => (p.1, faultOf p)) = some (2, some (.storePage, 0x400000)) := by
  unfold GroupOk MaskOk Clean; decide +kernel

theorem witness_AtomicRule :
    let after_ := fun (s : State) (rel : Bool) (u : State) => if rel then u.landPeers fun p => p.uid == s.me.who.uid else u
    Clean s0.me [10, 5, 6] ∧ Clean onWayFree.me [10, 5, 6] ∧ Clean owing.me [10, 5, 6] ∧ (0x200108#64).toNat % 8 = 0 ∧
    (aims s0 .atomic 0x200108 fun t u => let e := after_ s0 true u
      !u.targetMet 0 t 8 && !e.atmsOpen 0 && e.acked && !(e.dirtyTarget (s0.who s0.cur) t).net.congested &&
      !(e.net.invals.any fun i => t.line.contains i.line)) = true ∧
    (aims onWayFree .atomic 0x200108 fun t u => u.targetMet 0 t 8 && !(u.dirtyTarget (s0.who s0.cur) t).net.congested) = true ∧
    (aims onWayFree .atomic 0x200110 fun t u => let e := after_ s0 true u
      !u.targetMet 0 t 8 && e.atmsOpen 0 && !(e.dirtyTarget (s0.who s0.cur) t).net.congested) = true ∧
    (aims owing .atomic 0x200108 fun t u => !u.targetMet 0 t 8 && !u.acked && !u.atmsOpen 0 &&
      !(u.dirtyTarget (s0.who s0.cur) t).net.congested && (u.net.invals.any fun i => t.line.contains i.line)) = true ∧
    (after (exec (.amo .add 3 false 8 10 5 1 true false 8 0) s0) fun t => (t.me.readG 8, t.phys.dram.read 0x200108)) =
      some (0, 100) ∧
    (after (exec (.cas 3 8 10 0 6 1 true false 8 0) s0) fun t => (t.me.readG 8, t.phys.dram.read 0x200108)) =
      some (0, 7) := by
  unfold Clean; decide +kernel

/-- The last eight bytes of the owned block. -/
theorem witness_LaneAccessRule :
    let s := regs (lane0 s0) [(9, 0xFF8)]
    Clean s.me [5, 9, 0] ∧ Clean s.me [9, 0] ∧ (0xFF8#64).toNat % 8 = 0 ∧ (s.core 0).mayTouch 0 false 0xFF8 8 = true ∧
    (0xFF8#64).extractLsb' 62 2 = 0 ∧ (0xFF8#64).extractLsb' 20 32 = 0 ∧ (s.core 0).mayTouch 0 true 0xFF8 8 = true ∧
    (after (exec (.stL 3 7 9 0 0 0) s) fun t => after (exec (.ldL 1 false 8 9 0 2 0) t) (·.me.readG 8)) = some (some 0xFFFF) := by
  unfold Clean; decide +kernel

def hostAt : State := regs s0 [(10, 0x600000)]

/-- An access of the hart that awaits an acknowledgement. -/
def awaiting : State := s0.modMe fun x =>
  { x with windows := [{ pc := 0, left := 1, gw := [], vw := [], fl := 0, await := .acks [7] }] }

/-- In mode S: the translations of the page at 0x200000 removed from every TLB, before and with another hart's atomic on its way
through one of them. -/
def hit200 (e : TlbEntry) : Bool := e.invalidated 0 .both .page 0x200100 0
def dropped (s : State) : State := (s.landPeers fun p => p.uid == 0).dropTlb hit200 fun p => p.invalidated 0 .both .page 0x200100 0
def othersAtomic : State := sMode { onWay with net := { onWay.net with atms := onWay.net.atms.map fun q => { q with uid := 9 } } }

/-- Its tlbinv has removed its entries when n requests had been numbered. -/
def invalidating (n : Nat) : State := othersAtomic.modMe fun x => { x with inval := some (0, n) }

theorem witness_CacheControl : Clean s0.me [10, 0] ∧ isSheet 0x200100 = false ∧
    okAnd (s0.xlate (s0.who 0) false .load 0x200100).1 (fun x => x.idem && x.cache && (place (x.page * 4096 + 0x100)).isDram) = true ∧
    Clean hostAt.me [10, 0] ∧ isSheet 0x600000 = false ∧
    okAnd (hostAt.xlate (hostAt.who 0) false .load 0x600000).1 (fun x => !(place (x.page * 4096)).isDram) = true ∧
    (after (exec (.cpin 8 10 0 0 0) s0) (·.me.readG 8)) = some 2 := by
  unfold Clean; decide +kernel

theorem witness_Fences : awaiting.me.landAccess = none ∧ s0.me.landAccess.isSome = true ∧ s0.peerCopies 0 = false ∧
    onWay.me.landAccess = none ∧ unacked.me.landAccess.isSome = true ∧ unacked.peerCopies 0 = false ∧
    (unacked.landPeers fun p => p.uid == 0).acked = false ∧ (s0.landPeers fun p => p.uid == 0).acked = true ∧
    (s0.landPeers fun p => p.uid == 0).atmsOpen 0 = false := by
  decide +kernel

/-- A condition that holds and one that does not. -/
theorem witness_Waits : Clean s0.me [10, 5, 0] ∧ okAnd (s0.waitRead false 0x200100 8).1 (fun v => v == (0, none)) = true ∧
    (0x200101#64).toNat % 8 ≠ 0 ∧ 0 ≠ (s0.me.readG 5).toNat ∧ (0 + (2 ^ 64 - 100)) % 2 ^ 64 ≥ 2 ^ 63 := by
  unfold Clean; decide +kernel

theorem witness_Invalidate : NoAtomic (s0.landPeers fun p => p.uid == 0) ∧
    (s0.landPeers fun p => p.uid == 0).me.landAll.isSome = true ∧ s0.me.core.mode = .u ∧ (sMode s0).me.core.mode ≠ .u ∧
    Clean (sMode s0).me [10, 0] ∧ NoAtomic ((sMode s0).landPeers fun p => p.uid == 0) ∧
    (sMode s0).me.inval = none ∧ (dropped (sMode s0)).xlatHeld (dropped (sMode s0)).numbered hit200 = false ∧ Clean othersAtomic.me [10, 0] ∧ othersAtomic.me.core.mode ≠ .u ∧
    NoAtomic (othersAtomic.landPeers fun p => p.uid == 0) ∧ (dropped othersAtomic).xlatHeld (dropped othersAtomic).numbered hit200 = true ∧
    ((invalidating 0).me.inval, (invalidating 0).xlatHeld (0, 0) hit200) = (some (0, 0), false) ∧
    (invalidating 9).xlatHeld (0, 9) hit200 = true := by
  unfold Clean NoAtomic; decide +kernel

/-- A line under no key, on the hart's own die. -/
theorem witness_MemoryFrames : s0.phys.dram.wf = true ∧ s0.crossing (dieOfCore 0) (dramDie 0x20017C) = none ∧
    tget none s0.phys.tags (0x20017C / 128) = none ∧ 0x20017C % 128 + 4 ≤ 128 ∧ tfind s0.phys.poison (0x20017C / 128) = none ∧
    s0.net.parity.contains 0 = false ∧ (s0.core 0).l1 = [] ∧ (s0.die 0).rdc = [] ∧ 0x20017C / 128 * 128 + 128 ≤ fwBase := by
  decide +kernel

/-! ## Witnesses: control registers, traps and handlers -/

/-- The same hart in mode M. -/
def mMode (s : State) : State := s.modMe fun x => { x with core := { x.core with mode := .m } }

/-- A hart in a handler that has executed vclaim. -/
def claimed : State := (inTrap s0).modMe fun x =>
  { x with frames := x.frames.map fun f => { f with claimed := true, kept := some x.core.vs } }

theorem witness_ControlRegisters : Clean s0.me [6] ∧ crReadable .u 0x00A = true ∧ crWritable .u 0x00A = true ∧
    s0.me.core.mode = .u ∧ s0.crFits 0x00A 7 = true ∧ s0.crFits 0x00A (s0.crValue 0 0x00A ||| 7) = true ∧
    s0.crFits 0x00A (s0.crValue 0 0x00A &&& ~~~7#64) = true ∧ s0.crFits 0x008 (2 ^ 48 - 2 ^ 32 + 2) = true ∧
    (Instr.crr 0 0x008).wf = true ∧ (mMode s0).me.core.mode = .m ∧ crWritable .m 0x050 = true ∧ s0.crFits 0x050 0 = true ∧
    (after (exec (.crset 8 6 0x00A) s0) fun t => (t.me.readG 8, t.crValue 0 0x00A)) = some (0, 7) := by
  unfold Clean; decide +kernel

theorem witness_PrivilegeAndWaits : crReadable .u 0x040 = false ∧ crReadable .u 0x013 = true ∧ crWritable .u 0x013 = false ∧
    crReadable .s 0x050 = true ∧ crWritable .s 0x050 = false ∧ s0.me.core.mode = .u ∧ (mMode s0).me.core.mode = .m ∧
    s0.irqPending 0 = false ∧ isFirmwareHart { s0 with cur := 7 }.cur = true ∧
    (let t := s0.modMe fun x => { x with irq := { x.irq with preempt := true } }
     t.irqPending 0 = true) := by
  decide +kernel

/-- In no gang, a hart is at its instruction. -/
theorem atInstr0 : AtInstr s0.me 0 := fun g h => by
  have none_ : s0.me.gang = none := by decide +kernel
  simp [none_] at h

theorem witness_TrapEntry : (s0.hart 0).landAll = some s0.me ∧ (s0.hart 0).landAll.isSome = true ∧ s0.me.pendErr = none ∧
    ((s0.hart 0).landAll.map fun x => x.core.mode) = some .u ∧
    (let d := s0.modMe fun x => { x with sys := { x.sys with tdeleg := 2 ^ 0x30 } }
     (d.takeTrap 0 { cause := .ecallU, tval := 5 } false false id).me.core.mode = .s) ∧
    (s0.takeTrap 0 { cause := .ecallU, tval := 5 } false false id).me.core.mode = .m := by
  decide +kernel

theorem witness_SystemCalls : s0.me.core.mode = .u ∧ (sMode s0).me.core.mode = .s ∧ (mMode s0).me.core.mode = .m ∧
    s0.me.landAll = some s0.me ∧ s0.cur = 0 ∧ (s0.me.landAll.map fun x => x.pendErr) = some none ∧
    (after (exec (.ecall 5) (sMode s0)) fun t => (t.me.sys.mtrap.tcause, t.me.sys.mtrap.tval, t.me.sys.mtrap.tpc)) =
      some (0x31, 5, 0x200000) := by
  decide +kernel

theorem witness_HandlerInstructions : (inTrap v0).me.landAll.isSome = true ∧ (inTrap v0).me.core.mode ≠ .u ∧ isFirmwareHart (inTrap v0).cur = false ∧
    ((inTrap v0).me.landAll.map fun x => (x.handlerCopies, x.frozen, x.anyUnlanded, x.frames.map Frame.claimed)) =
      some (false, true, false, [false]) ∧
    (after (exec .sret (inTrap s0)) fun t => (t.me.core.mode, t.me.core.pc, t.me.core.st)) =
      some (.u, 0x200040, .running) := by
  decide +kernel

theorem witness_ReturnAfterClaim : claimed.me.landAll.isSome = true ∧ claimed.me.core.mode ≠ .u ∧
    (claimed.me.landAll.map fun x => (x.handlerCopies, x.frozen)) = some (false, false) ∧
    (claimed.saveFault 0x210000 claimed.me.G claimed.me.core.vs).isNone = true := by
  decide +kernel

/-! ## Witnesses: vector instructions -/

/-- EW 8 with 64 elements. -/
def v8 (s : State) : State := s.modMe fun x => x.modVs fun v => { v with cfg := { v.cfg with ew := .e8, vl := 64 } }

/-- Decode table 0 holds 16 rising values for 4-bit codes. -/
def table4 : DTable := BitVec.ofNat 8192 ((List.range 8).foldl (fun a c =>
  a + 2 ^ (32 * c) * (1024 * c) + 2 ^ (32 * (c + 8)) * (1024 * c + 2 ^ 18)) 0)
def vq : State := (v8 v0).modCore 0 fun c =>
  { c with dts := c.dts.set 0 { DecTab.reset with entries := table4, loaded := true, owner := some 0 } }

theorem ready8 : VReady (v8 v0).me where
  claimed := by decide +kernel
  landed := by decide +kernel
  unbound := by decide +kernel
  sound := by decide +kernel
  unsplit := by decide +kernel
  vl := by decide +kernel
  groups := by decide +kernel

/-- v63 as a mask, sources of 16 bits, and a result. -/
theorem witness_VectorIntegerResults : GroupOk v0.me 4 32 ∧ MaskOk v0.me (.on 63) ∧ Clear v0.me 4 32 63 32 ∧
    GroupOk v0.me 1 32 ∧ SecondOk v0.me (.vec 2) false ∧ 63 + v0.me.core.vs.cfg.p ≤ 64 ∧ GroupOk v0.me 1 16 ∧
    Clear v0.me 4 32 1 16 ∧
    (after (exec (.vadd 4 1 (.vec 2) .none) v0) fun t => (List.range 5).map fun i => t.me.elem 4 32 i) =
      some [11, 12, 13, 14, 0] ∧
    (after (exec (.vsub 1 1 (.vec 2) .none) v0) fun t => t.me.elem 1 32 0) = some 0xFFFFFFF7 := by
  unfold SecondOk GroupOk MaskOk Clear; decide +kernel

theorem witness_VectorTestsAndReductions : GroupOk v0.me 4 32 ∧ GroupOk v0.me 1 32 ∧ SecondOk v0.me (.gpr 6) false ∧
    MaskOk v0.me .none ∧ Clean v0.me [5] ∧ FpK.s.width = v0.me.ew ∧ (Instr.vbfly .s .dyn 4 1 2 .none).wf = true ∧
    Clean v0.me [11] ∧ Clean v0.me [5, 11] ∧
    (after (exec (.vcmp .lt 4 1 (.gpr 11) .none) v0) fun t => (t.me.elem 4 32 1, t.me.elem 4 32 2, t.me.core.vs.flags)) =
      some (2 ^ 32 - 1, 0, { n := false, s := true, a := false }) ∧
    (after (exec (.vredadd .s 8 1 5 .none) v0) (·.me.readG 8)) = some 110 ∧
    (after (exec (.vextr .s 8 1 11) v0) (·.me.readG 8)) = some 4 ∧
    (after (exec (.vpopc 8 1 .none) v0) (·.me.readG 8)) = some 2 := by
  unfold GroupOk MaskOk SecondOk Clean; decide +kernel

theorem witness_VectorFloatResults : MaskOk v0.me (.off 3) ∧ FpK.s.width = v0.me.ew ∧ GroupOk v0.me 4 32 ∧
    Clear v0.me 4 32 3 32 ∧ GroupOk v0.me 1 32 ∧ SecondOk v0.me (.imm 1) true ∧ GroupOk v0.me 1 16 ∧
    Clear v0.me 4 32 1 16 ∧ Clear v0.me 4 32 1 32 ∧
    (after (exec (.vicvtf .s .rne true 4 2 .none) v0) fun t => (t.me.elem 4 32 0, t.me.core.fflags)) =
      some (0x41200000, 0) := by
  unfold GroupOk MaskOk SecondOk Clear; decide +kernel

/-- Elements, and pairs of codes with their scale words. -/
theorem witness_ElementMoves : GroupOk v0.me 4 32 ∧ GroupOk v0.me 1 32 ∧ GroupOk v0.me 2 32 ∧ MaskOk v0.me .none ∧
    overlaps 4 1 1 1 = false ∧ overlaps 4 1 2 1 = false ∧ Clean v0.me [11] ∧ Clean v0.me [] ∧
    (v8 v0).me.core.vs.cfg.pairOk [4, 2] = true ∧ (v8 v0).me.core.vs.cfg.pairOk [4, 2, 6] = true ∧
    GroupOk (v8 v0).me 4 8 ∧ GroupOk (v8 v0).me 2 8 ∧ GroupOk (v8 v0).me 6 8 ∧ MaskOk (v8 v0).me .none ∧
    overlaps 4 2 2 2 = false ∧ overlaps 4 2 6 2 = false ∧ Clean (v8 v0).me [11] ∧
    (after (exec (.vslideup 4 1 (.imm 3) false .none) v0) fun t => (t.me.elem 4 32 2, t.me.elem 4 32 3)) = some (0, 1) := by
  unfold GroupOk MaskOk Clean; decide +kernel

/-- The accesses of v0 in the data space, in its own lane memory and in a peer's. -/
def vmem : State := regs (lane0 v0) [(11, 0)]

def unfaulted (P : List Probed × State) : Bool := P.1.all fun p => (faultOf p).isNone

theorem readyMem : VReady vmem.me where
  claimed := by decide +kernel
  landed := by decide +kernel
  unbound := by decide +kernel
  sound := by decide +kernel
  unsplit := by decide +kernel
  vl := by decide +kernel
  groups := by decide +kernel

theorem witness_VectorAccesses : GroupOk vmem.me 2 vmem.me.ew ∧ MaskOk vmem.me .none ∧ Untraced vmem ∧ NoAtomic vmem ∧
    vmem.me.vstart < vmem.me.vl ∧ Clean vmem.me [10, 11] ∧ Clean vmem.me [10] ∧ GroupOk vmem.me 1 32 ∧
    (let a := fun (i : Nat) => 0x200100 + BitVec.ofNat 64 (4 * i)
     let l := fun (i : Nat) => 0x100 + BitVec.ofNat 64 (4 * i)
     unfaulted (probed vmem .data .load false .none a) = true ∧ unfaulted (probed vmem .data .store false .none a) = true ∧
     unfaulted (probed vmem .data .load true .none a) = true ∧ unfaulted (probed vmem .own .store true .none l) = true ∧
     unfaulted (probed vmem .own .load false .none l) = true ∧ unfaulted (probed vmem .own .store false .none l) = true ∧
     unfaulted (probed vmem .peer .store false .none l) = true ∧
     (let P := probed vmem .data .load false .none a
      (P.2.loadElems 4 P.1).1.all fun e => e.2.2 == none) = true ∧
     (let P := probed vmem .own .load false .none l
      (P.2.loadElems 4 P.1).1.all fun e => e.2.2 == none) = true) ∧
    ((after (exec (.vst 1 10 11 0 .none 0) vmem) fun t => after (exec (.vldx 5 10 0 .e32 2 .none 0) t) fun u =>
      (u.me.elem 5 32 0, u.me.elem 5 32 3)) = some (some (1, 1))) := by
  unfold GroupOk MaskOk Clean Untraced NoAtomic; decide +kernel

/-- Indices of 64 bits in the pair v8, masks to v12, values in v4: two elements of the unmapped page above the data. -/
theorem witness_MaskReturningAndAtomic : GroupOk vmem.me 4 32 ∧ MaskOk vmem.me .none ∧ Untraced vmem ∧ NoAtomic vmem ∧
    vmem.me.vstart < vmem.me.vl ∧ GroupOk vmem.me 8 64 ∧ 12 + vmem.me.core.vs.cfg.p ≤ 64 ∧
    overlaps 12 1 4 1 = false ∧ overlaps 12 1 8 (vmem.me.core.vs.cfg.groupSize 64) = false ∧ Clean vmem.me [10] ∧
    GroupOk vmem.me 1 32 ∧ overlaps 12 1 1 (vmem.me.core.vs.cfg.groupSize 32) = false ∧
    (let p := fun (i : Nat) => BitVec.ofNat 64 (vmem.me.elem 8 64 i)
     unfaulted (probed vmem .peer .load true .none p) = true ∧ unfaulted (probed vmem .peer .store true .none p) = true) ∧
    (let e := regs vmem [(10, 0x3FFFF4)]
     let P := probed e .data .load true .none fun i => 0x3FFFF4 + BitVec.ofNat 64 (vmem.me.elem 1 32 i * 4)
     P.1.map faultOf = [none, none, some (.loadPage, 0x400000), some (.loadPage, 0x400004)] ∧
     ((P.2.loadElems 4 P.1).1.all fun e => e.2.2 == none) = true ∧ Clean e.me [10]) ∧
    (let a := fun (i : Nat) => 0x200100 + BitVec.ofNat 64 (vmem.me.elem 1 32 i * 4)
     let P := probed vmem .data .atomic true .none a
     let owing := { vmem with net := { vmem.net with invals := [{ die := 1, line := 0x200100 / 128, uid := 0 }] } }
     let Q := probed owing .data .atomic true .none a
     let R := amoRequests (Q.2.dirtyElems Q.1) .add 4 (fun i => vmem.me.elem 2 32 i) (amoGroups true Q.1)
     unfaulted P = true ∧ unfaulted Q = true ∧ (R.1.all fun e => e.2.2 == none) = true ∧
     (R.2.net.invals.map fun i => i.line) = [0x200100 / 128] ∧
     (Q.1.map fun p => match p.2.2 with
       | .ok (.data (.mem _ (.dram pa))) => pa / 128
       | _ => 0) = List.replicate 4 (0x200100 / 128)) ∧
    vmem.net.congested = false ∧ vmem.me.ew = 32 ∧ vmem.me.core.vs.cfg.sc.toNat < 2 ∧
    (let w := { vmem with net := { vmem.net with invals := [{ die := 1, line := 0, uid := 0 }] } }.modMe fun x =>
       x.modVs fun v => { v with cfg := { v.cfg with sc := 2 } }
     w.me.core.vs.cfg.sc.toNat = 2 ∧ (w.landPeers fun p => p.uid == 0).acked = false) ∧
    (after (exec (.vamo .add false 2 10 1 .e32 2 true false .none 0) vmem) fun t =>
      (t.me.elem 2 32 0, t.phys.dram.read 0x200104, t.phys.dram.read 0x200110)) = some (0, 10, 10) := by
  unfold GroupOk MaskOk Clean Untraced NoAtomic; decide +kernel

theorem readyQ : VReady vq.me where
  claimed := by decide +kernel
  landed := by decide +kernel
  unbound := by decide +kernel
  sound := by decide +kernel
  unsplit := by decide +kernel
  vl := by decide +kernel
  groups := by decide +kernel

/-- Blocks whose scale words name table 0. -/
theorem witness_NarrowFormatRule : vq.me.core.vs.cfg.w = 8 ∧ vq.me.core.vs.cfg.p = 1 ∧ vq.me.vl % Code.q8.span = 0 ∧
    vq.me.vl % Code.q4.span = 0 ∧ MaskOk vq.me .none ∧ (∀ n : Fin 4, ((vq.core 0).dt 0 n).poison = []) ∧
    16 % Code.q4.wideRegs = 0 ∧ (Instr.vhadq .q4 8 16 2 32 .none).wf = true ∧ (Instr.vhadq .q4 8 16 2 2 .none).wf = true ∧
    (∀ k < 4, dtEncodable ((vq.core 0).dt 0 (scaleTab (vq.me.elem 2 32 k))).entries .q4 = true) ∧ Clean vq.me [5] ∧
    GroupOk vq.me 8 8 ∧ Clear vq.me 8 8 3 8 ∧ MaskOk vq.me (.on 3) ∧
    (after (exec (.vcvtQ .q4 8 16 20 .none) vq) fun t => (t.me.elem 8 8 0, t.me.elem 9 32 0)) = some (0, 0) ∧
    (after (exec (.bmsk 8 5 .none) vq) fun t => (List.range 4).map fun i => t.me.elem 8 8 i) = some [0, 0, 1, 0] := by
  unfold GroupOk MaskOk Clear Clean; decide +kernel

/-! ## Witnesses: the matrix unit -/

theorem soundQ (n : Nat) : ((vq.core 0).dt 0 n).poison = [] := by
  by_cases h : n < 4
  · have : ∀ n : Fin 4, ((vq.core 0).dt 0 n).poison = [] := by decide +kernel
    exact this ⟨n, h⟩
  · have : (vq.core 0).dts.toList[n]? = none := List.getElem?_eq_none (by simpa using Nat.le_of_not_lt h)
    simp [Core.dt, this, DecTab.reset]

theorem sound0 (n : Nat) : ((v0.core 0).dt 0 n).poison = [] := by
  by_cases h : n < 4
  · have : ∀ n : Fin 4, ((v0.core 0).dt 0 n).poison = [] := by decide +kernel
    exact this ⟨n, h⟩
  · have : (v0.core 0).dts.toList[n]? = none := List.getElem?_eq_none (by simpa using Nat.le_of_not_lt h)
    simp [Core.dt, this, DecTab.reset]

/-- Tiles of binary32 and binary16 in the data space, panels of each form and a decode table of zeros. -/
theorem witness_TilesPanelsTables : v0.me.frozen = false ∧ CanClaim v0 ∧ Clean v0.me [10, 0] ∧ Clean v0.me [10] ∧
    (0x200100#64).toNat % 4 = 0 ∧ (128#64).toNat % 4 = 0 ∧
    (let P := v0.probePieces (v0.who 0) false .load {} (tilePieces 0x200100 128 4)
     P.2.blockTrap (v0.who 0) .load P.1 = none ∧ CanClaim P.2) ∧
    (let P := v0.probePieces (v0.who 0) false .store {} (tilePieces 0x200100 64 2)
     P.2.blockTrap (v0.who 0) .store P.1 = none ∧ CanClaim P.2 ∧ ((held P.2).matrix 0).tPoison = []) ∧
    31 + v0.me.G ≤ 32 ∧ (Instr.mvt true 7 1 31).wf = true ∧ ((held v0).matrix 0).tPoison = [] := by
  unfold CanClaim Clean; decide +kernel

theorem witness_PanelsAndTables : imageAligned .dense 0x200100 0 = true ∧ imageAligned .dense 0x200100 80 = true ∧
    (∀ scl, let P := v0.probePieces (v0.who 0) false .load {} (imagePieces .dense scl 0x200100 0)
      P.2.blockTrap (v0.who 0) .load P.1 = none ∧ okAnd (P.2.readPanel (v0.who 0) .dense scl (targetsOf P.1)).1 (fun v => v.2 == []) = true ∧
        CanClaim (P.2.readPanel (v0.who 0) .dense scl (targetsOf P.1)).2) ∧
    (let P := v0.probePieces (v0.who 0) false .load {}
       ((List.range 256).map fun k => { addr := 0x200100 + BitVec.ofNat 64 (4 * k), n := 4, elem := 0 })
     P.2.blockTrap (v0.who 0) .load P.1 = none ∧ ∀ v ∈ (P.2.readPieces (v0.who 0) (targetsOf P.1)).1, v.2 = none ∧ v.1 < 2 ^ 19) := by
  unfold CanClaim; decide +kernel

/-- Row 30 is the last that one group may begin at. The second state holds the claim, and in its panel the metadata of every group keeps
elements 0 to 3. -/
def sparse : State := v0.modCore 0 fun c => { c with mat := { c.mat with claim := some v0.me.who.claim, panels :=
  [(0, BitVec.ofNat _ ((List.range 512).foldl (fun a j => a + 2 ^ (8 * (0x200 + 2 * j)) * (0 + 8 * 1 + 64 * 2 + 512 * 3)) 0))] } }

theorem witness_MatrixProducts : CanClaim v0 ∧ ((held (v0.setMe v0.me)).core 0).mat.tPoison = [] ∧
    ((held (v0.setMe v0.me)).core 0).mat.wPoison = [] ∧ 30 + 2 * v0.me.G ≤ 32 ∧ v0.stepping = .b0 ∧
    { v0 with stepping := .a0 }.stepping = .a0 ∧ CanClaim sparse ∧
    (let v := ((held (sparse.setMe sparse.me)).core 0).mat.panel 0 0
     ∀ j < 512, metaOk (panelNat v (0x200 + 2 * j) 2) = true) := by
  unfold CanClaim; decide +kernel

/-! ## Witnesses: remote matrix commands -/

theorem capCheck_congr (key : Nat) (a b : Word) (h : a.toNat / 2 ^ 21 * 2 ^ 21 = b.toNat / 2 ^ 21 * 2 ^ 21) :
    capCheck key a = capCheck key b := by
  unfold capCheck; rw [h]

theorem mod_small (n : Nat) : n % 2 ^ 21 < 2 ^ 21 := Nat.mod_lt _ (by decide)

theorem capCheck_small (key : Nat) (a : Word) : capCheck key a < 2 ^ 21 := by
  unfold capCheck; exact mod_small _

/-- The fields of a capability of VI 0 for group 5 with all four rights, serial number 0 and any CHECK. -/
theorem capability_fields (x : Nat) (hx : x < 2 ^ 21) : let c : Word := BitVec.ofNat 64 (135283910681559040 + x)
    c.toNat = 135283910681559040 + x ∧ bitsOf c 63 57 = 0 ∧ bitsOf c 20 0 = x ∧ bitsOf c 44 21 = 0 ∧
    c.extractLsb' 45 8 = (5 : Byte) ∧ c.getLsbD 53 = true ∧ c.getLsbD 54 = true ∧ c.getLsbD 55 = true ∧ c.getLsbD 56 = true := by
  intro c
  have h : c.toNat = 135283910681559040 + x := by simp only [c, BitVec.toNat_ofNat]; omega
  have b : ∀ k, 53 ≤ k → k ≤ 56 → c.getLsbD k = true := fun k h1 h2 => by
    rw [BitVec.getLsbD, h, Nat.testBit_eq_decide_div_mod_eq, decide_eq_true_eq]
    obtain rfl | rfl | rfl | rfl : k = 53 ∨ k = 54 ∨ k = 55 ∨ k = 56 := by omega
    all_goals omega
  refine ⟨h, ?_, ?_, ?_, ?_, b 53 (by decide) (by decide), b 54 (by decide) (by decide), b 55 (by decide) (by decide),
    b 56 (by decide) (by decide)⟩
  · simp only [bitsOf, h, Nat.shiftRight_eq_div_pow]; omega
  · simp only [bitsOf, h, Nat.shiftRight_eq_div_pow]; omega
  · simp only [bitsOf, h, Nat.shiftRight_eq_div_pow]; omega
  · apply BitVec.eq_of_toNat_eq
    rw [BitVec.extractLsb'_toNat, h, Nat.shiftRight_eq_div_pow, show (5 : Byte).toNat = 5 from rfl]; omega

/-- A command of hart 0 to its own core, with this operation word, address, stride and row count. -/
def command (cap op addr stride rows : Word) : Mcmd :=
  { id := 9, hart := 0, uid := 0, vi := 0, space := s0.me.sys.space, mode := .u, sc := 1, core := 0, cap := cap,
    desc := [op, addr, stride, rows, 0, 0, 0, 0], trap := true, dest := 8, pc := 0x200000, status := none }

/-- The claim of core 0 is held by hart 0, whose slot 0 names group 5, and these commands are on their way. -/
def sending (ms : List Mcmd) : State :=
  let s := s0.modMe fun x => { x with sys := { x.sys with gslot := x.sys.gslot.set 0 { v := true, group := 5 } } }
  let s := s.modCore 0 fun c => { c with mat := { c.mat with claim := some s0.me.who.claim } }
  { s with net := { s.net with mcmds := ms } }

/-- A command is allowed when its capability is one of VI 0 for a group of the claim's holder, under the VI's key. -/
theorem allows_of (s : State) (m : Mcmd) (c : Claim) (x : Nat) (vi : m.vi = 0) (key : (s.vi 0).capKey = 0)
    (floor : (s.vi 0).serialfloor = 0) (claim : (s.matrix m.core).claim = some c) (mine : c.vi = 0)
    (held : (s.tasks.any fun e => e.2.core.st != .free && e.2.who.claim == c &&
      e.2.sys.gslot.toList.any fun g => g.v && g.group == 5) = true)
    (cap : m.cap = BitVec.ofNat 64 (135283910681559040 + x)) (hx : x = capCheck 0 (BitVec.ofNat 64 135283910681559040)) :
    s.capAllows m = true := by
  have lt : x < 2 ^ 21 := hx ▸ capCheck_small _ _
  obtain ⟨n, a, b, d, e, e1, e2, e3, e4⟩ := capability_fields x lt
  have k : capCheck 0 (BitVec.ofNat 64 (135283910681559040 + x)) = x := by
    rw [hx, ← hx]
    refine (capCheck_congr 0 _ (BitVec.ofNat 64 135283910681559040) ?_).trans hx.symm
    rw [n, BitVec.toNat_ofNat]; omega
  unfold State.capAllows
  simp only [cap, vi, key, floor, claim, mine, held, a, b, d, e, k, show (0 : BitVec 7).toNat = 0 from rfl,
    show (0 : BitVec 24).toNat = 0 from rfl, beq_self_eq_true, Bool.true_and, Bool.and_true, Nat.le_refl, decide_true]
  split <;> rename_i y h
  · split at h
    · cases h; exact e1
    split at h
    · cases h; exact e2
    split at h
    · cases h; exact e3
    split at h
    · cases h; exact e4
    · cases h
  · rfl

def goodCap : Word := BitVec.ofNat 64 (135283910681559040 + capCheck 0 (BitVec.ofNat 64 135283910681559040))

theorem sending_allows (op addr stride rows : Word) (ms : List Mcmd) :
    (sending ms).capAllows (command goodCap op addr stride rows) = true := by
  have held : ((sending []).tasks.any fun e => e.2.core.st != .free && e.2.who.claim == s0.me.who.claim &&
      e.2.sys.gslot.toList.any fun g => g.v && g.group == 5) = true := by decide +kernel
  have key : ((sending []).vi 0).capKey = 0 := by decide +kernel
  have floor : ((sending []).vi 0).serialfloor = 0 := by decide +kernel
  have claim : ((sending []).matrix 0).claim = some s0.me.who.claim := by decide +kernel
  exact allows_of _ _ s0.me.who.claim _ rfl key floor claim (by decide +kernel) held rfl rfl

theorem command_valid (cap a b c d : Word) : (command cap a b c d).valid = (command 0 a b c d).valid := by
  unfold Mcmd.valid; congr

theorem command_op (cap a b c d : Word) : (command cap a b c d).op = (command 0 a b c d).op := by
  simp only [Mcmd.w, Mcmd.op, command]

theorem commands_listed : (List.all [(0, 0), (1, 0x200100), (1, 0x200101), (2, 0x200100), (2, 0x200102), (3, 0x200100),
    (4, 0x200100), (4, 0x200101)] fun (e : Word × Word) => (command 0 e.1 e.2 0x100 1).valid &&
      (command 0 e.1 e.2 0x100 1).op == e.1.toNat) = true := by decide +kernel

/-- A command for each of the operations 0 to 4, with addresses that are aligned and not: it is allowed, valid, and first on
its way. -/
theorem witness_RemoteCommands (op addr : Word) (h : (op, addr) ∈ [(0, 0), (1, 0x200100), (1, 0x200101), (2, 0x200100),
    (2, 0x200102), (3, 0x200100), (4, 0x200100), (4, 0x200101)]) :
    (sending [command goodCap op addr 0x100 1]).net.mcmds[0]? = some (command goodCap op addr 0x100 1) ∧
    (command goodCap op addr 0x100 1).status = none ∧
    (sending [command goodCap op addr 0x100 1]).crossing (dieOf 0) (dieOfCore 0) = none ∧
    (sending [command goodCap op addr 0x100 1]).capAllows (command goodCap op addr 0x100 1) = true ∧
    (command goodCap op addr 0x100 1).valid = true ∧ (command goodCap op addr 0x100 1).op = op.toNat := by
  have w := List.all_eq_true.1 commands_listed _ h
  simp only [Bool.and_eq_true, beq_iff_eq] at w
  exact ⟨rfl, rfl, if_pos (by decide), sending_allows op addr 0x100 1 [_],
    (command_valid goodCap op addr 0x100 1).trans w.1, (command_op goodCap op addr 0x100 1).trans w.2⟩

theorem witness_RemoteRefusals :
    let m := command (2 ^ 57) 0 0 0 0
    (sending [m]).net.mcmds[0]? = some m ∧ m.status = none ∧ (sending [m]).capAllows m = false ∧
    (command goodCap 5 0 0 0).valid = false ∧
    (sending [command goodCap 5 0 0 0]).capAllows (command goodCap 5 0 0 0) = true := by
  refine ⟨rfl, rfl, by decide +kernel, (command_valid _ _ _ _ _).trans (by decide +kernel), sending_allows _ _ _ _ _⟩

/-- Sending one with its descriptor at g10 to core 3, waiting for one and for none, and a status on its way back. -/
theorem witness_RemoteMatrix : s0.me.frozen = false ∧ Clean s0.me [11, 5, 10] ∧ (0x200100#64).toNat % 64 = 0 ∧
    (let P := s0.probePieces (s0.who 0) false .load {}
       ((List.range 8).map fun k => { addr := 0x200100 + BitVec.ofNat 64 (8 * k), n := 8, elem := 0 })
     P.2.blockTrap (s0.who 0) .load P.1 = none ∧ ∀ v ∈ (P.2.readPieces (s0.who 0) (targetsOf P.1)).1, v.2 = none) ∧
    (s0.me.readG 11).toNat < 1024 ∧ s0.me.core.vs.cfg.sc.toNat < 2 ∧
    Clean (regs s0 [(11, 1024)]).me [11, 5, 10] ∧ (regs s0 [(11, 1024)]).me.readG 11 = 1024 ∧
    NoAtomic (s0.landPeers fun p => p.uid == 0) ∧
    (let w := unacked.modMe fun x => x.modVs fun v => { v with cfg := { v.cfg with sc := 2 } }
     NoAtomic (w.landPeers fun p => p.uid == 0) ∧ (w.landPeers fun p => p.uid == 0).acked = false ∧
     w.me.core.vs.cfg.sc.toNat = 2) ∧ s0.me.windows = [] ∧ s0.me.caps = [] ∧
    (let t := (after (exec (.mcmd true 8 11 5 10 0) s0) id).getD base
     t.me.frozen = false ∧ (∃ w ∈ t.me.windows, ∃ m ∈ t.net.mcmds, w.await = .mcmd m.id) ∧
       t.net.mcmds.map (fun m => (m.core, m.cap, m.status)) = [(3, 100, none)]) ∧
    (let m := { command 0 0 0 0 0 with status := some 0x40 }
     let t := sending [m]
     m.status = some 0x40 ∧ t.acked = true ∧ (t.hart 0).who.uid = m.uid ∧ (t.hart 0).core.st ≠ .free ∧
     (after (exec (.mcmdStatusArrive 0 false) t) fun u => (u.me.readG 8, u.me.caps.length)) = some (0x40, 1)) := by
  unfold Clean NoAtomic; decide +kernel

/-! ## Witnesses: the vector configuration, forks and groups -/

def masks (n : Nat) (s : State) : State := s.modMe fun x => x.modVs fun v => { v with mstack := List.replicate n (BitVec.allOnes 16384) }

theorem witness_VectorConfiguration : v0.me.landAll.isSome = true ∧ v0.me.frozen = false ∧ Clean v0.me [5] ∧
    (v0.me.landAll.map fun x => (x.anyUnlanded, x.gang, x.core.vs.mstack.length)) = some (false, none, 0) ∧ Untraced v0 ∧
    MaskOk v0.me (.on 63) ∧ MaskOk v0.me (.off 63) ∧ (masks 16 v0).me.landAll.isSome = true ∧ (masks 16 v0).me.frozen = false ∧
    MaskOk (masks 16 v0).me (.on 63) ∧ (v0.me.landAll = some v0.me) ∧ 16 ≤ (masks 16 v0).me.core.vs.mstack.length ∧
    (masks 15 v0).me.core.vs.mstack.length < 16 ∧ (masks 15 v0).me.core.vs.mstack ≠ [] ∧
    (after (exec (.setvl false 8 5 .e32 0) v0) fun t => (t.me.readG 8, t.me.vl, t.me.G)) = some (32, 32, 1) ∧
    (after (exec (.vmpush 1 true) v0) fun t => (t.me.core.vs.em.extractLsb' 0 4, t.me.core.vs.mstack.length)) =
      some (10, 1) := by
  unfold Clean Untraced MaskOk; decide +kernel

/-- Two lane groups, and save areas in VI 0's trap configuration. -/
def wide (n : Nat) : State :=
  (v0.modMe fun x => { x with lanes := { x.lanes with grant := [(0, 0), (1, 0)] } }).modVi 0 fun v =>
    { v with trap := { v.trap with saves := 0x240000, nsave := n } }

/-- After fork.lanes: the child runs in hart 1. -/
def forked : State := (after (exec (.forkLanes 8 64) (wide 4)) id).getD s0
def inChild : State := { forked with cur := 1 }

theorem witness_ForkJoinExit : v0.me.landAll.isSome = true ∧ v0.me.inHandler = false ∧
    (v0.me.landAll.map fun x => (x.core.st, x.anyUnlanded, x.G)) = some (.running, false, 1) ∧
    (v0.me.landAll.map fun x => (x.pendErr, x.gang)) = some (none, none) ∧
    (0x200040#64).toNat % 16 = 0 ∧ (wide 0).me.landAll.isSome = true ∧
    ((wide 0).me.landAll.map fun x => (x.core.st, x.anyUnlanded, x.G)) = some (.running, false, 2) ∧
    ((wide 0).me.landAll.map fun x => (x.gang, x.holdsVector)) = some (none, false) ∧ ((wide 0).vi 0).trap.freeArea = none ∧
    (((wide 4).setMe (wide 4).me).charge 2).freeHart 0 = some 1 ∧ ((wide 4).vi 0).trap.freeArea = some 0 ∧ Untraced (wide 4) ∧
    (let v := (wide 0).modMe fun x => x.modVs fun v => { v with binds := [(0, { reg := 8, out := true, pos := 0, buf := [], taker := none, open_ := true })] }
     v.me.holdsVector = true ∧ v.me.G = 2 ∧ v.me.landAll.isSome = true ∧ v.me.anyUnlanded = false) ∧
    (let g := (wide 0).modMe fun x => { x with gang := some { number := 0, members := [0], finished := [], before := [] } }
     g.me.gang.isSome = true ∧ g.me.G = 2 ∧ g.me.landAll.isSome = true) ∧
    forked.me.readG 8 = 1 ∧ forked.me.G = 1 ∧ inChild.me.G = 1 := by
  unfold Untraced; decide +kernel

theorem witness_JoinAndExit : forked.hasChild 0 0 = true ∧ forked.me.landAll.isSome = true ∧ forked.me.who.parent = none ∧
    s0.hasChild 0 0 = false ∧ s0.me.who.parent = none ∧ s0.me.pendErr = none ∧ s0.me.gang = none ∧
    s0.me.loopActive = false ∧ inChild.me.landAll.isSome = true ∧ inChild.me.inHandler = false ∧
    inChild.hasChild 0 inChild.me.who.uid = false ∧ inChild.me.who.parent = some 0 ∧ inChild.me.copiesDone = true ∧
    inChild.me.pendErr = none ∧ inChild.me.gang = none ∧ inChild.me.loopActive = false ∧ Untraced inChild ∧
    inChild.acked = true ∧ { inChild with net := { inChild.net with invals := unacked.net.invals } }.acked = false ∧
    (let n := forked.modMe fun x => { x with who := { x.who with parent := some 77 } }
     n.me.who.parent = some 77 ∧ n.hasChild 0 n.me.who.uid = true ∧ n.me.loopActive = false) := by
  unfold Untraced; decide +kernel

/-- A group of n members in VI 0's table, which slot 2 of the hart names. -/
def grouped (n : Nat) : State :=
  let g : Group := { v := true, queue := 0, lseq := 0, tslot := 0, tmpl := 7, phase := 4, n := n, gone := [],
                     arrived := [],
                     scope := 1, homes := [0] }
  let s := s0.modMe fun x => { x with sys := { x.sys with gslot := x.sys.gslot.set 2 { v := true, group := 5 } } }
  let t : Tab (List TmplSlot) := [(7, [{ mode := 3, gbase := 5, param := 0 }])]
  s.modVi 0 fun v => { v with tables := { v.tables with groups := [(5, g)], tmpls := t } }

theorem witness_GroupPhases : Clean s0.me [5] ∧ s0.me.standing 2 = none ∧ s0.member s0.me 2 = none ∧
    Clean (grouped 2).me [5] ∧ (grouped 2).me.standing 2 = none ∧
    ((grouped 2).member (grouped 2).me 2).map (fun m => (m.1, m.2.2, m.2.1.n)) = some (5, 0, 2) ∧
    NoAtomic ((grouped 2).landPeers fun p => p.uid == 0) ∧ (onWay.landPeers fun p => p.uid == 0).atmsOpen 0 = true ∧
    NoAtomic ((grouped 1).landPeers fun p => p.uid == 0) ∧ Clean (grouped 1).me [5] ∧ (grouped 1).me.standing 2 = none ∧
    ((grouped 1).member (grouped 1).me 2).map (fun m => (m.1, m.2.2, m.2.1.n)) = some (5, 0, 1) ∧
    (after (exec (.grpRed .add 8 5 2) (grouped 1)) fun t => (t.me.readG 8, t.me.core.st)) = some (100, .running) ∧
    (after (exec (.grpBcast 8 5 2 0) (grouped 2)) fun t => (t.me.readG 8, t.me.core.st)) = some (0, .waiting .poll) := by
  unfold Clean NoAtomic; decide +kernel

/-- The results of a phase of two members that agree, and of two that do not. -/
theorem witness_GroupResults :
    let a : Arrival := { uid := 0, rank := 0, opc := 0x303, op := 0, root := 0, val := 5, dest := 8, pc := 0 }
    let b := { a with uid := 1, rank := 1, val := 6 }
    let g := fun (l : List Arrival) => ({ v := true, queue := 0, lseq := 0, tslot := 0, tmpl := 7, phase := 4, n := 2, gone := [],
                                          arrived := l, scope := 1, homes := [0] } : Group)
    (g [a, b]).arrived.map Arrival.rank = List.range 2 ∧ (g [a, b]).result = (11, 0) ∧
    (g [{ a with opc := 0x304, root := 1 }, { b with opc := 0x304, root := 1 }]).result = (6, 0) ∧
    (g [a, { b with op := 1 }]).result = (BitVec.allOnes 64, 0) := by
  decide +kernel

/-! ## Witnesses: copies, queues, gangs and messages -/

/-- A descriptor at 0x200100: two elements of 8 bytes from 0x200180 to lane memory at 0x40. -/
def copying : State :=
  let ws := [(0x200100, 0x700), (0x200108, 0x200180), (0x200110, 0x40), (0x200118, 8), (0x200120, 2 + 8 * 2 ^ 32),
    (0x200180, 5), (0x200188, 6)]
  let s := lane0 v0
  { s with phys := { s.phys with dram := ws.foldl (fun (d : Memory) (e : Nat × Nat) => Memory.writeN d e.1 (leBytes 8 e.2)) s.phys.dram } }

/-- After cp.start, and after COPY_BEGIN. -/
def started : State := (after (exec (.cpStart 2 10 false 0 0) copying) id).getD s0
def begun : State := started.modMe fun x =>
  { x with eng := { x.eng with chans := x.eng.chans.map fun c => { c with copies := c.copies.map fun y => { y with begun := true } } } }

/-- A channel with 16 copies, and a seventeenth that waits for its place. -/
def sixteen : State := started.modMe fun x =>
  { x with eng := { x.eng with chans := x.eng.chans.map fun c => { c with copies := c.copies.flatMap (List.replicate 16) } } }
def waitingCopy : State := (after (exec (.cpStart 2 10 false 0 1) sixteen) id).getD s0

/-- Copies of two channels of hart 0, the one of channel 3 first. -/
def withSeq (s : State) (ch n : Nat) : State := s.modMe fun x =>
  let c : Channel := { chwp := 0, copies := (x.eng.chan 2).copies.map fun y => { y with seq := n } }
  { x with eng := { x.eng with chans := x.eng.chans.setIfInBounds ch c } }
def inTurn : State := withSeq (withSeq started 3 0) 2 1

/-- A member of a gang whose leader's descriptor has MCAST. -/
def ganged8 : State :=
  let s := { copying with phys := { copying.phys with dram := copying.phys.dram.writeN 0x200100 (leBytes 8 0x2700) } }
  let f := fun (x : Hart) => { x with gang := some { number := 3, members := [8, 0], finished := [], before := [] } }
  let s := s.modMe f
  s.modHart 8 fun _ => s.me

/-- v4 bound to channel 1 as a source. -/
def bound : State := (after (exec (.sbind false 4 1) v0) id).getD s0

def descriptor (s : State) : List Word := match (s.readDesc (s.who 0) false 0x200100).1 with
  | .ok (ws, _) => ws
  | .error _ => []

theorem witness_CopiesAndStreams : Clean copying.me [10] ∧ copying.leaderCopies 10 false 0 = false ∧
    okAnd (copying.readDesc (copying.who 0) false 0x200100).1 (fun r => r.2 == none) = true ∧
    (let ws := descriptor copying
     let d := CopyDesc.parse fun k => ws.getD k 0
     d.fits (fun k => ws.getD k 0) = true ∧ d.mcast = false ∧ copying.me.bindFits 2 d = true ∧ d.kind = 0 ∧ d.total = 2 ∧
     (let P := (copying.readDesc (copying.who 0) false 0x200100).2.probeCopy (copying.who 0) ((copying.me.receivers 0 d).map coreOf) d 2
      P.1.faults = [] ∧ NoAtomic (P.2.landPeers fun p => p.uid == 0)) ∧
     (let P := (sixteen.readDesc (sixteen.who 0) false 0x200100).2.probeCopy (sixteen.who 0) ((sixteen.me.receivers 0 d).map coreOf) d 2
      P.1.faults = [] ∧ NoAtomic (P.2.landPeers fun p => p.uid == 0)) ∧ sixteen.me.bindFits 2 d = true) ∧
    Clean sixteen.me [10] ∧ sixteen.leaderCopies 10 false 0 = false ∧ (sixteen.me.eng.chan 2).copies.length = 16 ∧
    ganged8.leaderCopies 10 false 0 = true ∧
    copying.me.core.vs.cfg.sc.toNat < 2 ∧ Clean s0.me [10] ∧ s0.leaderCopies 10 false 0 = false ∧
    (let ws := descriptor s0
     (CopyDesc.parse fun k => ws.getD k 0).fits (fun k => ws.getD k 0) = false) ∧
    started.me.eng.unfinished < 1024 ∧ (started.me.eng.chan 2).copies.length = 1 ∧ started.engineWaits 0 = false ∧
    started.me.eng.unfinished = 0 ∧ waitingCopy.engineWaits 0 = true := by
  unfold Clean NoAtomic; decide +kernel

theorem witness_StreamsAndBatches :
    (after (exec (.cpSeal 8 0) started) fun t => (t.me.readG 8, t.me.eng.next, t.me.eng.unfinished)) = some (0, 1, 1) ∧
    v0.me.core.vs.cfg.aligned 4 v0.me.core.vs.cfg.w = true ∧ v0.me.groupAwaits 4 = false ∧ v0.me.core.vs.binds = [] ∧
    bound.me.core.vs.binds.map (fun b => (b.1, b.2.reg)) = [(1, 4)] ∧ bound.me.landAll.isSome = true ∧ bound.me.core.vs.binds.any (fun b => b.1 == 1 || b.2.reg == 8) = true ∧
    v0.me.core.vs.cfg.aligned 4 8 = true ∧
    (bound.me.landAll.map fun x => (x.core.vs.binds.find? fun b => b.2.reg == 4).map fun b => (b.1, b.2.out))
      = some (some (1, false)) ∧ v0.me.landAll.isSome = true := by
  decide +kernel

theorem witness_CopyLanding :
    ((s0.hart 0).eng.chan 2).copies = [] ∧ ((started.hart 0).eng.chan 2).copies.map (fun c => (c.begun, c.count)) = [(false, 2)] ∧
    ((begun.hart 0).eng.chan 2).copies.map (fun c => (c.begun, (begun.hart 0).mayLand 2 c 1, (begun.hart 0).mayLand 2 c 2)) =
      [(true, true, false)] ∧
    ((started.hart 0).eng.chan 2).copies.map (fun c => started.beginsAfter 0 2 c) = [false] ∧
    ((inTurn.hart 0).eng.chan 2).copies.map (fun c => (c.begun, inTurn.beginsAfter 0 2 c)) = [(false, true)] ∧
    ((begun.hart 0).eng.chan 2).copies.map (fun c => ((begun.hart 0).together 2 c 1, c.desc.kind)) = [([1], 0)] ∧
    (after (exec (.copyElementLand 0 2 1 none) begun) fun t => (t.core 0).lane.read 0x48) = some 6 := by
  decide +kernel

theorem canonicalBegun : Canonical begun where
  dram := by decide +kernel
  hostA := by decide +kernel
  hostB := by decide +kernel
  lane := by decide +kernel
  slice := by decide +kernel

/-- Handle 3 names input port 0 of die 0, handle 4 output port 3, handle 5 device queue 7. Port 3 holds one record in full. -/
def queued (full closed : Bool) : State :=
  let l : Launch := { index := 3, words := [], st := .pending, placed := 1, cut := 4, retired := 0 }
  let s := regs (lane0 s0) [(9, 0x40)]
  let e := fun (k : BitVec 4) (n : BitVec 16) => ({ kind := k, die := 0, index := n } : QEntry)
  let s := s.modMe fun x => { x with sys := { x.sys with qmap := ((x.sys.qmap.set 3 (e 2 0)).set 4 (e 2 3)).set 5 (e 1 7) } }
  let s := s.setPort 0 0 3 { recs := if full then [(77, false)] else [], closed := closed }
  { s with queues := [(7, { DevQueue.reset with st := .active, tail := 2, table := [l] })] }

def q0 : State := queued true false

theorem witness_QueueInstructions : Clean q0.me [9] ∧ q0.portHandle q0.me 3 true = some (0, 0, 1024) ∧ (0x40 : Nat) % 64 = 0 ∧
    q0.laneOwned (q0.who 0) 0x40 (64 * 63) = true ∧ (q0.laneRecords (q0.who 0) 0x40 63).2.1 = false ∧
    (q0.port 0 0 0).recs = [] ∧ q0.me.core.vs.cfg.sc.toNat < 2 ∧ q0.portHandle q0.me 6 true = none ∧
    (q0.laneRecords (q0.who 0) 0x40 63).2.2.waiting (fun e => e.pushes 0 0 0) = [] ∧
    NoAtomic ((q0.laneRecords (q0.who 0) 0x40 63).2.2.landPeers fun p => p.uid == 0) ∧
    (let f := q0.setPort 0 0 0 { recs := List.replicate 1000 (7, false), closed := false }
     Clean f.me [9] ∧ f.portHandle f.me 3 true = some (0, 0, 1024) ∧ f.laneOwned (f.who 0) 0x40 (64 * 63) = true ∧
     (f.laneRecords (f.who 0) 0x40 63).2.1 = false ∧ 1024 < (f.port 0 0 0).recs.length + 63 ∧
     NoAtomic ((f.laneRecords (f.who 0) 0x40 63).2.2.landPeers fun p => p.uid == 0)) ∧
    (let w := { q0 with net := { q0.net with invals := unacked.net.invals } }.modMe fun x =>
       x.modVs fun v => { v with cfg := { v.cfg with sc := 2 } }
     Clean w.me [9, 11] ∧ ((w.laneRecords (w.who 0) 0x40 63).2.2.landPeers fun p => p.uid == 0).acked = false ∧
     (w.landPeers fun p => p.uid == 0).acked = false ∧ w.me.core.vs.cfg.sc.toNat = 2) := by
  unfold Clean NoAtomic; decide +kernel

theorem witness_Ports : q0.portHandle q0.me 4 false = some (0, 3, 4096) ∧ q0.laneProbe 0 0 false 0x40 64 = true ∧ (q0.port 0 0 3).recs ≠ [] ∧
    ((queued false true).port 0 0 3).recs = [] ∧ ((queued false true).port 0 0 3).closed = true ∧
    ((queued false false).port 0 0 3).closed = false ∧
    q0.waiting (fun e => e.pops 0 0 3) = [] ∧ NoAtomic (q0.landPeers fun p => p.uid == 0) ∧ Clean (queued false true).me [9] ∧ Clean (queued false false).me [9] ∧
    q0.handle q0.me 5 = some (.queue 7) ∧ Clean q0.me [11] ∧ (q0.me.readG 11).toNat < 2 ^ 32 ∧
    (after (exec (.qPop false 4 8 9 0) q0) fun t => (t.me.readG 8, (t.core 0).lane.read 0x40)) = some (0, 77) ∧
    (after (exec (.qCancel 5 8 11 0) q0) (·.me.readG 8)) = some (2 ^ 32 + 3) := by
  unfold Clean NoAtomic; decide +kernel

/-- Harts 0 and 8 wait at gang.form with number 3. -/
def gathering (s : State) : State :=
  let f := fun (x : Hart) => { x.setSt (.waiting .gang) with
    arrival := some { d := 8, number := 3, size := 2, since := 0, limit := 10 }, sys := { x.sys with time := { x.sys.time with cycle := 10 } } }
  (s.modHart 0 f).modHart 8 f

/-- The gang of harts 0 and 8, and VI 0's handler image. -/
def ganged : State :=
  let f := fun (x : Hart) => { x with gang := some { number := 3, members := [0, 8], finished := [], before := [] } }
  (s0.modHart 0 f).modHart 8 f
/-- Hart 1 of the core is in gang 3 of two, and hart 8 has come to form a gang of four. -/
def gangedBeside : State := s0.modHart 1 fun x => { x with gang := some { number := 3, members := [1, 9], finished := [], before := [] } }
def unlikeArrival : State := s0.modHart 8 fun x => { x.setSt (.waiting .gang) with
  arrival := some { d := 8, number := 3, size := 2, since := 0, limit := 0 }, sys := { x.sys with space := { x.sys.space with asid := 9 } } }
def imaged : State := (regs s0 [(12, 0x1000), (13, 0x200100)]).modVi 0 fun v => { v with tables := { v.tables with image := some (0x1000, 64) } }

theorem witness_GangsAndMessages : s0.me.landAll.isSome = true ∧ s0.me.inHandler = false ∧
    (s0.me.landAll.map fun x => (x.anyUnlanded, x.gang.isSome)) = some (false, false) ∧ Clean s0.me [11, 0] ∧
    (s0.me.readG 11).toNat < 256 ∧ s0.gangHere 0 2 3 = false ∧ s0.arrivals 0 2 3 = [] ∧ gangedBeside.gangHere 0 2 3 = true ∧
    gangedBeside.me.landAll = s0.me.landAll ∧ unlikeArrival.arrivals 0 2 3 = [8] ∧
    (unlikeArrival.hart 8).sys.space.asid ≠ s0.me.sys.space.asid ∧ unlikeArrival.gangHere 0 2 3 = false ∧ Clean s0.me [10, 0] ∧ 256 ≤ (s0.me.readG 10).toNat ∧
    (gathering s0).gangReady 0 = some [0, 8] ∧
    (let t := (gathering s0).modHart 8 fun x => { x with arrival := none }
     t.gangReady 0 = none ∧ ((t.hart 0).arrival.map fun r => (r.limit, (t.hart 0).sys.time.cycle - r.since)) = some (10, 10)) ∧
    ganged.me.gang.map Gang.members = some [0, 8] ∧ (∀ m ∈ [0, 8], (ganged.hart m).landAll.isSome = true) ∧
    (ganged.me.landAll.map fun x => (x.anyUnlanded, x.gang.isSome)) = some (false, true) ∧
    ganged.me.landAll.isSome = true ∧ ganged.me.inHandler = false ∧ Clean ganged.me [11, 0] ∧
    (after (exec (.gangForm 8 10 0 1) s0) (·.me.readG 8)) = some (-1) ∧
    (after (exec (.gangForm 8 11 0 1) s0) (·.me.core.st)) = some (.waiting .gang) := by
  unfold Clean; decide +kernel

/-- The target's slice holds 64 messages. -/
def flooded : State := imaged.modSlice (homeSlice 0x200100) fun _ =>
  let t := (after (exec (.msgSend .reply 14 12 13 20 0 0) imaged) fun t => t.slice (homeSlice 0x200100)).getD Slice.reset
  { t with msgs := t.msgs.flatMap (List.replicate 64) }

theorem witness_Messages : Clean imaged.me [12, 13, 20, 21, 22, 23] ∧ (imaged.vi 0).inImage 0x1000 = true ∧
    (s0.vi 0).inImage 0x1000 = false ∧ Clean s0.me [12, 13, 20, 21, 22, 23] ∧
    okAnd (imaged.msgTarget (imaged.who 0) 0x200100).1 (fun p => p.1 == 0x200100) = true ∧
    ((imaged.msgTarget (imaged.who 0) 0x200100).2.slice (homeSlice 0x200100)).msgs = [] ∧
    imaged.me.core.vs.cfg.sc.toNat < 2 ∧ imaged.crossing 0 0 = none ∧ imaged.installing 0 = false ∧ s0.installing 0 = false ∧
    (let R := imaged.msgTarget (imaged.who 0) 0x200100
     let e := R.2.landPeers fun p => p.uid == 0
     NoAtomic e ∧ ((e.charge 1).netId.2.lost 0 (dramDie 0x200100)).1 = none ∧
     R.2.waiting (fun n => n.hart == 0 && n.sends (homeSlice 0x200100)) = []) ∧
    (let R := flooded.msgTarget (flooded.who 0) 0x200100
     let e := R.2.landPeers fun p => p.uid == 0
     NoAtomic e ∧ ((e.charge 1).netId.2.lost 0 (dramDie 0x200100)).1 = none ∧ Clean flooded.me [12, 13, 20, 21, 22, 23] ∧
     flooded.installing 0 = false ∧ okAnd R.1 (fun p => p.1 == 0x200100) = true ∧
     (R.2.slice (homeSlice 0x200100)).msgs.length = 64 ∧ (flooded.vi 0).inImage 0x1000 = true) ∧
    (let p := imaged.modMe fun x => { x with sys := { x.sys with qmap := x.sys.qmap.set 6 { kind := 3, die := 0, index := 0x100 } } }
     (p.portHandle p.me 6 false).map (fun h => (h.1, h.2.1)) = some (0, 0x100)) ∧
    (after (exec (.msgSend .reply 14 12 13 20 0 0) imaged) fun t =>
      ((t.slice (homeSlice 0x200100)).msgs.map Message.handler, t.me.windows.length)) = some ([0x1000], 1) := by
  unfold Clean NoAtomic; decide +kernel

/-! ## Witnesses: rasterizing, sampling and rays -/

/-- The current hart is hart 8, of core 1, which is no G-core; v0's has a triangle in slot 1. -/
def plainCore : State := { base with cur := 8 }
def rasterized : State :=
  let r : RasterSlot := { RasterSlot.reset with v := true, fx := [0, 2048, 0], fy := [0, 0, 2048], area := 4194304,
                                                z := [0, 0, 0], mx := [0, 0, 0], my := [0, 0, 0] }
  (regs (lane0 v0) [(9, 0x40), (12, 2 ^ 38 + 64)]).modMe fun x => x.modVs fun v => v.setSlot 1 r
def v16 (s : State) : State := s.modMe fun x => x.modVs fun v => { v with cfg := { v.cfg with ew := .e16 } }

theorem ready_raster : VReady rasterized.me ∧ VReady (v16 rasterized).me := by
  constructor <;> exact ⟨by decide +kernel, by decide +kernel, by decide +kernel, by decide +kernel, by decide +kernel,
    by decide +kernel, by decide +kernel⟩

theorem witness_RasterRule : plainCore.me.frozen = false ∧ isGCore (coreOf plainCore.cur) = false ∧ plainCore.me.core.mode = .u ∧
    plainCore.me.sys.strap.migen = true ∧ plainCore.me.gang = none ∧ (sMode plainCore).me.core.mode ≠ .u ∧
    (sMode plainCore).me.frozen = false ∧ isGCore (coreOf rasterized.cur) = true ∧ rasterized.me.frozen = false ∧
    Clean rasterized.me [9, 12] ∧ rasterized.laneProbe 0 0 false 0x40 80 = true ∧
    (rasterized.readLane (rasterized.who 0) 0 0x40 80).1.2 = none ∧ (rasterized.me.readG 12).toNat % 2 ^ 32 = 64 ∧
    (rasterized.me.readG 12).toNat / 2 ^ 32 = 64 ∧ MaskOk rasterized.me .none ∧ (rasterized.me.core.vs.slot 1).v = true := by
  unfold Clean MaskOk; decide +kernel

theorem witness_Coverage : (v16 rasterized).me.core.vs.cfg.ew = .e16 ∧ GroupOk (v16 rasterized).me 4 16 ∧
    Clean (v16 rasterized).me [0] ∧ ((v16 rasterized).me.core.vs.slot 1).v = true ∧ rasterized.me.core.vs.cfg.ew = .e32 ∧
    GroupOk rasterized.me 4 32 ∧ GroupOk rasterized.me 1 32 ∧ Clear rasterized.me 4 32 1 32 ∧
    (after (exec (.rastCover 1 4 0 .none) (v16 rasterized)) fun t => t.me.elem 4 16 1) = some 0x137 ∧
    (after (exec (.rastSetup 2 8 9 12) rasterized) (·.me.readG 8)) = some 1 ∧ (fillSlot 0 0 0).1 = 1 := by
  unfold Clean GroupOk Clear; decide +kernel

/-- A sampler descriptor at 0x200100 of a texture of one texel at 0x200180. -/
def texture : State :=
  { v0 with phys := { v0.phys with dram := (v0.phys.dram.writeN 0x200100 (leBytes 8 0x200180)).writeN 0x200108 (leBytes 8 (2 ^ 16)) } }

theorem ready_texture : VReady texture.me := ⟨by decide +kernel, by decide +kernel, by decide +kernel, by decide +kernel,
  by decide +kernel, by decide +kernel, by decide +kernel⟩

/-- The descriptor is read and valid, every element is sampled, and no sample is poisoned or stopped by a watch range. -/
def sampled : Bool :=
  let P := (issued texture).probeElemIn ((issued texture).who (issued texture).cur) .data .load 0x200100 64 {}
  okAnd P.1 fun t =>
    let D := P.2.2.readElem t 64
    D.1.2.isNone && (Sampler.parse D.1.1).any fun d =>
      (sampledRun D.2 d 24 16 .none {} ((List.range D.2.me.vl).filter fun i => D.2.me.vstart ≤ i)).isSome &&
      (watchedSamples (D.2.sampleAll d 16 {} (D.2.me.parts .none)).1).isEmpty &&
      (List.range D.2.me.vl).all fun i => (D.2.me.samplePoison 16 .none i).isNone

theorem witness_SampleRule : sampled = true ∧ MaskOk texture.me .none ∧ Clean texture.me [10] ∧
    texture.me.vstart < texture.me.vl ∧ (0x200100#64).toNat % 64 = 0 ∧
    (∀ k < 3, GroupOk texture.me (16 + BitVec.ofNat 6 (k * texture.me.core.vs.cfg.p)) 32) ∧
    (∀ k < 4, GroupOk texture.me (24 + BitVec.ofNat 6 (k * texture.me.core.vs.cfg.p)) 32) ∧
    texture.me.sampleFits 24 16 none = true ∧ texture.me.sampleFits 24 16 (some 3) = true := by
  unfold MaskOk Clean GroupOk; decide +kernel

/-! ## Witnesses: rays -/

/-- Generation 1 of an empty build. -/
def aGeneration (pins : BitVec 32) : Generation :=
  { gen := 1, pins := pins, root := 0, sah := 0, overlap := 0, base := 0, tris := [], insts := [], opq := false, count := 0, pages := [],
    tree := 0, nodes := [], fitted := false }

/-- Entry 2 of VI 0 holds generation 1 as CURRENT, with these pins. -/
def built (pins : BitVec 32) (s : State) : State :=
  let e := { AsEntry.none with v := true, hascur := true, cur := 1, slots := [(0, aGeneration pins)] }
  s.modVi 0 fun v => { v with tables := { v.tables with ases := [(2, e)] } }

/-- Two g registers that name entry 2 and lane memory at 0x40; and the same hart with set 0 open, whose ray 0 has a committed
hit, wants no other, and ray 1 is finished. -/
def rayed (pins : BitVec 32) : State := regs (built pins (lane0 v0)) [(12, 2), (9, 0x40)]
def aHit : Hit := { tn := 1, td := 1, t := 0, b1 := 0, b2 := 0, prim := 0, inst := 0, iid := 0, front := true }
def firstRay : Ray := { Ray.idle with st := 0, flags := 2, committed := some aHit }
def querying : State := (rayed 1).modMe fun x => x.modVs fun v =>
  v.putSet false { isOpen := true, entry := 2, gen := 1, vlq := 2, rays := [(0, firstRay)] }

theorem ready_rays : VReady (rayed 0).me ∧ VReady querying.me ∧ VReady (rayed (BitVec.allOnes 32)).me := by
  refine ⟨?_, ?_, ?_⟩ <;> exact ⟨by decide +kernel, by decide +kernel, by decide +kernel, by decide +kernel, by decide +kernel,
    by decide +kernel, by decide +kernel⟩

theorem witness_RayQueries : MaskOk (rayed 0).me .none ∧ isGCore (coreOf (rayed 0).cur) = true ∧ (rayed 0).me.rayCfg = true ∧
    ((rayed 0).me.set false).isOpen = false ∧ Clean (rayed 0).me [12, 9] ∧ Clean (rayed 0).me [5, 9] ∧
    (rayed 0).laneOwned ((rayed 0).who 0) 0x40 (64 * 4) = true ∧
    okAnd (((rayed 0).setMe (rayed 0).me).readRays ((rayed 0).who 0) 0x40 ((rayed 0).me.actives .none)).1 (fun rs => rs.length == 4) = true ∧
    (let p := (rayed 0).modCore 0 fun c => { c with lPoison := [(0x40 / 8, { cause := .dataEcc, addr := 0 })] }
     (match (((p.setMe p.me).readRays (p.who 0) 0x40 (p.me.actives .none)).1) with
      | .error i => i == 0
      | .ok _ => false) = true) ∧
    (((rayed 0).vi 0).as 2).v = true ∧ (((rayed 0).vi 0).as 2).hascur = true ∧ (((rayed 0).vi 0).as 5).v = false ∧
    ((((rayed 0).vi 0).as 2).slotOf 1).map (fun g => g.2.pins) = some 0 ∧
    ((((rayed (BitVec.allOnes 32)).vi 0).as 2).slotOf 1).map (fun g => g.2.pins) = some (BitVec.allOnes 32) ∧
    (after (exec (.rqInit false 8 12 9 .none 0) (rayed 0)) fun t => (t.me.readG 8, (t.me.set false).isOpen)) = some (0, true) := by
  unfold MaskOk Clean; decide +kernel

theorem witness_OpenSets : (querying.me.set false).isOpen = true ∧ MaskOk querying.me .none ∧ querying.me.rayCfg = true ∧
    querying.acked = true ∧ (querying.landPeers fun p => p.uid == 0).acked = true ∧ NoAtomic querying ∧
    ({ querying with net := { querying.net with invals := unacked.net.invals } }.landPeers fun p => p.uid == 0).acked = false ∧
    querying.net.parity.contains 0 = false ∧ (querying.vi 0).nodePages (aGeneration 1) = [] ∧ GroupOk querying.me 4 32 ∧ isGCore (coreOf querying.cur) = true ∧
    ((querying.vi 0).generation 2 1).isSome = true ∧ querying.phys.poison = [] ∧ querying.stepping = .b0 ∧
    { querying with stepping := .a0 }.stepping = .a0 ∧
    (after (exec (.rqStep false 4 1 .none 0) querying) fun t => (t.me.elem 4 32 0, t.me.elem 4 32 1)) = some (2, 3) ∧
    (after (exec (.rqEnd false) querying) fun t => ((t.vi 0).as 2).slots.map fun g => g.2.pins) = some [0] := by
  unfold GroupOk MaskOk NoAtomic; decide +kernel

/-- A ray that ends with its hit, one that has ended with none, and a builder record in lane memory. -/
theorem witness_RaySteps : let g := aGeneration 1
    ((querying.vi 0).stepRay g 1 firstRay).st = 2 ∧ firstRay.st.toNat ≤ 1 ∧ ((querying.vi 0).stepRay g 1 Ray.idle).st = 3 := by
  decide +kernel

/-- VI 0's builder queue of die 0 holds 256 commands. -/
def crowdedQueue (s : State) : State := s.modDie 0 fun d =>
  { d with builder := [(0, { cmds := List.replicate 256 { words := [], seq := 0, space := s0.me.sys.space, hart := 0 }, seq := 0 })] }

def asking : State := { lane0 s0 with cores := ((lane0 s0).modCore 0 fun c => { c with lane := c.lane.writeN 0x48 (leBytes 8 0x200100) }).cores }

theorem witness_BuilderCommands :
    let s := regs asking [(9, 0x40)]
    let R := s.readLane (s.who 0) 0 0x40 64
    s.me.frozen = false ∧ Clean s.me [9] ∧ s.laneProbe 0 0 false 0x40 64 = true ∧ R.1.2 = none ∧
    (BitVec.ofNat 64 (R.1.1 >>> 64)).toNat = 0x200100 ∧ (R.2.probe (s.who 0) .store 0x200100 64).1.toBool = true ∧
    s.me.core.vs.cfg.sc.toNat < 2 ∧
    (let P := R.2.probe (s.who 0) .store 0x200100 64
     NoAtomic (P.2.landPeers fun p => p.uid == 0) ∧ (P.2.builderQ 0 0).cmds = [] ∧ P.2.waiting (fun e => e.builds 0 0) = []) ∧
    (let c : BuildCmd := { words := [], seq := 0, space := s0.me.sys.space, hart := 0 }
     let f := regs { crowdedQueue asking with cur := 0 } [(9, 0x40)]
     let P := (f.readLane (f.who 0) 0 0x40 64).2.probe (f.who 0) .store 0x200100 64
     Clean f.me [9] ∧ (P.2.builderQ 0 0).cmds = List.replicate 256 c ∧ P.1.toBool = true) ∧
    (after (exec (.bldCmd 8 9 0) s) fun t => (t.die 0).builder.map fun b => (b.1, b.2.seq)) = some [(0, 1)] := by
  unfold Clean NoAtomic; decide +kernel

/-! ## Witnesses: events of harts and contexts -/

def waiting (want : Word) : State :=
  let r : WaitRec := { k := .eq, w := 3, d := 8, addr := 0x200100, sp := false, want := want, limit := 10, since := 0, last := 4 }
  s0.modMe fun x => { x.setSt (.waiting (.cond r)) with sys := { x.sys with time := { x.sys.time with cycle := 10 } } }

/-- A window with a result, and one without. -/
def windowed : State := s0.modMe fun x =>
  { x with windows := [{ pc := 0, left := 3, gw := [(8, 5, none)], vw := [], fl := 0, await := .nothing },
                       { pc := 16, left := 3, gw := [], vw := [], fl := 0, await := .nothing }] }

def interrupted (stop : Bool) : State := s0.modMe fun x => { x with irq := { x.irq with preempt := true, stop := stop } }

def matching : State := s0.modMe fun x => { x with sys := { x.sys with time := { x.sys.time with cyccmp := 9 } } }

def reclaiming : State := s0.modMe fun x =>
  { x with lanes := { x.lanes with reclaim := some { recipient := .nobody, expired := false, late := 0 } } }

theorem witness_HartEvents : (waiting 0).me.core.st ≠ .running ∧
    okAnd (State.waitRead { waiting 0 with cur := 0 } false 0x200100 8).1 (fun v => v == (0, none)) = true ∧
    waitHolds .eq 8 0 0 = true ∧ waitHolds .eq 8 0 7 = false ∧ (waiting 0).me.gang = none ∧
    (waiting 0).me.sys.time.cycle = 10 ∧ windowed.me.windows.map (fun w => (w.await, w.gw.length)) = [(.nothing, 1), (.nothing, 0)] ∧
    ((interrupted true).me.nextIntr.map fun i => i.stop) = some true ∧
    ((interrupted false).me.nextIntr.map fun i => i.stop) = some false ∧ s0.me.core.st ≠ .free ∧
    s0.me.served = false ∧ s0.me.core.st = s0.me.runSt ∧ s0.me.gang = none ∧ s0.me.irq.held = false ∧
    matching.me.core.st = .running ∧ matching.me.sys.time.cyccmp = 9 ∧ matching.me.sys.time.cycle = 0 ∧
    reclaiming.me.lanes.reclaim.isSome = true ∧
    (let l : List Strip := [{ hart := 0, queue := 7, prio := 2, charge := 16 }, { hart := 1, queue := 3, prio := 1, charge := 16 }]
     (Core.reset.nextStrip (fun _ => 1) l true).map (fun r => (r.1.queue, r.2.serving, tget 0 r.2.deficit 7)) = some (7, [(2, 7)], 128)) := by
  decide +kernel

theorem test_events_of_harts :
    (after (exec (.waitConditionMet 0) (waiting 0)) fun t => (t.me.readG 8, t.me.core.st)) = some (0, .running) ∧
    (after (exec (.waitTimeout 0) (waiting 7)) fun t => (t.me.readG 8, t.me.core.st)) = some (4, .running) ∧
    (after (exec (.longLatencyComplete 0 0 .whole) windowed) fun t => (t.me.readG 8, t.me.windows.length)) = some (5, 1) ∧
    (after (exec (.trapEntry 0 0) (interrupted false)) fun t => t.me.sys.mtrap.tcause) = some 0x38 ∧
    (after (exec (.laneReclaim 0 16 .nobody) s0) fun t => t.me.lanes.ceil) = some 16 := by
  decide +kernel

/-- A hart that waits for the matrix claim; one that firmware serves for a PREEMPT, with a free unit; a saved context whose
record at 0x280000 holds one lane group, a ceiling and a request of 1; and hart 8, of a core without graphics, that migrates. -/
def claiming : State := s0.modMe fun x => x.setSt (.waiting .claim)
def preempted : State :=
  (s0.modMe fun x => { x with core := { x.core with mode := .m, st := .trapped },
                              frames := [{ mode := .m, claimed := false, kept := none, rayTag := 0 }],
                              sys := { x.sys with mtrap := { x.sys.mtrap with tcause := 0x38, tpc := 0x200040 } } }).modVi 0 fun v =>
    { v with trap := { v.trap with pool := 0x280000, npool := 1 } }
def savedHart : State :=
  let c : SavedCtx := { unit := 0, core := 1, hart := s0.me, timeout := none, rayTag := 0 }
  let s := s0.modVi 0 fun v => { v with trap := { v.trap with pool := 0x280000, npool := 1, units := [0] }, ctxs := [c] }
  { s with phys := { s.phys with dram := ((s.phys.dram.writeN 0x282098 [1]).writeN 0x2820A0 [1]).writeN 0x280200 (leBytes 8 (1 + 2 ^ 24)) } }
def migrating : State := s0.modHart 8 fun _ => { s0.me.setSt .migrating with who := { s0.me.who with uid := 3 } }

theorem witness_ContextEvents : claiming.me.core.st = .waiting .claim ∧ (claiming.matrix 0).claim = none ∧
    preempted.me.served = true ∧ preempted.me.sys.mtrap.tcause = 0x38 ∧ preempted.me.irq.held = false ∧
    preempted.me.copiesDone = true ∧ (preempted.vi 0).trap.freeUnit = some 0 ∧
    ((savedHart.vi 0).ctxs.find? fun c => c.unit == 0).isSome = true ∧ savedHart.freeHart 1 = some 8 ∧
    ((savedHart.unitsFor 1 (some (.ctx 0)) []).take 1).length = 1 ∧
    savedHart.outranked (savedHart.queue 0).die (savedHart.queue 0).prio 0 = false ∧ s0.me.who.queue = 0 ∧
    (∀ c ∈ (savedHart.vi 0).ctxs, (savedHart.dispatchedFor 0 (savedHart.queue 0)).contextFault ((savedHart.vi 0).trap.unitAddr 0) c = none) ∧
    (migrating.hart 8).core.st = .migrating ∧ (migrating.hart 8).copiesDone = true ∧
    ((migrating.hart 8).landAll.map fun y => (gCores 1).findSome? fun c =>
      let us := (migrating.unitsFor c (some (.ctx y.who.uid)) []).take y.G
      match migrating.freeHart c with
      | some k => if us.length = y.G then some (c, k, us.length) else none
      | none => none) = some (some (0, 1, 1)) := by
  decide +kernel

theorem test_events_of_contexts :
    (after (exec (.matrixClaimGrant 0) claiming) fun t => ((t.matrix 0).claim.isSome, t.me.core.st)) = some (true, .running) ∧
    (after (exec (.contextResume 0 0) savedHart) fun t => ((t.hart 8).core.st, (t.vi 0).ctxs.length)) = some (.running, 0) ∧
    (after (exec (.migrationPlace 8) migrating) fun t => ((t.hart 8).core.st, (t.hart 1).core.pc)) = some (.free, 0x200000) := by
  decide +kernel

/-! ## Witnesses: launch queues -/

/-- Queue 7 of VI 0 in slot 3, its next record at 0x200200: two instances at 0x200000 on core 0, with this count of lane
groups asked for. The dispatcher reads it through VI 0's address space. -/
def launchable (lreq : Nat) : State :=
  let q : DevQueue := { DevQueue.reset with slot := 3, ring := 0x200200, logsize := 1, prio := 2, ceil := 1, weight := 1,
                                            tail := 1, st := .active }
  let ws := [(0x200200, lreq * 2 ^ 32), (0x200208, 0x200000), (0x200218, 2), (0x200238, 0x01010001)]
  let s := s0.modVi 0 fun v => { v with spaces := [(0, s0.me.sys.space)], trap := { v.trap with saves := 0x240000, nsave := 4 },
                                        tables := { v.tables with slots := [(3, 7)] } }
  { s with queues := [(7, q)],
           phys := { s.phys with dram := ws.foldl (fun (d : Memory) (e : Nat × Nat) => Memory.writeN d e.1 (leBytes 8 e.2)) s.phys.dram } }

/-- The launch of that record; the queue with it in its table; and its core full of harts that run for a queue of lower
priority. -/
def aLaunch (lreq : Nat) : Launch :=
  { index := 0, words := [BitVec.ofNat 64 (lreq * 2 ^ 32), 0x200000, 0, 2, 0, 0, 0, 0x01010001], st := .pending, placed := 0,
    cut := 2, retired := 0 }
def tabled (s : State) : State := s.modQueue 7 fun q => { q with table := [aLaunch 1], head := 1 }
def crowded : State := tabled ((List.range 7).foldl (fun s k => s.setHart (k + 1) s0.me) (launchable 1))

/-- An instance of queue 7 that has ended, and the launch after the last one. -/
def ended (retired : Nat) : State :=
  let s := s0.modMe fun x => { x.setSt (.waiting .retire) with who := { x.who with queue := 7, lseq := 0, exited := true } }
  let l : Launch := { index := 0, words := [], st := .dispatched, placed := 2, cut := 2, retired := retired }
  { s with queues := [(7, { DevQueue.reset with slot := 3, st := .active, table := [l] })] }

def consumes (s : State) : Bool :=
  let w := s.whoVi 0 0
  let R := s.devRead w 0x200200 8
  let T := R.2.devRead w 0x200208 56
  R.1.any (fun b => leNat (b.take 4) == 0) && T.1.isSome

theorem witness_LaunchEvents : (launchable 1).slotQueue 0 3 = some 7 ∧
    ((tfind (launchable 1).queues 7).map fun q => (q.st, q.table.length, q.head, q.tail)) = some (.active, 0, 0, 1) ∧
    consumes (launchable 1) = true ∧ (launchable 1).recordFault ((launchable 1).queue 7) (aLaunch 1) = 0 ∧
    (launchable 0).recordFault ((launchable 0).queue 7) (aLaunch 0) = 2 ∧
    ((tabled (launchable 1)).placeable 7).map (fun p => (p.2.1, p.2.2.1, p.2.2.2.1)) = some (1, 0, 1) ∧
    (tabled (launchable 1)).outranked 0 2 7 = false ∧ ((tabled (launchable 1)).vi 0).ctxs = [] := by
  decide +kernel

theorem witness_Preemption : (crowded.placeable 7).isNone = true ∧ crowded.freeHart 0 = none ∧
    ((tfind crowded.queues 7).bind fun q => q.nextLaunch.map fun l => (q.st, q.permits l, l.eligible)) =
      some (.active, true, [0]) ∧
    (let below := (hartsOf 0).filter fun h => !isFirmwareHart h && decide ((crowded.hart h).who.prio < 2)
     (crowded.victim below fun _ => 0).isSome = true) ∧
    (let s := s0.setHart 1 { s0.me with lanes := { s0.me.lanes with grant := [(1, 0), (2, 0)] } }
     s.victim [1] Hart.G = some 1) := by
  decide +kernel

theorem witness_Retirement : (ended 0).me.core.st = .waiting .retire ∧ (ended 0).me.copiesDone = true ∧
    (ended 0).hasChild 0 0 = false ∧ (ended 0).acked = true ∧
    ((tfind (ended 0).queues 7).bind fun q => (q.table.find? fun l => l.index == 0).map fun l => (l.placed, l.cut, l.retired)) =
      some (2, 2, 0) ∧
    ((tfind (ended 2).queues 7).bind fun q => (q.table.find? fun l => l.index == 0).map fun l => (l.placed, l.cut, l.retired)) =
      some (2, 2, 2) := by
  decide +kernel

theorem test_events_of_launches :
    (after (exec (.tailNotifyWrite 0 3 9) (launchable 1)) fun t => (t.queue 7).tail) = some 9 ∧
    (after (exec (.dispatch 7) (tabled (launchable 1))) fun t => ((t.hart 1).core.st, (t.hart 1).core.pc, (t.hart 1).readG 3)) =
      some (.running, 0x200000, 2) ∧
    (after (exec (.instanceRetire 0) (ended 0)) fun t => (t.me.core.st, (t.queue 7).table.map Launch.retired)) = some (.free, [1]) ∧
    (after (exec (.launchRetire 7 0) (ended 2)) fun t => (t.queue 7).table.length) = some 0 := by
  decide +kernel

/-! ## Witnesses: networks and slices -/

def request (id : Nat) (reply : Option (Word × Option ErrCause)) : AtmReq :=
  { id := id, hart := 0, uid := 0, addr := 0x200100, op := .add, wide := true, x := 3, scope := 1, cmb := true, dest := 8,
    elems := [], src := 0, acq := false, absorbed := none,
    xl := { page := 0x200, idem := true, cache := true, rc := false, enc := false, key := 0,
            entry := { vi := 0, asid := 0, glob := false, inst := false, base := 0x200, pages := 512, at_ := 0, leaf := 0 } },
    reply := reply, pc := 0x200000 }

/-- Two atomic requests of one place, the second answered or not; a peer store from hart 0 to core 128; a window that awaits
the second; and link 0 down or up. -/
def network (answered up : Bool) : State :=
  let s := s0.modMe fun x => { x with windows := [{ pc := 0, left := 3, gw := [], vw := [], fl := 0, await := .atomic [6] }] }
  let q := request 6 (if answered then some (9, none) else none)
  let p : PeerStore := { uid := 0, pc := 0, core := 128, off := 0x40, bytes := [7, 8], poison := none }
  let l : Link := { up := up, half := false, routed := up }
  let c : SheetConf := { number := 1, routes := [], base := 0x200100, length := 64, vi := 0 }
  let t := { s with net := { s.net with atms := [request 5 none, q], peers := [p], links := s.net.links.set 0 l } }
  lane0 { t with fw := { t.fw with sheets := [c] }, vis := (t.modVi 0 fun v => { v with spaces := [(0, s0.me.sys.space)] }).vis }

theorem witness_NetworkEvents :
    (match (s0.walk (s0.who 0) false 0x200100 true).1 with
      | .leaf lvl _ e => lvl == 1 && (s0.leafFault (s0.who 0) .load e).isNone
      | _ => false) = true ∧ s0.me.core.st ≠ .free ∧ canonical 0x200100 = true ∧ isSheet 0x200100 = false ∧
    (s0.tlbOf (s0.who 0) false).length < (s0.who 0).tlbSize false ∧ (network false true).atmFollows 0 (request 5 none) = false ∧
    (network false true).atmFollows 1 (request 5 none) = false ∧ (network false true).atmFollows 1 (request 6 none) = true ∧
    (network false true).net.atms.length = 2 ∧ (request 5 none).absorbed = none ∧ (request 5 none).reply = none ∧
    (request 5 none).meets (request 6 none) = true ∧ (request 6 (some (9, none))).reply = some (9, none) ∧
    (network true true).net.invals = [] ∧ (network true true).isFor 0 0 = true ∧ (network true true).net.peers.length = 1 ∧
    ((network true false).net.peers.map fun p => (network true false).crossing ((network true false).peerFrom p)
      (dieOfCore p.core)) = [some 0] ∧
    ((network true true).net.links.toList[0]?).map Link.up = some true ∧
    ((network true false).net.links.toList[0]?).map (fun l => (l.up, l.routed)) = some (false, false) := by
  decide +kernel

def fromSheet : Word := 2 ^ 48 + 0x40

theorem witness_SheetAccess : ((network true true).fw.sheets.find? fun c => c.vi == 0).isSome = true ∧
    (∀ c ∈ s0.fw.sheets, c.vi ≠ 0) ∧ fromSheet.getLsbD 48 = true ∧ fromSheet.extractLsb' 42 6 = 0 ∧
    fromSheet.extractLsb' 20 12 = 0 ∧ (network true true).laneProbe 0 0 true 0x40 8 = true ∧
    (8#64).getLsbD 48 = false ∧
    ((network true true).devRead ((network true true).whoVi 0 0) 0x200108 8).1 = some [0, 0, 0, 0, 0, 0, 0, 0] := by
  decide +kernel

theorem test_events_of_networks :
    (after (exec (.homeAccess 0) (network false true)) fun t => (t.net.atms.map fun r => r.reply.map Prod.fst, t.phys.dram.read 0x200100)) =
      some ([some 0, none], 3) ∧
    (after (exec (.atmCombine 0 1) (network false true)) fun t => t.net.atms.map fun r => (r.x, r.absorbed)) =
      some [(6, none), (3, some (5, 3))] ∧
    (after (exec (.replySplit 1) (network true true)) fun t => t.me.windows.map fun w => w.await) = some [.nothing] ∧
    (after (exec (.peerAccessArrive 0 false) (network true true)) fun t => (t.core 128).lane.read 0x41) = some 8 ∧
    (after (exec (.peerAccessArrive 0 true) (network true false)) fun t => ((t.core 128).lane.read 0x41, t.net.peers.length)) = some (0, 0) ∧
    (after (exec (.sheetAccessArrive 0 0 fromSheet (.write [5])) (network true true)) fun t => (t.core 0).lane.read 0x40) = some 5 := by
  decide +kernel

/-- Slice 3 holds a message whose handler is at 0x200000: hret g5, or a word that does not decode. -/
def aMessage (mode : MsgMode) : Message :=
  { handler := 0x200000, target := 0x200100, args := [1, 2, 3, 4], sender := 0, sendUid := 0, vi := 0, space := s0.me.sys.space,
    mode := mode, id := 6, dest := 8, tag := 0, die := 0, port := 0x100, hop := 0, sc := 1, quiet := false }
def activating (w : BitVec 128) : State :=
  let s := { s0 with phys := { s0.phys with dram := s0.phys.dram.writeN 0x200000 (bytesOfWord w) } }
  let s := s.modSlice 3 fun y => { y with msgs := [aMessage .reply] }
  s.modVi 0 fun v => { v with tables := { v.tables with image := some (0x200000, 64) } }
def hretG5 : BitVec 128 := (encode (.hret 5)).getD 0

def activated (w : BitVec 128) : PipEnd :=
  let s := activating w
  let m := aMessage .reply
  let t0 := ({ s with fresh := s.fresh + 1 }).modSlice 3 fun y => { y with msgs := [] }
  (State.pipRun m 3 (s.vi 0).hbudget Pip.empty { t0.setHart (pipNum 3) (m.start (Config.freeWord s.fresh).toNat) with cur := pipNum 3 }).1

theorem witness_SliceHandlers : (((activating 0).slice 3).msgs.map fun m => (m.mode, m.quiet)) = [(.reply, false)] ∧
    ((activating 0).slice 3).reply.isNone = true ∧
    (match activated hretG5 with
      | .ret p v => p.onward.isNone && v == 0x200100
      | _ => false) = true ∧
    (match activated (BitVec.ofNat 128 0x3FF) with
      | .stop n => n == 4
      | _ => false) = true ∧
    (0x101#64).toNat % wBytes 3 ≠ 0 ∧ (Pip.empty.write 0x200100 none 8 5).isSome = true := by
  decide +kernel

/-- A reply at slice 3 for port 0x100, and one on its way to hart 0, whose window awaits it. -/
def replying (up : Bool) : State :=
  let r := fun (mode : MsgMode) => ({ msg := aMessage mode, slice := 67, status := 0, value := 5 } : Reply)
  let s := s0.modMe fun x => { x with windows := [{ pc := 0, left := 3, gw := [], vw := [], fl := 0, await := .message 6 }] }
  let s := s.modSlice 3 fun y => { y with reply := some (r .port) }
  { s with net := { s.net with replies := [r .reply], links := s.net.links.set 0 { up := up, half := false, routed := up } } }

theorem witness_Replies : ((replying true).slice 3).reply.isSome = true ∧ (replying true).acked = true ∧ (replying true).crossing (67 / 64) 0 = none ∧
    ((replying true).port 0 0 0x100).recs = [] ∧ (replying true).net.replies.length = 1 ∧
    (replying true).me.who.uid = (aMessage .reply).sendUid ∧ (replying true).me.core.st ≠ .free ∧
    (replying false).crossing (67 / 64) (dieOf 0) = some 0 ∧
    (after (exec (.handlerReplyPush 3) (replying true)) fun t => (t.port 0 0 0x100).recs.length) = some 1 ∧
    (after (exec (.msgReplyArrive 0 0 false) (replying true)) fun t => t.me.windows.map fun w => w.gw.map fun g => g.2.1) =
      some [[0, 5]] := by
  decide +kernel

/-! ## Witnesses: the agents of a die -/

/-- Die 0's distributor of VI 0, with these records in its port. -/
def posting (d : DistCtx) (port : Nat) (rs : List (BitVec 512)) : State :=
  (s0.setPort 0 0 port { recs := rs.map fun r => (r, false), closed := false }).setDist 0 0 d

def one64 : Nat := 0x3FF0000000000000
def setupRec (chunks : Nat) : BitVec 512 := recOf [1 + 2 ^ 16 + 2 ^ 32, 0x1000, chunks, 0x3F800000 * 2 ^ 32, 0, 0, one64, one64]

/-- A distributor with this setup, one pass that is not posted, and a fence that every pass has met. -/
def binning (stalled posted : Bool) : DistCtx :=
  let p : Pass := { tag := 3, tx := 1, ty := 2, chunks := [0x1000], entries := 1, flushed := false, posted := posted,
                    tickets := none, commits := 0 }
  let d := { DistCtx.reset with setup := distSetup (setupRec 2), stalled := stalled }
  { d with fences := [(0x200100, [])], passes := [p] }

theorem witness_DistributorRule : DistCtx.reset.busy = false ∧ (distSetup (setupRec 1)).isSome = true ∧
    (distSetup (setupRec 65536)).isSome = true ∧ (distSetup (setupRec 0)).isNone = true ∧
    ([setupRec 1, recOf [3], recOf [4, 0x200100], recOf [5], recOf [2], recOf [9]].map fun r => (recWord r 0).toNat % 256) =
      [1, 3, 4, 5, 2, 9] ∧
    [recOf [3], recOf [5]].all (fun r => r.toNat / 256 == 0) = true ∧ (recWord (recOf [4, 0x200100]) 1).toNat % 8 = 0 ∧
    (recOf [4, 0x200100]).toNat / 2 ^ 128 = 0 ∧ (recWord (recOf [2]) 1).getLsbD 31 = false ∧
    ((posting DistCtx.reset 0 [recOf [3]]).port 0 0 0).recs = [(recOf [3], false)] ∧ (posting DistCtx.reset 0 []).acked = true := by
  decide +kernel

theorem witness_DistributorPasses : (binning true false).freeChunks = [0x2000] ∧ (binning true false).setup.isSome = true ∧
    (binning true false).passes.any Pass.flushed = false ∧ (binning false false).passes.all Pass.posted = false ∧
    (((posting (binning false false) 5 []).dist 0 0).passes.find? fun p => p.tx == 1 && p.ty == 2).map Pass.posted = some false ∧
    ((posting (binning false false) 5 []).port 0 0 1).recs = [] ∧ recZero (recOf [3 + 7 * 2 ^ 32]) 1 = true ∧
    bitsOf (recWord (recOf [3 + 7 * 2 ^ 32]) 0) 31 24 = 0 ∧
    ((binning false true).passes.map fun p => (p.tag, p.posted, p.tickets)) = [(3, true, none)] := by
  decide +kernel

theorem test_events_of_distributors :
    (after (exec (.distributorSetup 0 0) (posting DistCtx.reset 0 [setupRec 1])) fun t =>
      (t.dist 0 0).setup.map fun u => (u.tw, u.base)) = some (some (1, 0x1000)) ∧
    (after (exec (.tilePost 0 0 1 2) (posting (binning false false) 5 [])) fun t =>
      (t.port 0 0 1).recs.map fun r => (recWord r.1 0, recWord r.1 1)) = some [(3 + 2 ^ 32 + 2 ^ 49, 0x1000)] ∧
    (after (exec (.passEnd 0 0) (posting (binning false true) 5 [recOf [3]])) fun t => (t.dist 0 0).passes.length) = some 0 := by
  decide +kernel

/-- The reprojection agent's setup: a history of width by 1 at 0x200000, the next one at 0x200020. -/
def reprRec (width : Nat) : BitVec 512 := recOf [2 ^ 24 + 10, 0x200000, 0x200020, width + 2 ^ 32, 0]

/-- A block request for ticket 0x30000, and a target at 0x200000 with no block there. -/
def blockRecs : List (BitVec 512) := [recOf [2 * 2 ^ 24 + 1, 0x30000, 0x200000], 0, 0, 0]

/-- Slice 3 holds ticket 0x30000, whose block is none; it lacks its shader part when rej is not 0. -/
def ticketed (rej : BitVec 16) (port : Nat) (rs : List (BitVec 512)) : State :=
  let t : Ticket := { vi := 0, ticket := 0x30000, block := none, fmt := false, rej := rej, agent := { mask := 0, op := 0, colours := [] },
                      shader := none }
  (posting DistCtx.reset port rs).modSlice 3 fun y => { y with blend := [t] }

theorem witness_ReprojectAndBlend : ((reprSetup (reprRec 1)).map fun u => u.width) = some 1 ∧
    (reprSetup (reprRec 65536)).isSome = true ∧ (reprSetup (reprRec 65537)).isNone = true ∧ recType (reprRec 1) = 1 ∧
    recType (recOf [2 * 2 ^ 24 + 1, 0x30000, 0x200000]) = 2 ∧ blockClean (recOf [2 * 2 ^ 24 + 1, 0x30000, 0x200000]) = true ∧
    (((posting DistCtx.reset 2 blockRecs).slice 0).blend.length, ((posting DistCtx.reset 2 blockRecs).port 0 0 3).recs.length) = (0, 0) ∧
    ((ticketed 1 4 []).ticketUnit 0 0x30000).map (fun e => (e.1, e.2.rej, e.2.shader.isNone)) = some (3, 1, true) ∧
    (((ticketed 0 4 []).slice 3).blend.find? fun t => t.vi == 0 && t.ticket == 0x30000).map Ticket.complete = some true ∧
    (0x30000#48).toNat % 65536 = (ticketed 0 4 []).seqDue 0 0x30000 := by
  decide +kernel

theorem witness_BlendRecord : let r := recOf [2 * 2 ^ 24 + 1, 0x30000, 0x200000]
    bitsOf (recWord r 0) 63 33 = 0 ∧ bitsOf (recWord r 1) 63 48 = 0 ∧ recZero r 3 = true ∧ bitsOf (recWord r 0) 23 16 = 0 ∧
    (recWord r 0).getLsbD 32 = false ∧ (recWord r 1).setWidth 48 = 0x30000#48 ∧
    ((ticketed 1 4 [r, 0]).port 0 0 4).recs = [(r, false), (0, false)] := by
  decide +kernel

theorem test_events_of_blending :
    (after (exec (.reprojectionSetup 0 0) (posting DistCtx.reset 2 [reprRec 1])) fun t => (t.die 0).repr.map fun e => e.2.next) =
      some [0x200020] ∧
    (after (exec (.ticketCommit 3 0 0x30000) (ticketed 0 4 [])) fun t => ((t.slice 3).blend.length, t.seqDue 0 0x30000)) =
      some (0, 1) := by
  decide +kernel

/-- Entry 2 of VI 0, staged or not, and a builder command of its own queue for it. -/
def builds (e : AsEntry) (ws : List Word) : State :=
  let s := s0.modVi 0 fun v => { v with tables := { v.tables with ases := [(2, e)] } }
  s.modDie 0 fun y => { y with builder := [(0, { cmds := [{ words := ws, seq := 0, space := s0.me.sys.space, hart := 0 }], seq := 1 })] }

def anEntry (staged live : Bool) : AsEntry :=
  let slots := (if live then [(0, aGeneration 0)] else []) ++ if staged then [(4, { aGeneration 0 with gen := 2 })] else []
  { AsEntry.none with v := true, hascur := live, cur := 1, nextgen := 2, slots := slots }

/-- OP op of entry 2, with USECUR or GEN, and COUNT, VSTRIDE. -/
def buildWords (op usecur gen count stride : Nat) : List Word :=
  [op + usecur * 2 ^ 9 + 2 * 2 ^ 16 + gen * 2 ^ 32, 0x200200, 0, 0, count + stride * 2 ^ 32, 0, 0, 0].map (BitVec.ofNat 64)

/-- The command of words ws is next, with these checks: no reserved bit, OP, the entry, its fields, a staged generation. -/
def nextFor (e : AsEntry) (ws : List Word) (op : Nat) : Option (List Bool) :=
  ((builds e ws).buildNext 0 0 0 fun n => n == op || (op == 6 && n == 9)).map fun c =>
    let x := ((builds e ws).vi 0).as c.as_
    [c.clean, decide (1 ≤ c.op ∧ c.op ≤ 6), x.v, c.fieldsOk x.kind, (tfind x.slots 4).isSome]

theorem witness_BuilderRule :
    [nextFor (anEntry false true) (buildWords 9 0 0 0 0) 6, nextFor AsEntry.none (buildWords 4 0 0 0 0) 4,
      nextFor (anEntry false true) (buildWords 4 0 1 0 0) 4, nextFor (anEntry true true) (buildWords 1 0 0 1 12) 1,
      nextFor (anEntry false true) (buildWords 1 0 0 1 12) 1, nextFor (anEntry false true) (buildWords 2 1 0 1 12) 2,
      nextFor (anEntry false true) (buildWords 3 0 7 0 0) 3, nextFor (anEntry true false) (buildWords 4 0 0 0 0) 4,
      nextFor (anEntry true true) (buildWords 5 0 2 0 0) 5, nextFor (anEntry false true) (buildWords 6 1 0 0 0) 6,
      nextFor (anEntry false true) (buildWords 4 0 0 0 0) 4, nextFor (anEntry false false) (buildWords 5 1 0 0 0) 5,
      nextFor (anEntry false true) (buildWords 5 0 7 0 0) 5, nextFor (anEntry false true) (buildWords 6 0 7 0 0) 6] =
    [some [true, false, true, true, false], some [true, true, false, true, false], some [true, true, true, false, false],
      some [true, true, true, true, true], some [true, true, true, true, false], some [true, true, true, true, false],
      some [true, true, true, true, false], some [true, true, true, true, true], some [true, true, true, true, true],
      some [true, true, true, true, false], some [true, true, true, true, false], some [true, true, true, true, false],
      some [true, true, true, true, false], some [true, true, true, true, false]] := by
  decide +kernel

theorem witness_BuilderSources :
    let c := fun (ws : List Word) => ({ words := ws, seq := 0, space := s0.me.sys.space, hart := 0 } : BuildCmd)
    ((anEntry false true).source (c (buildWords 3 1 0 0 0))).map Generation.gen = some 1 ∧
    ((anEntry false true).source (c (buildWords 3 0 7 0 0))).isNone = true ∧ ((anEntry false true).slotOf 1).isSome = true ∧
    ((anEntry false true).slotOf 7).isNone = true ∧ (anEntry false false).hascur = false ∧
    ((anEntry false true).source (c (buildWords 2 1 0 1 12))).map Generation.count = some 0 ∧
    ((anEntry false true).source (c (buildWords 6 0 7 0 0))).isNone = true ∧
    (List.range 4).any (fun j => (tfind (anEntry true false).slots j).isNone) = true ∧ tfind (anEntry true true).slots 1 = none ∧
    (tfind (anEntry true true).slots 4).map Generation.gen = some 2 ∧
    okAnd (State.gather (s0.builderWho 0 0 (c (buildWords 1 0 0 1 12))) (c (buildWords 1 0 0 1 12)) false [0] [] 0 s0).1
      (fun r => r.1.length == 0 && r.2 == 1) = true := by
  decide +kernel

theorem test_events_of_builders :
    (after (exec (.retire 0 0 0) (builds (anEntry false true) (buildWords 5 0 1 0 0))) fun t => ((t.vi 0).as 2).hascur) = some false := by
  decide +kernel

/-- Every core island of die 0 at its floor, but for the first, which is held low: hart 0 has kept two groups. -/
def floored : State :=
  let x := s0.me
  let s := s0.setMe { x with lanes := { x.lanes with grant := [(0, 0), (1, 0)], kept := true } }
  s.modDie 0 fun d => { d with islands := (List.range 32).map fun n => (n, { power := 0, fstep := if n = 0 then 3 else 0, reef := 1 }) }

/-- 64 readings of this many watts; a die 100 intervals over its cap at the floor; and a step that fails three times. -/
theorem witness_PowerAndReset : floored.heldLow 0 0 = true ∧
    ((List.range 32).all fun n => decide (((floored.die 0).island n).reef.toNat ≤ 1) &&
      (((floored.die 0).island n).fstep == 0 || floored.heldLow 0 n)) = true ∧ s0.heldLow 0 0 = false ∧ 4 < s0.capOf 0 ∧ s0.capOf 0 < 64 * 0xFFFF ∧
    (∃ n < 32, 1 < ((s0.die 0).island n).reef.toNat ∨ 0 < ((s0.die 0).island n).fstep.toNat) ∧
    100 ≤ ((s0.modDie 0 fun d => { d with overcap := 100 }).die 0).overcap ∧ s0.fw.boot.recovery = false ∧
    (s0.fw.boot.entry 1).2.2 = 0 ∧ (s0.fw.boot.entry 14).2.2 = 0 := by
  decide +kernel


/-! ## Witnesses: commands -/

/-- A command of queue 0 of VI 0, for VI 0 itself. -/
def asked (args : List Nat) : Cmd :=
  let a := fun (k : Nat) => BitVec.ofNat 64 (args.getD k 0)
  { vi := 0, cq := 0, tvi := 0, tag := 7, clean := true, a1 := a 0, a2 := a 1, a3 := a 2, a4 := a 3, a5 := a 4, a6 := a 5 }

/-- The header of an object with this word of classes and this many bytes of .bss. -/
def anObject (classes bss : Nat) : List Byte :=
  [0x32565952, 0x201, classes, 0, 0, 0, 0, bss].flatMap (leBytes 4) ++ List.replicate 32 0

/-- VI 0 with address spaces 0 and 5, DRAM below 16 MiB, device queue 7 in slot 1, code object 1 and key slot 4; VI 64 holds
key slot 5 and 2 MiB at 32 MiB. At 0x200200 stands an object, at 0x200800 a table of one region, at 0x200900
a command record. -/
def tenant : State :=
  let s := s0.modVi 0 fun v => { v with spaces := [(0, s0.me.sys.space), (5, s0.me.sys.space)] }
  let o : CodeObj := { nhandler := 1, nkernel := 0, remgen := 0, stepmask := 2, lifeclass := 0, textsize := 128, text := 0x200000,
                       handler := true }
  let s := s.modVi 0 fun v => { v with tables := { v.tables with slots := [(1, 7)], codes := [(1, o)] } }
  let f := { s.fw with keys := [(4, { vi := 0, bytes := [] }), (5, { vi := 64, bytes := [] })] }
  let f := { f with assigned := [(0, 2 ^ 24, 0), (2 ^ 25, 2 ^ 25 + 2 ^ 21, 64)] }
  let d := (s.phys.dram.writeN 0x200200 (anObject 0x200 0)).writeN 0x200800 (leBytes 4 0x80400000)
  let d := d.writeN 0x200900 (leBytes 8 (8 + 7 * 2 ^ 16))
  { s with fw := f, phys := { s.phys with dram := d }, queues := [(7, { DevQueue.reset with slot := 1, st := .active, asid := 3 })] }

/-- The state with that command first in its queue, and the status with which it completed. -/
def turnAt (begun : Bool) (s : State) (op : Nat) (args : List Nat) : State :=
  let q : QCmd := { cmd := some (op, asked args), tag := 7, status := 1, begun := begun, turn := 0 }
  s.modVi 0 fun v => { v with cmdqs := Vector.replicate 4 { CmdQueue.reset with todo := [q] } }
def turn := turnAt false
def status (o : Out) : Option Nat := (after o fun t => t.fw.lastDone.map fun d => d.2.2.2.1).join

theorem not_outrun (s : State) (os : List (Nat × Nat × Nat)) : s.outrun os 0 = false := by
  rw [← Bool.not_eq_true]
  intro h
  simp only [State.outrun, Bool.and_eq_true, List.any_eq_true] at h
  obtain ⟨_, v, _, q, _, x, _, hx, _⟩ := h
  simp at hx

theorem witness_Issued (b : Bool) (op : Nat) (args : List Nat) (k : CmdSort) : Issued (turnAt b tenant op args) op (asked args) k b := by
  have e : ∀ f, (tenant.modVi 0 f).vi 0 = f (tenant.vi 0) := fun f => rfl
  have h : ((turnAt b tenant op args).vi 0).exists_ = true ∧ ((turnAt b tenant op args).vi 0).active = true := by
    simp only [turnAt, e]; decide +kernel
  refine ⟨by simp [asked], by simp [asked], ⟨_, rfl, rfl, rfl, not_outrun _ _⟩, ?_, .inl rfl, .inr rfl, .inr ⟨h.2, .inr h.2⟩⟩
  simp [State.cmdNames, asked, isPf, h.1]

/-- A page of 4 KiB at 0x800000, a pin of VI 64 on DRAM page 0x400, and entries of the table pool in use. -/
def paged : State :=
  let ws := [(0x107020, 0x108003), (0x108000, 0x4001F1 + 2 ^ 50 + 2 ^ 51)]
  let d := ws.foldl (fun (d : Memory) (e : Nat × Nat) => Memory.writeN d e.1 (leBytes 8 e.2)) tenant.phys.dram
  { tenant with phys := { tenant.phys with dram := d } }
def pinnedPage (s : State) : State := { s with phys := { s.phys with pins := [(0x8000, { vi := 64, count := 1 })] } }
def pooled : State := tenant.modVi 0 fun v => { v with poolUsed := [(3, none)] }

/-- Word 3 of Table 14.2 for 2 MiB at 4 MiB. -/
def aLeaf : Nat := 0x4001F1 + 2 ^ 50 + 2 ^ 51

theorem witness_CommandsOnSpaces : [status (exec (.createAs (asked [0x1000, 0x300, 3])) (turn tenant 3 [0x1000, 0x300, 3])),
      status (exec (.createAs (asked [0x300, 0x300, 0])) (turn tenant 3 [0x300, 0x300, 0])),
      status (exec (.createAs (asked [0x300, 0xFFF, 0xFFFF])) (turn tenant 3 [0x300, 0xFFF, 0xFFFF])),
      status (exec (.destroyAs (asked [0, 0, 9])) (turn tenant 4 [0, 0, 9])),
      status (exec (.destroyAs (asked [0, 0, 5])) (turn tenant 4 [0, 0, 5])),
      status (exec (.setPool (asked [0x400000, 0x200000])) (turn tenant 33 [0x400000, 0x200000])),
      status (exec (.setPool (asked [0x1000])) (turn tenant 33 [0x1000])),
      status (exec (.setPool (asked [0x400000, 0x200000])) (turn pooled 33 [0x400000, 0x200000]))] =
    [some 2, some 5, some 0, some 2, some 0, some 0, some 2, some 5] ∧ tenant.spaceUsed 0 0 = true := by
  decide +kernel

theorem witness_MapAndUnmap : [status (exec (.map (asked [0x400000, 1, aLeaf, 0, 0, 1])) (turn tenant 5 [0x400000, 1, aLeaf, 0, 0, 1])),
      status (exec (.map (asked [0x400000, 1, aLeaf, 0, 0, 3])) (turn tenant 5 [0x400000, 1, aLeaf, 0, 0, 3])),
      status (exec (.map (asked [0x400000, 1, aLeaf + 2 ^ 53 + 5 * 2 ^ 54, 0, 0, 1]))
        (turn tenant 5 [0x400000, 1, aLeaf + 2 ^ 53 + 5 * 2 ^ 54, 0, 0, 1])),
      status (exec (.map (asked [0x40000000, 1, aLeaf, 0, 0, 1])) (turn tenant 5 [0x40000000, 1, aLeaf, 0, 0, 1])),
      status (exec (.map (asked [0x400000, 1, aLeaf, 0, 0, 1])) (turn (pinnedPage tenant) 5 [0x400000, 1, aLeaf, 0, 0, 1])),
      status (exec (.unmap (asked [0x200000, 1, 0, 0, 0, 1])) (turn tenant 6 [0x200000, 1, 0, 0, 0, 1])),
      status (exec (.unmap (asked [0x400000, 1, 0, 0, 0, 1])) (turn tenant 6 [0x400000, 1, 0, 0, 0, 1])),
      status (exec (.unmap (asked [0x400000, 1, 0, 0, 0, 3])) (turn tenant 6 [0x400000, 1, 0, 0, 0, 3]))] =
    [some 0, some 2, some 13, some 16, some 6, some 0, some 0, some 2] := by
  decide +kernel

/-- An atomic of another hart on its way, whose translation came from the page table entry at at_ when that was 1. -/
def stalled (s : State) (base at_ : Nat) : State :=
  let e : TlbEntry := { vi := 0, asid := 0, glob := false, inst := false, base := base, pages := 1, at_ := at_, leaf := 1 }
  { s with net := { s.net with atms := onWay.net.atms.map fun q => { q with id := 0, uid := 9, xl := { q.xl with entry := e } } } }

/-- MAP, UNMAP and MIGRATE wait until nothing holds what they changed, before they begin and after. -/
theorem witness_HeldMap : let i := Instr.map (asked [0x200000, 1, aLeaf, 0, 0, 1])
    status (exec i (turnAt false (stalled tenant 0x200 0x107008) 5 [0x200000, 1, aLeaf, 0, 0, 1])) = none ∧
    status (exec i (turnAt true (stalled tenant 0x200 0x107008) 5 [0x200000, 1, aLeaf, 0, 0, 1])) = none ∧
    status (exec i (turnAt true tenant 5 [0x200000, 1, aLeaf, 0, 0, 1])) = some 0 := by
  decide +kernel

theorem witness_HeldUnmap : let i := Instr.unmap (asked [0x200000, 1, 0, 0, 0, 1])
    status (exec i (turnAt false (stalled tenant 0x200 0x107008) 6 [0x200000, 1, 0, 0, 0, 1])) = none ∧
    status (exec i (turnAt true (stalled tenant 0x200 0x107008) 6 [0x200000, 1, 0, 0, 0, 1])) = none ∧
    status (exec i (turnAt true tenant 6 [0x200000, 1, 0, 0, 0, 1])) = some 0 := by
  decide +kernel

theorem witness_HeldMigrate : let i := Instr.migrate (asked [0x800000, 0x500])
    status (exec i (turnAt true (stalled paged 0x800 0x108000) 7 [0x800000, 0x500])) = none ∧
    status (exec i (turnAt true paged 7 [0x800000, 0x500])) = some 0 := by
  decide +kernel

theorem witness_Migrate : let w := State.walk paged (paged.whoVi 0 0) false 0x800000 false
    let at_ := 0x108000
    w.1 = .leaf 0 at_ (0x4001F1 + 2 ^ 50 + 2 ^ 51) ∧ canonical 0x800000 = true ∧ isMemory (leafPage 0x800000 0 (0x4001F1 + 2 ^ 50 + 2 ^ 51) * 4096) = true ∧
    isMemory 0x500000 = true ∧ paged.leafOk 0 false 0 0x800000 ((0x4001F1 + 2 ^ 50 + 2 ^ 51) % 1024 + 0x500000 + (0x4001F1 + 2 ^ 50 + 2 ^ 51) / 2 ^ 48 * 2 ^ 48) = true ∧
    (State.ownEntry 0 0 0x800000 0 at_ (0x4001F1 + 2 ^ 50 + 2 ^ 51) paged).map Prod.fst = some at_ ∧
    [status (exec (.migrate (asked [0x800000, 0x500])) (turn (pinnedPage paged) 7 [0x800000, 0x500])),
      status (exec (.migrate (asked [0x200000, 0x500])) (turn paged 7 [0x200000, 0x500]))] = [some 6, some 16] := by
  decide +kernel

theorem witness_LoadCode : [status (exec (.loadCode (asked [0x200200, 64, 2, 0x800000])) (turn tenant 8 [0x200200, 64, 2, 0x800000])),
      status (exec (.loadCode (asked [0x200200, 64, 1, 0x800000])) (turn tenant 8 [0x200200, 64, 1, 0x800000]))] =
    [some 0, some 5] := by
  decide +kernel

/-- Objects that are bad, that may not run, and that need a page more than the empty pool has. -/
theorem witness_Objects : objOk .b0 (List.replicate 64 0) = false ∧ objOk .b0 (anObject 0x202 0) = true ∧
    objLives (anObject 0x202 0) = false ∧ objOk .b0 (anObject 0x200 16) = true ∧ objLives (anObject 0x200 16) = true ∧
    objField (anObject 0x200 16) 0x1C = 16 ∧ rangeOk 0 1 0x1000 = true ∧ tenant.unmapped 0 0 false 0 0 1 = true ∧
    (State.placeSection 0 0 false 0 codeLeaf 0 [] 1 tenant).isNone = true := by
  decide +kernel

/-- VI 0 maps nothing, and its table pool is so long. -/
def spaceless (pool : Nat) : State := tenant.modVi 0 fun v => { v with spaces := [], poolBase := 0x200000, poolLen := pool }

theorem witness_AssignMem : [status (exec (.assignMem (asked [0x1000000, 0x200000])) (turn tenant 32 [0x1000000, 0x200000])),
      status (exec (.assignMem (asked [0x1000])) (turn tenant 32 [0x1000])),
      status (exec (.assignMem (asked [0x2000000, 0x200000])) (turn tenant 32 [0x2000000, 0x200000])),
      status (exec (.assignMem (asked [0x400000, 0x200000, 1])) (turn (pinnedPage tenant) 32 [0x400000, 0x200000, 1])),
      status (exec (.assignMem (asked [0x200000, 0x200000, 1])) (turn (spaceless 0x200000) 32 [0x200000, 0x200000, 1])),
      status (exec (.assignMem (asked [0x800000, 0x200000, 1])) (turn (spaceless 0) 32 [0x800000, 0x200000, 1]))] =
    [some 0, some 2, some 5, some 6, some 5, some 0] := by
  decide +kernel

/-- Changes to VI 0 and its queue that its commands meet. -/
def dying : State := { tenant with queues := [(7, { tenant.queue 7 with dying := true })] }
def templated : State :=
  let l : Launch := { index := 0, words := [2 ^ 50 + 3 * 2 ^ 40], st := .pending, placed := 0, cut := 4, retired := 0 }
  { tenant with queues := [(7, { tenant.queue 7 with table := [l] })] }
def exhausted : State := tenant.modVi 0 fun v => { v with serialnext := BitVec.allOnes 24 }
def structured : State := tenant.modVi 0 fun v => { v with tables := { v.tables with ases := [(2, { AsEntry.none with v := true })] } }

theorem witness_CommandsOnTables :
    [status (exec (.createQueue (asked [2, 0x200004, 2 ^ 24 + 2 ^ 32])) (turn tenant 9 [2, 0x200004, 2 ^ 24 + 2 ^ 32])),
      status (exec (.createQueue (asked [1, 0x200004, 2 ^ 24 + 2 ^ 32])) (turn tenant 9 [1, 0x200004, 2 ^ 24 + 2 ^ 32])),
      status (exec (.destroyQueue (asked [9])) (turn tenant 10 [9])), status (exec (.destroyQueue (asked [1])) (turn tenant 10 [1])),
      status (exec (.destroyQueue (asked [1])) (turn dying 10 [1])), status (exec (.setKey (asked [5, 0x200100])) (turn tenant 11 [5, 0x200100])),
      status (exec (.clearKey (asked [4])) (turn tenant 12 [4])),
      status (exec (.clearKey (asked [5])) (turn tenant 12 [5])), status (exec (.clearKey (asked [1023])) (turn tenant 12 [1023]))] =
    [some 0, some 5, some 2, some 0, none, some 5, some 0, some 13, some 13] := by
  decide +kernel

theorem witness_Keys : status (exec (.setKey (asked [4, 0x200100])) (turn tenant 11 [4, 0x200100])) = some 0 := by
  decide +kernel

theorem witness_Templates : status (exec (.createGroupTemplate (asked [255, 0x200100])) (turn tenant 15 [255, 0x200100])) = some 0 ∧
    status (exec (.createGroupTemplate (asked [3, 0x200100])) (turn templated 15 [3, 0x200100])) = some 5 ∧
    [0#64, 0x10000000001, 0x20000000100, 0x30000000000].map tmplOk = [true, true, true, true] ∧
    [1#64, 0x10000000000, 0x20000000101, 0x30000000001].map tmplOk = [false, false, false, false] := by
  decide +kernel

theorem witness_Shares :
    [status (exec (.setShare (asked [2 ^ 63 + 2 ^ 62 + 0xFF00])) (turn tenant 13 [2 ^ 63 + 2 ^ 62 + 0xFF00])),
      status (exec (.setShare (asked [2 ^ 63 + 2 ^ 61])) (turn tenant 13 [2 ^ 63 + 2 ^ 61])),
      status (exec (.setShare (asked [2 ^ 63])) (turn begun 13 [2 ^ 63])),
      status (exec (.createCap (asked [0xFF0F])) (turn tenant 16 [0xFF0F])), status (exec (.createCap (asked [16])) (turn tenant 16 [16])),
      status (exec (.createCap (asked [])) (turn exhausted 16 [])), status (exec (.createCap (asked [0, 1])) (turn tenant 16 [0, 1])),
      status (exec (.createAstruct (asked [4095, 1, 0x200100, 1])) (turn tenant 17 [4095, 1, 0x200100, 1])),
      status (exec (.createAstruct (asked [2, 0, 0x200100, 1])) (turn structured 17 [2, 0, 0x200100, 1]))] =
    [some 0, some 2, none, some 0, some 2, some 11, some 0, some 0, some 5] := by
  decide +kernel

/-- VI 64's handlers use the first region, and slice 3 holds a message of VI 0. -/
def sharing : State := tenant.modVi 64 fun v => { v with tables := { v.tables with regions := [(0, { len := 64, base := 0 })] } }
def activations : State := tenant.modSlice 3 fun y => { y with msgs := [aMessage .reply] }
def trapping : State := tenant.modVi 0 fun v => { v with trap := { v.trap with used := [0] } }

theorem witness_LimitsOfTables :
    [status (exec (.setRdc (asked [255, 8])) (turn tenant 18 [255, 8])), status (exec (.setRdc (asked [255, 9])) (turn tenant 18 [255, 9])),
      status (exec (.pinQuota (asked [5])) (turn tenant 19 [5])), status (exec (.pinQuota (asked [])) (turn tenant 19 [])),
      status (exec (.setBudget (asked [1])) (turn tenant 21 [1])), status (exec (.setBudget (asked [1024])) (turn tenant 21 [1024])),
      status (exec (.setBudget (asked [])) (turn tenant 21 [])), status (exec (.setBudget (asked [1025])) (turn tenant 21 [1025])),
      status (exec (.setQmap (asked [15])) (turn tenant 30 [15])), status (exec (.setQmap (asked [16])) (turn tenant 30 [16])),
      status (exec (.setTrap (asked [0x200010])) (turn tenant 31 [0x200010])), status (exec (.setTrap (asked [1])) (turn tenant 31 [1])),
      status (exec (.setTrap (asked [0x200010])) (turn trapping 31 [0x200010]))] =
    [some 0, some 2, some 0, some 0, some 0, some 0, some 2, some 2, some 0, some 2, some 0, some 2, some 5] := by
  decide +kernel

theorem witness_InstallHandlers : ((tenant.vi 0).tables.codes.map fun o => (o.1, o.2.handler)) = [(1, true)] ∧
    (tenant.bufRead 0 0x200800 4).1 = some (leBytes 4 0x80400000) ∧ regionOk 0x80400000 = true ∧ regionOk 0 = true ∧
    (regionOf 0x80400000).map (fun r => (r.len, r.base)) = some (64, 0) ∧
    (Region.meets { len := 64, base := 0 } { len := 64, base := 0 }) = true ∧
    (sharing.vis.any fun w => w.1 != 0 && !w.2.tables.regions.isEmpty) = true ∧
    (activations.slices.any fun k => k.2.msgs.any fun m => m.vi == 0) = true := by
  decide +kernel

/-- VI 0 is traced; hart 0, of VI 1, copies; and a command of VI 1's own queue. -/
def traced : State := tenant.modVi 0 fun v =>
  { v with trace := some { owner := 0, buf := 0x200100, logb := 12, cores := [], kinds := 0, period := 1, widx := 0 } }
def foreign : State :=
  (begun.modVi 1 fun _ => Vi.created 0).modHart 0 fun x => { x with who := { x.who with vi := 1 } }
def ofVi1 (c : Cmd) : Cmd := { c with vi := 1, tvi := 1 }

theorem witness_CommandsOnModule :
    [status (exec (.setPowerCap (asked [600])) (turn tenant 14 [600])), status (exec (.setPowerCap (asked [2100, 1])) (turn tenant 14 [2100, 1])),
      status (exec (.setPowerCap (asked [599])) (turn tenant 14 [599])), status (exec (.setPowerCap (asked [2101])) (turn tenant 14 [2101])),
      status (exec (.resetVi (asked [])) (turn tenant 22 [])), status (exec (.resetVi (asked [])) (turn begun 22 [])),
      status (exec (.traceStart (asked [0x200100, 11])) (turn tenant 24 [0x200100, 11])),
      status (exec (.traceStart (asked [0x200100, 12, 0, 0, 1])) (turn traced 24 [0x200100, 12, 0, 0, 1])),
      status (exec (.traceStop (asked [])) (turn traced 25 []))] =
    [some 0, some 0, some 2, some 2, some 0, none, some 2, some 5, some 0] := by
  decide +kernel

theorem witness_BootAndDebug :
    [status (exec (.bootRecord (asked [0x200100, 1])) (turn tenant 27 [0x200100, 1])),
      status (exec (.bootRecord (asked [0x200100, 2])) (turn tenant 27 [0x200100, 2])), status (exec (.bootRecord (asked [])) (turn tenant 27 [])),
      status (exec (.sheetConfig (asked [64])) (turn tenant 26 [64])),
      status (exec (.debug (asked [8191, 3])) (turn tenant 28 [8191, 3])), status (exec (.debug (asked [8192])) (turn tenant 28 [8192])),
      status (exec (.readErrors (asked [0x200100, 4])) (turn tenant 29 [0x200100, 4])),
      status (exec (.readErrors (asked [0x200100, 2, 8])) (turn tenant 29 [0x200100, 2, 8]))] =
    [some 0, some 2, some 3, some 2, some 0, some 2, some 2, some 2] := by
  decide +kernel

/-- A core mask is read, and a trace begins: the memory holds no more than the tables. -/
theorem witness_Masks : let s := s0.modVi 0 fun v => { v with spaces := [(0, s0.me.sys.space)] }
    (s.bufRead 0 0x200100 128).1.isSome = true := by
  decide +kernel

theorem witness_Buffers : (tenant.bufWrite 0 0x200100 (leBytes 8 0)).isSome = true ∧ (tenant.bufWrite 0 0x200100 [1, 2]).isSome = true ∧
    (tenant.bufWrite 0 0 [1, 2]).isNone = true ∧ (ofVi1 (asked [])).vi % 64 ≠ 0 ∧
    (foreign.vi 1).exists_ = true ∧ foreign.canStop 1 = false ∧ (s0.vi 1).exists_ = false ∧ s0.fw.ready = true ∧
    (foreign.vi 0).exists_ = true ∧ ((tenant.modVi 1 fun _ => Vi.created 0).canStop 1) = true := by
  decide +kernel

theorem test_events_of_functions :
    (after (exec (.vfEnable 0 63) s0) fun t => (t.vi 63).exists_) = some true ∧
    (after (exec (.vfDisable 0 1) foreign) fun t => ((t.vi 1).exists_, (t.vi 1).active)) = some (true, false) ∧
    (after (exec (.vfDisable 0 1) (tenant.modVi 1 fun _ => Vi.created 0)) fun t => (t.vi 1).exists_) = some false := by
  decide +kernel

/-- Command queue 0 of VI 0 has a ring of 16 records, the first of them at 0x200900; and a module in recovery mode. -/
def ringing (s : State) : State := s.modVi 0 fun v => { v with cmdqs := Vector.replicate 4 { CmdQueue.reset with base := 0x200904 } }
def recovering (s : State) : State := { s with fw := { s.fw with boot := { s.fw.boot with recovery := true } } }
def unnamed : State :=
  tenant.modVi 0 fun v => { v with cmdqs := Vector.replicate 4 { CmdQueue.reset with todo := [{ cmd := none, tag := 7, status := 1, begun := false, turn := 0 }] } }
def inactive : State := tenant.modVi 0 fun v => { v with active := false }

/-- A command that sets a reserved bit; one for VI 64 from VI 0; and VI 1's own SET_SHARE. -/
def turnOf (s : State) (op : Nat) (c : Cmd) : State :=
  s.modVi c.vi fun v => { v with cmdqs := Vector.replicate 4 { CmdQueue.reset with todo := [{ cmd := some (op, c), tag := 7, status := 1, begun := false, turn := 0 }] } }

theorem witness_CommandQueueRule : let s := ringing tenant
    let q := (s.vi 0).cmdq 0
    s.queueOpen 0 0 = true ∧ q.ready = true ∧ (0#32).slt (1 - q.tail) = true ∧ q.head = q.tail ∧
    (0#32).slt (0x80000000 - q.tail) = false ∧ s.queueOpen 1 0 = false ∧ ((tenant.vi 0).cmdq 0).ready = false ∧
    (s.vi 0).exists_ = true ∧ q.recordAt 0 = 0x200900 ∧
    ((unnamed.vi 0).cmdq 0).todo.map (fun x => x.cmd.isNone) = [true] ∧
    (after (exec (.commandDoorbell 0 0 1) s) fun t => ((t.vi 0).cmdq 0).todo.map fun x => (x.tag, x.cmd.map Prod.fst)) =
      some [(7, some 8)] := by
  decide +kernel

theorem witness_Refusals : [status (exec (.createCap { asked [] with clean := false }) (turnOf tenant 16 { asked [] with clean := false })),
      status (exec (.createCap { asked [] with tvi := 64 }) (turnOf tenant 16 { asked [] with tvi := 64 })),
      status (exec (.createCap (asked [])) (recovering (turn tenant 16 []))),
      status (exec (.bootRecord (asked [])) (recovering (turn tenant 27 []))),
      status (exec (.setShare (ofVi1 (asked []))) (turnOf foreign 13 (ofVi1 (asked [])))),
      status (exec (.createCap (asked [])) (turn inactive 16 [])), status (exec (.createCap (asked [])) (turn tenant 17 []))] =
    [some 1, some 1, some 14, some 3, some 4, none, none] := by
  decide +kernel

theorem witness_Ownership : BitVec.ofNat 4 8 ≠ (tenant.die 0).rdcways ∧ tenant.copyUses 0 0 = false ∧
    (tget Owner.reset ((lane0 tenant).core 0).owners 0).v = true ∧ (tget Owner.reset ((lane0 tenant).core 0).owners 0).vi = 0 ∧
    (after (exec (.ownershipWrite 0 0 .firmware 0x301) tenant) fun t => (tget Owner.reset (t.core 0).owners 0).vi) = some 1 ∧
    (after (exec (.ownershipWrite 0 0 (.super 0) 0x301) (lane0 tenant)) fun t => (tget Owner.reset (t.core 0).owners 0).exp) = some true ∧
    (after (exec (.rdcwaysWrite 0 8) tenant) fun t => (t.die 0).rdcways) = some 8 := by
  decide +kernel

/-! ## Witnesses: steps -/

/-- Hart 0 right before this word, and the same hart with these registers. -/
def word (imm low : BitVec 64) : BitVec 128 := imm ++ low
def prog (w : BitVec 128) : State := State.reset.withFetchWord 128 w.toNat
def atPc (s : State) (pc : Word) : State := s.modMe fun x => { x with core := { x.core with pc := pc } }

/-- Nothing is due before the current hart's turn; the word that comes next, with whether the hart can issue. -/
def turnReady (s : State) : Bool :=
  s.agenda.isEmpty && s.me.core.st == s.me.runSt && s.me.core.st != .free && !isFirmwareHart s.cur && !s.me.served &&
    (s.before s.cur).isNone && s.me.gang.isNone && s.me.irq.split.isNone
def fetched (s : State) : Option (BitVec 128 × Bool) := match s.nextWord with
  | (some (.ok w), u) => some (w, u.me.counting.isSome)
  | _ => none

/-- The state in which the instruction at the pc issues. -/
def issuing (s : State) : State := let u := s.nextWord.2
  u.setMe (u.me.counting.getD u.me)

def addiWord : BitVec 128 := word 0xFFFFFFFFFFFFFFFD 0x0000000000614004
def ldWord : BitVec 128 := word 0x10 0x0008010000E500C2
def vaddWord : BitVec 128 := word 0 0x000000C918510140

/-- A hart whose window ends here and awaits an answer; one whose window ends here with an error for g0; and one with an acquire
on its way. -/
def windowAt (left : Nat) (acq : Bool) (s : State) : State := s.modMe fun x =>
  { x with windows := [{ pc := 0x500, left := left, gw := [], vw := [], fl := 0, await := .atomic [6], acq := acq }] }
def awaited : State := windowAt 0 false (prog addiWord)
def failed : State := (prog addiWord).modMe fun x =>
  { x with windows := [{ pc := 0x500, left := 0, gw := [(0, 0, some { cause := .dataEcc, addr := 0x500 })], vw := [], fl := 0, await := .nothing }] }
def acquiring : State := windowAt 3 true (prog ldWord)
def holds (w : BitVec 128) (s : State) : Bool := match decode w with
  | .ok i => s.atomicHolds i (classOf w)
  | _ => false

/-- Hart 1 of the core has a strip of a higher priority ready. -/
def contested : State :=
  let s := prog vaddWord
  s.setHart 1 { s.me with who := { s.me.who with prio := 7, queue := 9 }, fetched := [(s.me.core.pc, vaddWord)] }

theorem witness_StepRunsDecoded :
    [prog addiWord, atPc (prog addiWord) 0x200008, atPc (prog addiWord) 0x40000000, awaited, failed, acquiring, prog vaddWord,
      contested].map turnReady = List.replicate 8 true ∧
    fetched (prog addiWord) = some (addiWord, true) ∧ fetched (prog (word 0 0xA0)) = some (0xA0, true) ∧
    fetched (prog (word 0 0x100340)) = some (0x100340, true) ∧ fetched (atPc (prog addiWord) 0x40000000) = none ∧
    fetched awaited = some (addiWord, false) ∧ (0x200008#64).toNat % 16 ≠ 0 ∧ (prog addiWord).me.fetched = [] ∧
    (match (prog addiWord).fetch 0 0x200000 with
      | (.ok (w :: _), u) => w == addiWord && u.me.core.pc == 0x200000 && u.me.ahead.isEmpty && decide (0 < u.viqRoom 0)
      | _ => false) = true ∧
    ((hartsOf 0).all fun k => k == 0 || !(prog addiWord).fetches k) = true := by
  decide +kernel

theorem witness_StepIssues : fetched failed = some (addiWord, true) ∧ (issuing failed).me.dueError.isSome = true ∧
    (issuing (prog addiWord)).me.dueError = none ∧ holds addiWord (issuing (prog addiWord)) = false ∧
    viqClass (classOf addiWord) = false ∧ fetched acquiring = some (ldWord, true) ∧ (issuing acquiring).me.dueError = none ∧
    holds ldWord (issuing acquiring) = true := by
  decide +kernel

theorem witness_StripIssues : let i := Instr.vadd 4 5 (.vec 6) (.off 9)
    decode vaddWord = .ok i ∧ viqClass (classOf vaddWord) = true ∧ (issuing (prog vaddWord)).me.dueError = none ∧
    (issuing contested).me.dueError = none ∧
    (match (issuing (prog vaddWord)).measured i with
      | (n, .next _) => n != 0 && ((issuing (prog vaddWord)).grant 0 n).isSome
      | _ => false) = true ∧
    (match (issuing contested).measured i with
      | (n, .next _) => n != 0 && ((issuing contested).grant 0 n).isNone
      | _ => false) = true := by
  decide +kernel

theorem test_step_traps : [after (step (atPc (prog 0) 0x200008)) (fun t => t.me.core.mode != .u),
      after (step (atPc (prog 0) 0x40000000)) (fun t => t.me.core.mode != .u),
      after (step (prog (word 0 0xA0))) (fun t => t.me.core.mode != .u)] = [some true, some true, some true] := by
  decide +kernel

theorem test_step_runs : (after (step (prog (word 0xFFFFFFFFFFFFFFFD 0x0000000000614004))) fun t => (t.me.readG 5, t.me.core.pc)) =
      some (-3, 0x200010) ∧
    (after (step awaited) fun t => t.me.core.pc) = some 0x200000 ∧
    (after (step { prog (word 5 0x0000000000614004) with agenda := [.turn 0] }) fun t => (t.me.readG 5, t.agenda.length)) = some (5, 0) ∧
    (after (step { prog 0 with agenda := [.ev (.vfEnable 0 5)] }) fun t => ((t.vi 5).exists_, t.me.core.pc)) = some (true, 0x200000) := by
  decide +kernel

theorem witness_LifetimeClasses : encode (.bmsk 4 6 .none) ≠ none ∧ encode (.mmaS48 false 4 8 0 0 0 0) ≠ none ∧
    { prog 0 with stepping := .a0 }.stepping = .a0 := by
  decide +kernel

theorem witness_ControlRegisterNumbers : (word 9 0x340).extractLsb' 0 10 = 0x340 ∧ ((word 9 0x340).extractLsb' 64 12).toNat = 9 ∧
    decode (word 9 0x340) = .reserved ∧ decode (word 0x0A0 0x341) = .reserved ∧ decode (word 8 0x340) = .ok (.crr 0 8) := by
  decide +kernel

/-- A state whose memories list nothing is in canonical form, and its step has a next state. -/
theorem witness_MemoryCanonicalKept : Canonical State.reset ∧ (after (step State.reset) fun t => t.cur).isSome = true := by
  refine ⟨?_, by decide +kernel⟩
  constructor <;> decide +kernel

/-! ## Decoding: the words of the spec's own examples, and fields out of their limits -/

theorem witness_DecodeEncodeAgree : Instr.wf (.addi 5 6 (-3)) = true ∧
    encode (.addi 5 6 (-3)) = some (word 0xFFFFFFFFFFFFFFFD 0x0000000000614004) := by
  decide +kernel

/-- spec/02_encoding.md R57, spec/05_scalar_isa.md R77-R119. -/
theorem test_decode_scalar : decode (word 0 0x0000000000000080) = .ok (.jmp 0) ∧
    decode (word 0xFFFFFFFFFFFFFFD0 0x0000020010300082) = .ok (.br .lt 3 4 0xFFFFFFFFFFFFFFD0) ∧
    decode (word 0 0x000000002CA24C09) = .ok (.div 9 10 11 3) ∧ decode (word 2 0x0000000000500089) = .ok (.loop 5 2) ∧
    decode (word 0 0x000812000061404C) = .ok (.fcvti .s .rtz .s32 5 6) := by
  decide +kernel

/-- spec/06_vector_isa.md. -/
theorem test_decode_vector : decode (word 0 0x000000C918510140) = .ok (.vadd 4 5 (.vec 6) (.off 9)) ∧
    decode (word 2 0x0002000000614100) = .ok (.setvl true 5 6 .e32 0) ∧
    decode (word 0x30 0x0000020000920101) = .ok (.vcfg 2 8 9 0 3 0 0) ∧
    decode (word 0 0x0000004400000102) = .ok (.vmpush 4 false) ∧
    decode (word 0x3F800000 0x0018020001B1018C) = .ok (.vfcmp .s .lt 4 27 (.imm 0x3F800000) .none) := by
  decide +kernel

/-- spec/07_matrix_isa.md and spec/10_memory_isa.md. -/
theorem test_decode_memory : decode (word 1 0x0000000000504244) = .ok (.mma .h false 1 5 0 1 0 0) ∧
    decode (word 0x4000 0x0080020038D04241) = .ok (.mldT .s 1 13 14 true 0x4000 0) ∧
    decode (word 0x4000 0x008C000000604243) = .ok (.mldW 1 3 .dense false 6 0 true 0x4000 0) ∧
    decode (word 0x10 0x0008010000E500C2) = .ok (.ldAcq 2 false 1 20 14 0 0x10 0) ∧
    decode (word 0 0x000C010001B740C3) = .ok (.stRel 3 1 29 27 0 0 0) ∧
    decode (word 0x40 0x00AD00001C6140C4) = .ok (.amo .add 3 true 5 6 7 2 false true 0x40 0) := by
  decide +kernel

theorem test_decode_spaces : decode (word 0 0x000000000224020C) = .ok (.vstP 16 34 0 0 .none 0) ∧
    decode (word 0x4000 0x0000000000A20206) = .ok (.vldL 8 10 0 0x4000 .none 0) ∧
    decode (word 0 0x002100001461020D) = .ok (.vamo .add true 4 6 5 .e32 0 false false .none 0) ∧
    decode (word 0x100 0x0008000000600680) = .ok (.cpStart 2 6 false 0x100 1) ∧
    decode (word 0 0x000000000001C281) = .ok (.cpSeal 7 0) := by
  decide +kernel

/-- spec/09_sync_scopes.md, spec/11_queues_scheduling.md, spec/12_engines_handlers.md, spec/13_raster_shading.md and
spec/16_rays.md. -/
theorem test_decode_system : decode (word 0 0x00000D0000000300) = .ok (.fence 3 1) ∧
    decode (word 0x10 0x000802005CE50301) = .ok (.wait .reached 2 20 14 23 0 false 0x10) ∧
    decode (word 3 0x0014000000A00285) = .ok (.qPush 5 10 3 0) ∧ decode (word 0 0x0014000000700287) = .ok (.qNotify .tail 5 7 0) ∧
    decode (word 0 0x0000010C28950A89) = .ok (.msgSend .reply 20 9 10 12 0 2) ∧ decode (word 0 0x345) = .ok .sret ∧
    decode (word 0 0x347) = .ok .wfi := by
  decide +kernel

theorem test_decode_graphics : decode (word 0 0x000000002CA142C0) = .ok (.rastSetup 0 5 10 11) ∧
    decode (word 0 0x0000000000A246CA) = .ok (.bldCmd 9 10 1) ∧
    decode (word 0 0x000400001C614AC5) = .ok (.rqInit true 5 6 7 .none 2) ∧
    decode (word 0 0x0000004330C602C3) = .ok (.vsample 24 12 12 (.on 3) 0) := by
  decide +kernel

/-- Each check of WellFormed.lean refuses an ill-formed term. -/
theorem test_wf_scalar : [Instr.wf (.sext 1 2 0), Instr.wf (.sext 1 2 65), Instr.wf (.zext 1 2 0), Instr.wf (.bfx .s 1 2 0 0),
      Instr.wf (.bfx .s 1 2 60 5), Instr.wf (.bfi 1 2 0 0), Instr.wf (.bfi 1 2 63 2), Instr.wf (.loop 1 0), Instr.wf (.loop 1 9),
      Instr.wf (.amo .add 1 true 5 6 7 2 false true 0 0), Instr.wf (.amo .fadd 3 true 5 6 7 2 false true 0 0),
      Instr.wf (.cas 1 5 6 7 8 0 false false 0 0), Instr.wf (.crr 1 0x009), Instr.wf (.crw 1 2 0x00B), Instr.wf (.crset 1 2 0x053),
      Instr.wf (.crclr 1 2 0x0A0), Instr.wf (.icinv true 3 0)] = List.replicate 17 false := by
  decide +kernel

theorem test_wf_vector : [Instr.wf (.vcfg 8 1 2 0 0 0 5), Instr.wf (.vcfg 1 1 2 4 0 0 0), Instr.wf (.vcfg 0 1 2 0 1 0 0),
      Instr.wf (.vbfly .s .rne 4 5 3 .none), Instr.wf (.mldW 0 0 .c24 true 6 0 false 0 0), Instr.wf (.mma .q8 false 1 5 0 1 0 0),
      Instr.wf (.mmaS48 false 1 6 0 1 0 0), Instr.wf (.mvt true 8 0 0), Instr.wf (.mvt false 0 8 0), Instr.wf (.vhadq .q8 4 5 6 3 .none),
      Instr.wf (.qPush 1 2 0 0), Instr.wf (.qPush 1 2 65 0), Instr.wf (.msgSend .reply 3 9 10 12 0 2),
      Instr.wf (.msgSend .post 0 9 10 61 0 2), Instr.wf (.gangForm 1 2 3 0), Instr.wf (.rqStep false 1 0 .none 0),
      Instr.wf (.rqStep false 1 4097 .none 0)] = List.replicate 17 false := by
  decide +kernel

/-! ## Witnesses: the events of the agents complete -/

/-- The first record at port 0 of die 0's distributor, which is idle. -/
def firstRec (d : DistCtx) (rs : List (BitVec 512)) : Bool × List (BitVec 512 × Bool) :=
  let s := posting d 0 rs
  ((s.dist 0 0).busy, (s.port 0 0 0).recs)

theorem witness_DistributorCompletes : let d := binning false false
    [firstRec d [recOf [2], 0], firstRec d [setupRec 2], firstRec d [recOf [3]], firstRec d [recOf [4, 0x200100]],
      firstRec DistCtx.reset [recOf [5]]] =
    [(false, [(recOf [2], false), (0, false)]), (false, [(setupRec 2, false)]), (false, [(recOf [3], false)]),
      (false, [(recOf [4, 0x200100], false)]), (false, [(recOf [5], false)])] ∧
    d.setup.isSome = true ∧ (recWord (recOf [2]) 0).toNat = 2 ∧ (recWord (recOf [2]) 1).getLsbD 31 = false ∧
    (recWord (recOf [2]) 3).toNat / 2 ^ 32 = 0 ∧ (recWord (setupRec 2) 0).toNat % 256 = 1 ∧ (distSetup (setupRec 2)).isSome = true ∧
    (recOf [3]).toNat = 3 ∧ (recOf [5]).toNat = 5 ∧ (recWord (recOf [4, 0x200100]) 0).toNat = 4 ∧ DistCtx.reset.tiles = [] ∧
    DistCtx.reset.passes = [] := by
  decide +kernel

theorem witness_PassesComplete : let d := { binning true false with passes := [] }
    d.setup.isSome = true ∧ d.work = [] ∧ d.freeChunks ≠ [] ∧ (binning true false).fences = [(0x200100, [])] ∧
    (posting d 0 []).acked = true ∧ (binning false false).passes.map (fun p => (p.posted, p.commits)) = [(false, 0)] ∧
    (binning false true).passes.map (fun p => (p.posted, p.tickets, p.commits)) = [(true, none, 0)] ∧
    ((posting (binning false true) 5 [recOf [3 + 2 ^ 32]]).port 0 0 5).recs = [(recOf [3 + 2 ^ 32], false)] ∧
    recWord (recOf [3 + 2 ^ 32]) 0 = 3 + 2 ^ 32 ∧ recZero (recOf [3 + 2 ^ 32]) 1 = true := by
  decide +kernel

/-- The reprojection agent has a setup; no blend unit holds a ticket. -/
def reprojecting : State := (posting DistCtx.reset 2 blockRecs).modDie 0 fun y => { y with repr := (reprSetup (reprRec 1)).toList.map fun u => (0, u) }

theorem witness_BlendingCompletes : (∀ k, (reprojecting.slice k).blend = []) ∧ (reprojecting.port 0 0 3).recs = [] ∧
    (tfind (reprojecting.die 0).repr 0).isSome = true ∧ (reprojecting.port 0 0 2).recs = blockRecs.map (fun r => (r, false)) ∧
    (let r := recOf [2 * 2 ^ 24 + 0xFFFF, 0x30000, 0x200000]
     (recWord r 0).toNat = 2 * 2 ^ 24 + 0xFFFF ∧ recZero r 3 = true ∧ bitsOf (recWord r 1) 63 48 = 0 ∧
     ((ticketed 1 4 [r, 0]).port 0 0 4).recs = [(r, false), (0, false)] ∧
     ((ticketed 1 4 [r, 0]).ticketUnit 0 ((recWord r 1).setWidth 48)).map (fun e => (e.1, e.2.shader.isNone)) = some (3, true)) := by
  refine ⟨fun k => ?_, by decide +kernel⟩
  have none_ : reprojecting.slices = [] := by decide +kernel
  simp [State.slice, tget, none_, Slice.reset]

/-- An entry whose pool has room for any estimate, with a CURRENT generation of one primitive, and one that is staged too. -/
def pooledEntry (staged : Bool) : AsEntry :=
  let e := anEntry staged true
  { e with pool := List.range (2 ^ 32), slots := e.slots.map fun g => (g.1, { g.2 with count := 1 }) }

/-- A command of these words is the next one for the entry and keeps to its limits. -/
def nextHas (staged : Bool) (ws : List Word) (op : Nat) : Bool :=
  let s := builds (pooledEntry staged) ws
  (s.buildNext 0 0 0 fun _ => true).any fun c =>
    let e := (s.vi 0).as c.as_
    c.clean && c.as_ == 2 && c.op == op && e.v && c.fieldsOk e.kind && (tfind e.slots 4).isSome == staged &&
      (op == 1 || op == 4 || op == 5 || (e.source c).any fun g => g.count == 1 && (op != 2 || c.count == 1)) &&
      (op != 1 || (State.gather (s.builderWho 0 0 c) c e.kind [0] [] 0 s).1.isOk)

theorem witness_BuilderRoom (staged kind : Bool) : let e := pooledEntry staged
    pageEstimate 1 kind ≤ (e.pool.filter fun p => !e.usedPages.contains p).length := by
  intro e
  have used : e.usedPages = [] := by cases staged <;> decide +kernel
  have pool : e.pool = List.range (2 ^ 32) := by simp only [e, pooledEntry]
  simp only [used, pool, List.contains_nil, Bool.not_false, List.filter_true, List.length_range, pageEstimate]
  have := (Config.treeEstimate 1 (if kind then 1 else 0)).isLt
  omega

theorem entry_of (e : AsEntry) (ws : List Word) : ((builds e ws).vi 0).as 2 = e := rfl

theorem witness_BuilderCompletes : [nextHas false (buildWords 1 0 0 1 12) 1, nextHas false (buildWords 2 1 0 1 12) 2,
    nextHas false (buildWords 3 1 0 0 0) 3, nextHas true (buildWords 4 0 0 0 0) 4, nextHas true (buildWords 5 0 2 0 0) 5,
    nextHas false (buildWords 6 1 0 0 0) 6] = List.replicate 6 true ∧
    ((tfind (pooledEntry true).slots 4).map Generation.gen, tfind (pooledEntry true).slots 1) = (some 2, none) := by
  decide +kernel

/-! ## Witnesses: further cases of the statements -/

/-- The networks are congested: a store and an atomic to 0x200100 travel to their home, and an atomic to a place of the same home
follows an atomic that is on its way. -/
def congested : State := { s0 with net := { s0.net with congested := true } }

theorem witness_Congested :
    (aims congested .store 0x200108 fun t u => !u.targetMet 0 t 8 && !u.ownerBusy t && match t with
      | .mem xl (.dram pa) => (u.dirtyTarget (s0.who 0) t).travels xl pa
      | _ => false) = true ∧
    (aims s0 .store 0x200108 fun t u => !u.ownerBusy t && match t with
      | .mem xl (.dram pa) => !(u.dirtyTarget (s0.who 0) t).travels xl pa
      | _ => false) = true ∧
    (aims congested .atomic 0x200108 fun t u => !u.targetMet 0 t 8 && u.acked && !u.atmsOpen 0 && match t with
      | .mem xl (.dram pa) => (u.dirtyTarget (s0.who 0) t).travels xl pa
      | _ => false) = true ∧
    (aims onWayFree .atomic 0x200110 fun t u => !u.targetMet 0 t 8 && u.atmAhead 0 t) = true ∧
    (aims s0 .atomic 0x200108 fun t u => !u.atmAhead 0 t) = true ∧ Clean congested.me [5, 10, 0] ∧
    (after (exec (.st 3 7 10 0 8 0) congested) fun t => (t.net.stores.map fun q => (q.addr, q.bytes.length), t.phys.dram.read 0x200108)) =
      some ([(0x200108, 8)], 0) ∧
    (after (exec (.amo .add 3 false 8 10 5 1 true false 8 0) congested) fun t => t.net.atms.map fun q => q.addr) = some [0x200108] := by
  unfold Clean; decide +kernel

/-- A copy of hart 0 from its lane memory to a peer's. -/
def sendsPeer : State := started.modMe fun x =>
  { x with eng := { x.eng with chans := x.eng.chans.map fun c => { c with copies := c.copies.map fun y => { y with desc := { y.desc with kind := 3 } } } } }

theorem witness_PeerFence : sendsPeer.me.landAccess.isSome = true ∧ (sendsPeer.landPeers fun p => p.uid == 0).peerCopies 0 = true ∧
    (s0.landPeers fun p => p.uid == 0).peerCopies 0 = false := by
  decide +kernel

/-- Harts 0 and 8 are a gang. -/
theorem witness_GangTraps : ((ganged.quitGang 0).map fun u => ((u.hart 0).gang.isNone, (u.hart 8).gang.isNone, u.me.pendErr)) =
      some (true, true, none) ∧ ((s0.quitGang 0).map fun u => u.me.pendErr) = some none ∧ (s0.hart 0).gang = none ∧
    (let g := ganged.modMe fun x => { x with pendErr := some { cause := .dataEcc, addr := 0x200000 } }
     ((g.quitGang 0).bind fun u => u.me.pendErr).isSome = true) := by
  decide +kernel

/-- An atomic of the hart on its way to the first element of its accesses, and none. -/
theorem witness_Behind :
    let a := fun (i : Nat) => 0x200108 + BitVec.ofNat 64 (4 * i)
    let w : State := { vmem with net := { vmem.net with atms := onWay.net.atms } }
    let c := fun (s : State) (k : AKind) => (probed s .data k false .none a).1.any
      ((probed s .data k false .none a).2.heldElem ((issued s).who s.cur) k true s.me.core.vs.cfg.ew.bytes)
    [c vmem .load, c vmem .store, c vmem .atomic, c w .load, c w .store, c w .atomic] = [false, false, false, true, true, true] ∧
    (let z := vmem.modMe fun x => x.modVs fun v => { v with vstart := 4 }
     z.me.vl ≤ z.me.vstart) := by
  decide +kernel

/-- The owned block of a peer, read by elements whose indices are 0. -/
theorem witness_PeerBehind :
    let p := fun (i : Nat) => BitVec.ofNat 64 (vmem.me.elem 8 64 i)
    let c := fun (k : AKind) => (probed vmem .peer k true .none p).1.any
      ((probed vmem .peer k true .none p).2.heldElem ((issued vmem).who vmem.cur) k true vmem.me.core.vs.cfg.ew.bytes)
    (c .load, c .store) = (false, false) := by
  decide +kernel

theorem witness_CommandsUnblocked : (sending [command goodCap 0 0 0 0]).blocked (shortRoutes (dieOf 0) (dieOfCore 0)) = none ∧
    (sending []).downOn (dimRoute (dieOfCore 0) (dieOf 0)) = none ∧ (command goodCap 0 0 0 0).past = false := by
  decide +kernel

/-- Every instruction of the parent has ended, but for an atomic on its way. -/
theorem witness_ChildAtomics : inChild.atmsOpen inChild.me.who.uid = false ∧
    (let atms := onWay.net.atms.map fun q => { q with uid := inChild.me.who.uid }
     let t : State := { inChild with net := { inChild.net with atms := atms } }
     t.atmsOpen inChild.me.who.uid = true) ∧ (ended 0).atmsOpen (ended 0).me.who.uid = false := by
  decide +kernel

/-- A window that has written v5 in part and ends with an error for g0, and one that has nothing to give the error to; a reclaim
whose window is over, and one whose window is not. -/
def parted : State := s0.modMe fun x =>
  { x with windows := [{ pc := 0, left := 3, gw := [(0, 0, none)], vw := [], fl := 0, await := .nothing, gd := [(9, 1, none)] },
                       { pc := 16, left := 3, gw := [], vw := [], fl := 0, await := .nothing, err := some { cause := .dataEcc, addr := 16 } }] }
def reclaimed (n : Nat) : State := s0.modMe fun x =>
  { x with lanes := { x.lanes with reclaim := some { recipient := .nobody, expired := false, late := 0, spent := n } } }

theorem witness_Windows : parted.me.windows.map (fun w => (w.await, w.gd.length, w.err.isSome)) = [(.nothing, 1, false), (.nothing, 0, true)] ∧
    (reclaimed 0).me.lanes.reclaim.isSome = true ∧ 0 < ((reclaimed 0).vi 0).reclaimWin ∧
    ((reclaimed 0).vi 0).reclaimWin ≤ 10 ^ 9 ∧
    ((reclaimed (10 ^ 9)).me.lanes.reclaim.map fun r => r.spent) = some (10 ^ 9) ∧
    (after (exec (.reclaimWindowExpiry 0 0) (reclaimed (10 ^ 9))) fun t => t.me.irq.preempt) = some true ∧
    (after (exec (.longLatencyComplete 0 1 .whole) parted) fun t => (t.me.windows.length, t.me.pendErr.isSome)) = some (2, false) := by
  decide +kernel

theorem witness_Heard : (launchable 1).portUp 0 = true ∧ ((launchable 1).vi 0).tdiRun = false ∧ ((launchable 1).heard 0).1 = true ∧
    (let d : State := { launchable 1 with fw := { (launchable 1).fw with pcie := [] } }
     (d.heard 0).1 = false ∧ d.portUp 0 = false ∧ d.slotQueue 0 3 = some 7) ∧
    (let d := ringing tenant
     let d : State := { d with fw := { d.fw with pcie := [] } }
     (d.heard 0).1 = false ∧ d.queueOpen 0 0 = true ∧ ((d.vi 0).cmdq 0).ready = true) ∧
    ((ringing tenant).heard 0).1 = true ∧ ((ringing tenant).barRead 0 0x1008 8).1 = 0 ∧
    ((ringing tenant).barRead 0 0x1000 8).1 = 0x200904 ∧ ((ringing tenant).barRead 0 0x1000 4).1 = 2 ^ 32 - 1 := by
  decide +kernel

/-- The link that every shortest route of the store of `network` uses is up or down. -/
theorem witness_Arrivals : (network false true).replyFollows (request 5 none) = false ∧
    (network true true).replyFollows (request 6 (some (9, none))) = false ∧
    (network true true).downOn (dimRoute (dramDie 0x200100) (dieOfCore 0)) = none ∧
    ((network true true).net.peers.map fun p => (p.past, (network true true).lostOnWay ((network true true).peerFrom p) (dieOfCore p.core) true,
      (network true true).lostOnWay ((network true true).peerFrom p) (dieOfCore p.core) false)) = [(false, none, none)] ∧
    ((network true false).net.peers.map fun p => ((network true false).lostOnWay ((network true false).peerFrom p) (dieOfCore p.core) true,
      (network true false).lostOnWay ((network true false).peerFrom p) (dieOfCore p.core) false)) = [(some 0, some 0)] ∧
    (let far : AtmReq := { request 6 (some (9, none)) with src := 128 }
     far.reply = some (9, none) ∧ far.past = false ∧ (network true false).downOn (dimRoute (dramDie far.addr) (dieOfCore far.src)) = some 0) ∧
    (after (exec (.sheetAccessArrive 0 0 fromSheet (.write [5])) s0) fun t => t.net.refused) = some [fromSheet] := by
  decide +kernel

theorem witness_ReplyCut : ((replying true).net.replies.map fun r => (r.past, ((replying true).downOn (dimRoute (r.slice / 64) (dieOf 0))).isSome)) =
      [(false, false)] ∧
    ((replying false).net.replies.map fun r => (r.past, ((replying false).downOn (dimRoute (r.slice / 64) (dieOf 0))).isSome)) = [(false, true)] ∧
    (after (exec (.msgReplyArrive 0 0 true) (replying false)) fun t => t.me.windows.map fun w => w.gw.map fun g => g.2.1) = some [[0x21, 5]] := by
  decide +kernel

/-- A builder command whose input faults, and a pool without pages. -/
theorem witness_BuilderStops :
    let c := fun (ws : List Word) => ({ words := ws, seq := 0, space := s0.me.sys.space, hart := 0 } : BuildCmd)
    (match (State.gather (s0.builderWho 0 0 (c (((buildWords 1 0 0 1 12).set 2 0x900000).set 7 3))) (c (((buildWords 1 0 0 1 12).set 2 0x900000).set 7 3)) false [0] [] 0 s0).1 with
      | .error (st, _, _) => st == 7
      | .ok _ => false) = true ∧
    ((anEntry false true).source (c (buildWords 2 1 0 0 12))).map Generation.count = some 0 ∧ (c (buildWords 2 1 0 0 12)).count = 0 ∧
    ((anEntry false true).pool.filter fun p => !(anEntry false true).usedPages.contains p).length = 0 := by
  decide +kernel

/-- A module whose islands can rise, and one that may not; and one of whose dies every link is down. -/
def risen : State := s0.modDie 0 fun d => { d with islands := (List.range 32).map fun n => (n, { power := 0, fstep := 15, reef := 16 }) }
def lonelyModule : State :=
  { s0 with net := { s0.net with links := s0.net.links.map fun _ => { up := false, half := false, routed := true } } }

theorem witness_PowerUp : (∃ n < 32, ((floored.die 0).island n).reef.toNat < 16 ∨ (((floored.die 0).island n).fstep.toNat < 15 ∧ floored.heldLow 0 n = false)) ∧
    (∀ n < 32, 16 ≤ ((risen.die 0).island n).reef.toNat ∧ 15 ≤ ((risen.die 0).island n).fstep.toNat) ∧
    100 * 0 < 95 * s0.capOf 0 ∧ s0.lonely = false ∧ lonelyModule.lonely = true ∧ s0.fw.record.recovery = false ∧
    (s0.fw.record.entry 9).2.2 = 0 ∧ (s0.fw.record.entry 1).2.2 = 0 := by
  decide +kernel

/-- VI 1 is a TDI in state RUN, with a session or with none. -/
def tdi (st : Spdm) : State := tenant.modVi 1 fun _ => { Vi.created 1 with tdiRun := true, spdm := st }

theorem witness_TdiKeys : ((tdi .idle).vi 1).tdiRun = true ∧ ((tdi .idle).vi 1).spdm ≠ .session ∧ ((tdi .session).vi 1).spdm = .session ∧
    1 % 64 ≠ 0 ∧
    [status (exec (.setKey { asked [6, 0x200100] with tvi := 1 }) (turnOf (tdi .idle) 11 { asked [6, 0x200100] with tvi := 1 })),
      status (exec (.setKey { asked [6, 0x200100] with tvi := 1 }) (turnOf (tdi .session) 11 { asked [6, 0x200100] with tvi := 1 }))] =
    [some 4, some 0] := by
  decide +kernel

/-- A page list whose pages are one's own and in no other pool, and one that names a page twice. -/
def listing : State := { tenant with phys := { tenant.phys with dram := tenant.phys.dram.writeN 0x200A00 (leBytes 8 0x300 ++ leBytes 8 0x301 ++ leBytes 8 0x301) } }

theorem witness_Astruct : [status (exec (.createAstruct (asked [4095, 1, 0x200A00, 2])) (turn listing 17 [4095, 1, 0x200A00, 2])),
      status (exec (.createAstruct (asked [4095, 1, 0x200A00, 3])) (turn listing 17 [4095, 1, 0x200A00, 3]))] = [some 0, some 2] := by
  decide +kernel

/-- Counters of no core go into a buffer that can be written and not into one that cannot; a selector with a reserved bit. -/
theorem witness_ReadCounters : (tenant.bufWrite 0 0x200C00 (leBytes 8 0)).isSome = true ∧
    (tenant.bufWrite 0 0x900000 (leBytes 8 0)).isNone = true ∧ coreMask (List.replicate 128 0) = [] ∧ coreMask (1 :: List.replicate 127 0) = [0] ∧
    status (exec (.readCounters (asked [0x200C00, 0x200B00, 0x100])) (turn tenant 0x17 [0x200C00, 0x200B00, 0x100])) = some 2 := by
  decide +kernel

/-- A copy from the sheet is under way. -/
def sheetCopying : State := tenant.modMe fun x =>
  { x with eng := { x.eng with chans := x.eng.chans.map fun _ => { chwp := 0, copies := (started.me.eng.chan 2).copies.map fun y =>
      { y with desc := { y.desc with src := 0xFF02000000000000 } } } } }

theorem witness_SheetBusy : tenant.sheetBusy = false ∧ sheetCopying.sheetBusy = true ∧
    status (exec (.sheetConfig (asked [1, 0x200100])) (turn sheetCopying 26 [1, 0x200100])) = some 5 := by
  decide +kernel

theorem witness_Spdm : s0.fw.ready = true ∧ s0.portUp 0 = true ∧ tget .idle s0.fw.spdm 0 = .idle ∧ (spdmCode 0x84).isSome = true ∧
    (spdmCode 0x7E).isNone = true ∧
    (let t : State := { s0 with fw := { s0.fw with spdm := [(0, .session)] } }
     tget .idle t.fw.spdm 0 = .session) ∧
    (after (exec (.spdmOverDoe 0 [0x10, 0x7E]) s0) fun t => (tfind t.fw.doe 0)) = some (some [0x13, 0x7F, 0x07, 0x7E]) := by
  decide +kernel

/-- The hart's share of the VIQ is taken by its instructions that wait; and its pop waits with no instruction left to issue. -/
def fullViq : State :=
  let s := prog vaddWord
  let e := (after (exec (.qPop false 4 8 9 1) (queued false false)) fun t => t.net.entries).getD []
  { s with net := { s.net with entries := e.flatMap (List.replicate 64) } }
def popping : State :=
  let s := prog addiWord
  let e := (after (exec (.qPop false 4 8 9 1) (queued false false)) fun t => t.net.entries).getD []
  let s := { s with net := { s.net with entries := e } }
  s.modMe fun x => { x with windows := e.map fun y => { pc := 0x500, left := 0, gw := [], vw := [], fl := 0, await := .entry y.id } }

theorem witness_Viq : fullViq.viqRoom 0 = 0 ∧ fullViq.me.fetched = [] ∧
    ((hartsOf 0).all fun k => k == 0 || !fullViq.fetches k) = true ∧ turnReady popping = true ∧
    fetched popping = some (addiWord, false) ∧ popping.nextWord.2.waitDue (.addi 0 0 0) = true ∧
    awaited.nextWord.2.waitDue (.addi 0 0 0) = false ∧
    (after (step popping) fun t => t.me.core.st) = some (.waiting .poll) := by
  decide +kernel

end Sys2Proof.Tests
end

section
/-! PROOF. The opcode map's assigned values and the lifetime class of each (spec/02_encoding.md R62, R71), and with them
`Obligations.LifetimeClasses`. -/

namespace Sys2Proof.Lifetime

open Sys2Proof Sys2Proof.Machine Sys2Proof.Safety

/-! ## Which opcodes are assigned -/

/-- How many opcodes each class assigns: they are its first ones (Table 02.6). -/
def opcRows : List Nat := [45, 17, 11, 15, 9, 33, 19, 14, 15, 13, 13, 11, 5, 10, 3, 2]

/-- A value of OPC that Table 02.6 assigns. -/
def opcAssigned (n : Nat) : Bool := n % 64 < opcRows.getD (n / 64) 0

/-- A property that holds of what would be its counterexample holds of everything. The counterexample is a closed term, so that
the kernel can evaluate the property at it, as it would at a variable. -/
theorem forall_of_epsilon {α : Type} (_ : Nonempty α) {p : α → Prop} (h : p (Classical.epsilon fun a => ¬p a)) (a : α) :
    p a :=
  Classical.byContradiction fun ha => Classical.epsilon_spec (p := fun a => ¬p a) ⟨a, ha⟩ h

theorem candidate_isSome_ofNat (f : Fields) :
    ∀ n < 1024, ({ f with opc := BitVec.ofNat 10 n } : Fields).candidate.isSome = opcAssigned n := by
  revert f
  refine forall_of_epsilon ⟨{ opc := 0 }⟩ ?_
  decide +kernel

/-- Whether a word names an instruction depends on its OPC alone. -/
theorem candidate_isSome (f : Fields) : f.candidate.isSome = opcAssigned f.opc.toNat := by
  have h := candidate_isSome_ofNat f f.opc.toNat f.opc.isLt
  rwa [BitVec.ofNat_toNat, BitVec.setWidth_eq] at h

theorem unpack_opc (w : BitVec 128) : (Fields.unpack w).opc.toNat = w.toNat % 1024 := by
  simp [Fields.unpack]

theorem decode_eq_illegal_iff (w : BitVec 128) : decode w = .illegal ↔ opcAssigned (w.toNat % 1024) = false := by
  rw [← unpack_opc, ← candidate_isSome]
  unfold decode
  cases (Fields.unpack w).candidate with
  | none => simp
  | some i => by_cases h : (i.wf && encode i == some w) = true <;> simp [h]

theorem opc_of_encode {i : Instr} {w : BitVec 128} (h : encode i = some w) :
    ∃ f, i.toFields = some f ∧ f.opc.toNat = w.toNat % 1024 := by
  obtain ⟨f, hf, rfl⟩ := Option.map_eq_some_iff.mp h
  exact ⟨f, hf, by rw [← unpack_opc, Laws.Encoded.unpack_pack]⟩

/-! ## Lifetime classes -/

/-- The classes of R62: permanent, deprecated, experimental. -/
inductive Life where
  | p
  | d
  | x
  deriving DecidableEq

/-- The lifetime entry of the opcodes of a class (R359): valid, the class, REMGEN 11 when deprecated, and STEPMASK. -/
def Life.entry : Life → Nat
  | .p => 0x80000300
  | .d => 0xA00B0300
  | .x => 0xC0000200

/-- The lifetime class of a value of OPC; none when it is not assigned. -/
def lifeOfOpc (n : Nat) : Option Life :=
  if opcAssigned n then some (if n / 64 = 0xE then .d else if n / 64 = 0xF then .x else .p) else none

/-- The lifetime class of an instruction. -/
def lifeOf : Instr → Life
  | .vmld .. => .d
  | .vmst .. => .d
  | .bmsk .. => .d
  | .mmaS48 .. => .x
  | .rqSort .. => .x
  | _ => .p

theorem lifetimeEntry_eq {n : Nat} (h : n < 1024) : lifetimeEntry n = ((lifeOfOpc n).map Life.entry).getD 0 := by
  have hopc : (Fields.unpack (BitVec.ofNat 128 n)).opc.toNat = n := by rw [unpack_opc, BitVec.toNat_ofNat]; omega
  unfold lifetimeEntry lifeOfOpc
  rw [← Option.not_isSome, candidate_isSome, hopc]
  cases opcAssigned n with
  | false => simp
  | true =>
    simp only [Bool.not_true, Bool.false_eq_true, if_false, if_true]
    split_ifs <;> rfl

theorem entry_ne_zero (l : Life) : l.entry ≠ 0 := by cases l <;> decide

theorem lifetimeEntry_eq_zero_iff {n : Nat} (h : n < 1024) : lifetimeEntry n = 0 ↔ opcAssigned n = false := by
  rw [lifetimeEntry_eq h]
  unfold lifeOfOpc
  cases opcAssigned n <;> simp [entry_ne_zero]

/-- The word of an instruction is of the class of the instruction. -/
theorem lifeOfOpc_toFields {i : Instr} {f : Fields} (h : i.toFields = some f) : lifeOfOpc f.opc.toNat = some (lifeOf i) := by
  cases i <;> cases h <;> dsimp only <;> rfl

theorem opcClass_iff {n : Nat} {l : Life} (hn : n < 1024) (h : lifeOfOpc n = some l) :
    (n / 64 ≤ 0xD ↔ l = .p) ∧ (n / 64 = 0xE ↔ l = .d) ∧ (n / 64 = 0xF ↔ l = .x) := by
  obtain ⟨-, hl⟩ := Option.ite_none_right_eq_some.mp h
  obtain rfl := Option.some.inj hl
  split_ifs with hE hF
  · simp [hE]
  · simp [hF]
  · have hP : n / 64 ≤ 0xD := by omega
    simp [hE, hF, hP]

theorem lifeOf_eq_d_iff (i : Instr) : lifeOf i = .d ↔
    (∃ t a b imm la, i = .vmld t a b imm la) ∨ (∃ t a b imm la, i = .vmst t a b imm la) ∨ ∃ d a m, i = .bmsk d a m := by
  unfold lifeOf
  split <;> simp_all

theorem lifeOf_eq_x_iff (i : Instr) : lifeOf i = .x ↔
    (∃ sat t a slot panel row0 la, i = .mmaS48 sat t a slot panel row0 la) ∨ ∃ q d m la, i = .rqSort q d m la := by
  unfold lifeOf
  split <;> simp_all

/-- The fields of a lifetime entry: its class, REMGEN, STEPMASK and valid bit (R359). -/
theorem entry_fields (l : Life) :
    (l = .p ↔ l.entry / 2 ^ 29 % 4 = 0) ∧ (l = .d ↔ l.entry / 2 ^ 29 % 4 = 1 ∧ l.entry / 2 ^ 16 % 2 ^ 8 = 11) ∧
    (l = .x ↔ l.entry / 2 ^ 29 % 4 = 2 ∧ l.entry / 2 ^ 8 % 4 = 2) ∧ l.entry / 2 ^ 31 = 1 := by
  cases l <;> decide

/-! ## The statement -/

theorem unassigned_count : ((List.range 1024).filter fun n => lifetimeEntry n == 0).length = 789 := by
  have h : (List.range 1024).filter (fun n => lifetimeEntry n == 0) = (List.range 1024).filter fun n => !opcAssigned n := by
    refine List.filter_congr fun n hn => ?_
    rw [Bool.eq_iff_iff, beq_iff_eq, lifetimeEntry_eq_zero_iff (List.mem_range.mp hn), Bool.not_eq_true']
  rw [h]
  decide +kernel

/-- An experimental instruction raises LIFETIME on stepping A0, whatever else the state holds (R62). -/
theorem exec_traps_of_experimental {s : State} {i : Instr} (hs : s.stepping = .a0) (hi : lifeOf i = .x) :
    Traps (exec i s) s .lifetime (lowWord i) := by
  obtain ⟨sat, t, a, slot, panel, row0, la, rfl⟩ | ⟨q, d, m, la, rfl⟩ := (lifeOf_eq_x_iff i).mp hi
  · rw [exec_mmaS48]; exact if_pos hs
  · rw [exec_rqSort]; exact if_pos hs

/-- Settles O59: an instruction's word and its OPC are of the instruction's own lifetime class, and an OPC is ILLEGAL exactly when
it has none. -/
theorem lifetimeClasses : Obligations.LifetimeClasses := by
  unfold Obligations.LifetimeClasses
  refine ⟨fun i w h => ?_, fun w => ?_, unassigned_count, fun s i hs hi => ?_⟩
  · obtain ⟨f, hf, hopc⟩ := opc_of_encode h
    have hn : w.toNat % 1024 < 1024 := Nat.mod_lt _ (by decide)
    have hlife : lifeOfOpc (w.toNat % 1024) = some (lifeOf i) := hopc ▸ lifeOfOpc_toFields hf
    have hentry : lifetimeEntry (w.toNat % 1024) = (lifeOf i).entry := by rw [lifetimeEntry_eq hn, hlife]; rfl
    obtain ⟨hP, hD, hX⟩ := opcClass_iff hn hlife
    obtain ⟨eP, eD, eX, eValid⟩ := entry_fields (lifeOf i)
    dsimp only
    rw [hentry, ← lifeOf_eq_d_iff, ← lifeOf_eq_x_iff]
    exact ⟨hP.trans eP, hD.trans eD, hX.trans eX, eValid, hD, hX⟩
  · rw [lifetimeEntry_eq_zero_iff (Nat.mod_lt _ (by decide)), decode_eq_illegal_iff]
  · exact exec_traps_of_experimental hs ((lifeOf_eq_x_iff i).mpr hi)

end Sys2Proof.Lifetime
end

section
/-! PROOF. The control-register numbers that crr, crw, crset and crclr may name (spec/03_registers.md R74, Table 03.2), and with
them `Obligations.ControlRegisterNumbers`. -/

namespace Sys2Proof.CrNumbers

open Sys2Proof Sys2Proof.Machine Sys2Proof.Safety

/-! ## What the decoder answers for a field outside its limits -/

theorem decode_eq_reserved_of_not_wf {w : BitVec 128} {i : Instr} (hi : (Fields.unpack w).candidate = some i)
    (hwf : i.wf = false) : decode w = .reserved := by
  simp [decode, hi, hwf]

/-- Check 3 of Table 02.2: the trap, with the low word of the instruction in TVAL. -/
theorem runWord_traps_of_reserved {w : BitVec 128} (h : decode w = .reserved) (s : State) :
    Traps (s.runWord w) s .rsvdField (w.setWidth 64) := by
  unfold State.runWord
  rw [h]
  rfl

/-! ## The instructions that name a control register -/

/-- The four instructions that name the control register cr. -/
def crInstrs (d a : Reg) (cr : BitVec 12) : List Instr := [.crr d cr, .crw d a cr, .crset d a cr, .crclr d a cr]

/-- The number is the only operand of theirs that has a limit. -/
theorem wf_of_mem_crInstrs {d a : Reg} {cr : BitVec 12} {i : Instr} (hi : i ∈ crInstrs d a cr) : i.wf = crAssigned cr := by
  simp only [crInstrs, List.mem_cons, List.not_mem_nil, or_false] at hi
  obtain rfl | rfl | rfl | rfl := hi <;> rfl

/-- The values of OPC 0x340 to 0x343 name them, with the number in the low bits of IMM. -/
theorem candidate_mem_crInstrs {f : Fields} (h : f.opc ∈ [0x340#10, 0x341#10, 0x342#10, 0x343#10]) :
    ∃ i ∈ crInstrs f.d f.a (f.imm.extractLsb' 0 12), f.candidate = some i := by
  obtain ⟨opc, _⟩ := f
  simp only [List.mem_cons, List.not_mem_nil, or_false] at h
  obtain rfl | rfl | rfl | rfl := h <;> exact ⟨_, by simp [crInstrs], rfl⟩

/-- A well-formed one has a word, and the decoder reads it back. -/
theorem decode_encode_of_mem_crInstrs {d a : Reg} {cr : BitVec 12} {i : Instr} (hi : i ∈ crInstrs d a cr) (hwf : i.wf = true) :
    ∃ w, encode i = some w ∧ decode w = .ok i := by
  simp only [crInstrs, List.mem_cons, List.not_mem_nil, or_false] at hi
  obtain rfl | rfl | rfl | rfl := hi
  · exact ⟨_, rfl, Laws.Encoded.crr d cr hwf _ rfl⟩
  · exact ⟨_, rfl, Laws.Encoded.crw d a cr hwf _ rfl⟩
  · exact ⟨_, rfl, Laws.Encoded.crset d a cr hwf _ rfl⟩
  · exact ⟨_, rfl, Laws.Encoded.crclr d a cr hwf _ rfl⟩

theorem unpack_imm_extract (w : BitVec 128) : (Fields.unpack w).imm.extractLsb' 0 12 = w.extractLsb' 64 12 := by
  ext k hk
  have hk64 : k < 64 := by omega
  simp [Fields.unpack, hk64]

/-- A word of one of the four with a number that the table leaves out. -/
theorem decode_eq_reserved_of_not_crAssigned {w : BitVec 128} (hopc : w.extractLsb' 0 10 ∈ [0x340#10, 0x341#10, 0x342#10, 0x343#10])
    (hcr : crAssigned (w.extractLsb' 64 12) = false) : decode w = .reserved := by
  obtain ⟨i, hi, hcand⟩ := candidate_mem_crInstrs (f := Fields.unpack w) hopc
  rw [unpack_imm_extract] at hi
  exact decode_eq_reserved_of_not_wf hcand ((wf_of_mem_crInstrs hi).trans hcr)

/-! ## The statement -/

/-- Settles O60: the number is the one field of these instructions with a limit, and its limit is Table 03.2. -/
theorem controlRegisterNumbers : Obligations.ControlRegisterNumbers := by
  unfold Obligations.ControlRegisterNumbers
  intro assigned
  have hassigned (n : BitVec 12) : crAssigned n = true ↔ assigned n.toNat := by
    simp [crAssigned, assigned, or_assoc]
  refine ⟨fun w s hopc hn => ?_, fun d a cr hcr i hi => ?_⟩
  · have hres : decode w = .reserved :=
      decode_eq_reserved_of_not_crAssigned hopc (Bool.eq_false_iff.mpr fun h => hn ((hassigned _).mp h))
    exact ⟨hres, runWord_traps_of_reserved hres s⟩
  · exact decode_encode_of_mem_crInstrs hi ((wf_of_mem_crInstrs hi).trans ((hassigned cr).mpr hcr))

end Sys2Proof.CrNumbers
end

section
/-! PROOF. The smaller and the larger of two floats and the class of a float (spec/05_scalar_isa.md R113, R116), and with them
`Obligations.MinMaxRule` and `Obligations.ClassifyRule`. -/

namespace Sys2Proof.ScalarFloat

open Sys2Proof Sys2Proof.Machine Sys2Proof.Safety

/-! ## Completing a scalar float instruction -/

/-- With clean sources, a scalar float instruction writes its result and raises its flags, whatever it computes. -/
theorem completes_scalarF {s : State} {src : List Reg} {r : Hart → Nat × Flags} {v : Nat} {fl : Flags} (d : Reg)
    (hsrc : Clean s.me src) (hr : r s.me = (v, fl)) :
    Completes (s.scalarF d src r) s ((s.me.writeG d (BitVec.ofNat 64 v)).raise fl) := by
  unfold State.scalarF
  rw [withG_clean s _ hsrc, hr]
  exact completes_done s _

@[simp] theorem raise_zero (x : Hart) : x.raise 0 = x := by simp [Hart.raise]

/-! ## The smaller and the larger operand (R113) -/

/-- x is ordered before y, with −0 before +0. -/
abbrev Precedes (x y : Fp) : Prop := cmpFp x y = .lt ∨ (cmpFp x y = .eq ∧ x.neg = true ∧ y.neg = false)

section
variable {k : FpK} {a b : Nat} (isMax : Bool)

theorem fMinMax_snd : (fMinMax k isMax a b).2 = sigNV [.unpack k a, .unpack k b] := by
  unfold fMinMax
  dsimp only
  split_ifs <;> rfl

theorem fMinMax_fst_of_nan_nan (ha : (Fp.unpack k a).isNan = true) (hb : (Fp.unpack k b).isNan = true) :
    (fMinMax k isMax a b).1 = k.nan := by
  simp [fMinMax, ha, hb]

theorem fMinMax_fst_of_nan_left (ha : (Fp.unpack k a).isNan = true) (hb : (Fp.unpack k b).isNan = false) :
    (fMinMax k isMax a b).1 = b := by
  simp [fMinMax, ha, hb]

theorem fMinMax_fst_of_nan_right (ha : (Fp.unpack k a).isNan = false) (hb : (Fp.unpack k b).isNan = true) :
    (fMinMax k isMax a b).1 = a := by
  simp [fMinMax, ha, hb]

theorem fMinMax_fst_of_not_nan (ha : (Fp.unpack k a).isNan = false) (hb : (Fp.unpack k b).isNan = false) :
    (fMinMax k isMax a b).1 = if Precedes (.unpack k a) (.unpack k b) ↔ isMax = false then a else b := by
  unfold fMinMax Precedes
  cases hcmp : cmpFp (.unpack k a) (.unpack k b) with
  | lt => cases isMax <;> simp [ha, hb, hcmp]
  | gt => cases isMax <;> simp [ha, hb, hcmp]
  | eq =>
    by_cases hneg : (Fp.unpack k a).neg = true ∧ (Fp.unpack k b).neg = false
    · cases isMax <;> simp [ha, hb, hcmp, hneg]
    · have hless : ((Fp.unpack k a).neg && !(Fp.unpack k b).neg) = false := by simpa using hneg
      cases isMax <;> simp [ha, hb, hcmp, hneg, hless]

/-- The operand that R113 names: for the minimum when least holds, for the maximum otherwise. -/
theorem fMinMax_eq (least : Bool) (a b : Nat) :
    fMinMax k (!least) a b =
      (if (Fp.unpack k a).isNan ∧ (Fp.unpack k b).isNan then k.nan
        else if (Fp.unpack k a).isNan then b else if (Fp.unpack k b).isNan then a
        else if Precedes (.unpack k a) (.unpack k b) ↔ least = true then a else b,
        if (Fp.unpack k a).isSig || (Fp.unpack k b).isSig then fNV else 0) := by
  refine Prod.ext ?_ (by rw [fMinMax_snd]; simp [sigNV])
  cases ha : (Fp.unpack k a).isNan <;> cases hb : (Fp.unpack k b).isNan
  · simp [fMinMax_fst_of_not_nan _ ha hb]
  · simp [fMinMax_fst_of_nan_right _ ha hb]
  · simp [fMinMax_fst_of_nan_left _ ha hb]
  · simp [fMinMax_fst_of_nan_nan _ ha hb]

end

/-- Settles O5: both instructions answer fMinMax of their operands, which is the operand that R113 names. -/
theorem minMaxRule : Obligations.MinMaxRule := by
  unfold Obligations.MinMaxRule
  intro s d a b f A B x y fl below pick hclean
  have hmin : fMinMax f.k false A B = (pick true, fl) := fMinMax_eq true A B
  have hmax : fMinMax f.k true A B = (pick false, fl) := fMinMax_eq false A B
  rw [exec_fmin, exec_fmax]
  exact ⟨completes_scalarF d hclean hmin, completes_scalarF d hclean hmax⟩

/-! ## The class of a float (R83, R116) -/

/-- The exponent field E of R83. -/
def expField (k : FpK) (a : Nat) : Nat := (a >>> k.f) % 2 ^ k.e

/-- The fraction field F of R83. -/
def fracField (k : FpK) (a : Nat) : Nat := a % 2 ^ k.f

/-- The sign bit. -/
def signBit (k : FpK) (a : Nat) : Bool := a.testBit (k.e + k.f)

theorem fracField_lt (k : FpK) (a : Nat) : fracField k a < 2 ^ k.f := Nat.mod_lt _ (Nat.two_pow_pos _)

section
variable {k : FpK} {a : Nat}

/-- A fraction field below its top bit's weight has that bit clear: the NaN is a signalling one. -/
theorem testBit_fracField_top (hf : 0 < k.f) :
    (fracField k a).testBit (k.f - 1) = !decide (fracField k a < 2 ^ (k.f - 1)) := by
  have hlt := fracField_lt k a
  by_cases h : fracField k a < 2 ^ (k.f - 1)
  · simp [h, Nat.testBit_lt_two_pow h]
  · rw [Nat.testBit_of_two_pow_le_and_two_pow_add_one_gt (Nat.le_of_not_lt h) (by rwa [Nat.sub_add_cancel hf])]
    simp [h]

theorem unpack_of_inf (he : expField k a = k.emax) (hF : fracField k a = 0) : Fp.unpack k a = .inf (signBit k a) := by
  unfold expField at he
  unfold fracField at hF
  simp [Fp.unpack, he, hF, signBit]

theorem unpack_of_nan (hf : 0 < k.f) (he : expField k a = k.emax) (hF : fracField k a ≠ 0) :
    Fp.unpack k a = .nan (fracField k a < 2 ^ (k.f - 1)) := by
  have htop := testBit_fracField_top (k := k) (a := a) hf
  unfold expField at he
  unfold fracField at hF htop ⊢
  simp [Fp.unpack, he, hF, htop]

theorem unpack_of_subnormal (he : expField k a ≠ k.emax) (he0 : expField k a = 0) :
    Fp.unpack k a = .fin (signBit k a) (fracField k a) (1 - k.bias - k.f) := by
  unfold expField at he he0
  simp only [Fp.unpack, if_neg he, if_pos he0, signBit, fracField]

theorem unpack_of_normal (he : expField k a ≠ k.emax) (he0 : expField k a ≠ 0) :
    Fp.unpack k a = .fin (signBit k a) (2 ^ k.f + fracField k a) (expField k a - k.bias - k.f) := by
  unfold expField at he he0 ⊢
  simp only [Fp.unpack, if_neg he, if_neg he0, signBit, fracField]

/-- The number of the class of a float, as R116 numbers them, by its fields. -/
def classNumber (k : FpK) (a : Nat) : Nat :=
  if expField k a = k.emax then
    if fracField k a = 0 then (if signBit k a = true then 0 else 7) else if fracField k a < 2 ^ (k.f - 1) then 8 else 9
  else if expField k a = 0 then
    if fracField k a = 0 then (if signBit k a = true then 3 else 4) else if signBit k a = true then 2 else 5
  else if signBit k a = true then 1 else 6

/-- Exactly the bit of the operand's class is set. -/
theorem fClass_eq_two_pow (hf : 0 < k.f) (a : Nat) : fClass k a = 2 ^ classNumber k a := by
  unfold fClass classNumber
  by_cases he : expField k a = k.emax
  · by_cases hF : fracField k a = 0
    · rw [unpack_of_inf he hF, if_pos he, if_pos hF]
      cases signBit k a <;> rfl
    · rw [unpack_of_nan hf he hF, if_pos he, if_neg hF]
      by_cases hs : fracField k a < 2 ^ (k.f - 1) <;> simp [hs]
  · by_cases he0 : expField k a = 0
    · rw [unpack_of_subnormal he he0, if_neg he, if_pos he0]
      by_cases hF : fracField k a = 0
      · cases signBit k a <;> simp [hF]
      · cases signBit k a <;> simp [hF, fracField_lt]
    · rw [unpack_of_normal he he0, if_neg he, if_neg he0]
      cases signBit k a <;> simp

end

theorem fracWidth_pos (f : Fmt) : 0 < f.k.f := by cases f <;> decide

/-- Settles O6: the instruction answers fClass of its operand, which is the bit of the operand's class, and raises nothing. -/
theorem classifyRule : Obligations.ClassifyRule := by
  unfold Obligations.ClassifyRule
  intro s d a f A E F neg n hclean
  have hclass : fClass f.k A = 2 ^ n := fClass_eq_two_pow (fracWidth_pos f) A
  rw [exec_fclass, ← raise_zero (s.me.writeG d _)]
  exact completes_scalarF d hclean (congrArg (·, 0) hclass)

end Sys2Proof.ScalarFloat
end

section
/-! PROOF. What leaves the harts as they are (memory written for the device, devices' own translation, trace records), and what
completing the windows and leaving the gang leaves of a hart's pc. -/

namespace Sys2Proof.HartFrames

open Sys2Proof Sys2Proof.Machine Sys2Proof.Safety

/-! ## What leaves the harts as they are -/

/-- From s to t no hart has changed, and the turn is the same hart's. -/
structure SameHarts (s t : State) : Prop where
  harts : t.harts = s.harts
  cur   : t.cur = s.cur

theorem SameHarts.refl (s : State) : SameHarts s s := ⟨rfl, rfl⟩

theorem SameHarts.trans {s t u : State} (h : SameHarts s t) (k : SameHarts t u) : SameHarts s u :=
  ⟨k.harts.trans h.harts, k.cur.trans h.cur⟩

theorem SameHarts.hart {s t : State} (h : SameHarts s t) (k : Nat) : t.hart k = s.hart k := by
  unfold State.hart
  rw [h.harts]

theorem SameHarts.ite {s t u : State} {p : Prop} [Decidable p] (ht : SameHarts s t) (hu : SameHarts s u) :
    SameHarts s (if p then t else u) := by
  split <;> assumption

/-- What leaves the harts as they are at each item of a list does so over the list. -/
theorem sameHarts_foldl {α : Type} {f : State → α → State} (hf : ∀ t a, SameHarts t (f t a)) (s : State) (l : List α) :
    SameHarts s (l.foldl f s) :=
  List.foldlRecOn l f (motive := SameHarts s) (SameHarts.refl s) fun t ht a _ => ht.trans (hf t a)

/-! ### Memory -/

theorem sameHarts_retag (s : State) (line : Nat) (tag : LineTag) : SameHarts s (s.retag line tag) := by
  unfold State.retag
  split <;> exact ⟨rfl, rfl⟩

theorem sameHarts_homeWrite (s : State) (uid : Nat) (tag : LineTag) (a : Nat) (bs : List Byte) (p : Option Poison) :
    SameHarts s (s.homeWrite uid tag a bs p) :=
  (sameHarts_retag s (a / 128) tag).trans ⟨rfl, rfl⟩

theorem sameHarts_physWrite (s : State) (uid pa : Nat) (bs : List Byte) : SameHarts s (s.physWrite uid pa bs) := by
  induction bs generalizing s pa with
  | nil => exact .refl s
  | cons b bs ih =>
    refine .trans ?_ (ih _ _)
    split
    · exact sameHarts_homeWrite ..
    · split <;> exact ⟨rfl, rfl⟩
    · exact .refl s

theorem sameHarts_physPut (s : State) (uid pa : Nat) (bs : List Byte) (p : Option Poison) :
    SameHarts s (s.physPut uid pa bs p) := by
  have hw := sameHarts_physWrite s uid pa bs
  unfold State.physPut
  dsimp only
  split
  · exact hw
  · refine hw.trans (sameHarts_foldl (fun t a => ?_) _ _)
    split
    · exact ⟨rfl, rfl⟩
    · split <;> exact ⟨rfl, rfl⟩
    · exact .refl t

theorem sameHarts_dropL1Line (s : State) (c : Nat) (p : Place) : SameHarts s (s.dropL1Line c p) := by
  unfold State.dropL1Line
  split <;> exact ⟨rfl, rfl⟩

theorem sameHarts_areaWrite (s : State) (core uid pa : Nat) (bs : List Byte) (p : Option Poison) :
    SameHarts s (s.areaWrite core uid pa bs p) :=
  (sameHarts_foldl (fun t a => sameHarts_dropL1Line t core (place a)) s _).trans (sameHarts_physPut ..)

theorem sameHarts_landPeers (s : State) (sel : PeerStore → Bool) : SameHarts s (s.landPeers sel) := by
  unfold State.landPeers
  split
  · exact .refl s
  · exact (sameHarts_foldl (f := State.landPeer) (fun _ _ => ⟨rfl, rfl⟩) s _).trans ⟨rfl, rfl⟩

/-! ### Devices' own translation -/

theorem sameHarts_walkEntry (s : State) (d : Nat) (w : Who) (inst : Bool) (root : BitVec 36) (va lvl : Nat)
    (fresh : Option Nat) : SameHarts s (s.walkEntry d w inst root va lvl fresh).2 := by
  unfold State.walkEntry
  dsimp only
  split
  · exact .refl s
  · split <;> exact ⟨rfl, rfl⟩

theorem sameHarts_evict {α : Type} (s : State) (n : Nat) (l : List α) : SameHarts s (s.evict n l).2 := by
  unfold State.evict
  split <;> exact ⟨rfl, rfl⟩

/-- The walker cache is asked, or not, for the entry of a level. -/
theorem sameHarts_of_entry {s t : State} {b : Bool} {d : Nat} {w : Who} {inst : Bool} {root : BitVec 36} {va lvl : Nat}
    {fresh o : Option Nat} (h : (if b = true then s.walkEntry d w inst root va lvl fresh else (fresh, s)) = (o, t)) :
    SameHarts s t := by
  obtain rfl : _ = t := congrArg Prod.snd h
  split
  · exact sameHarts_walkEntry ..
  · exact .refl s

theorem sameHarts_walkFill (s : State) (d : Nat) (w : Who) (inst : Bool) (root : BitVec 36) (va lvl e : Nat) :
    SameHarts s (s.walkFill d w inst root va lvl e) :=
  (sameHarts_evict s walkerSize _).trans ⟨rfl, rfl⟩

theorem sameHarts_walkFrom (s : State) (w : Who) (inst : Bool) (root : BitVec 36) (va : Nat) (fill : Bool)
    (lvl base : Nat) : SameHarts s (s.walkFrom w inst root va fill lvl base).2 := by
  -- Cases 4 and 5 meet a pointer, which the walker cache keeps; the others end the walk at this entry.
  fun_induction State.walkFrom
  case case4 hx => exact (sameHarts_of_entry hx).trans (.ite (sameHarts_walkFill ..) (.refl _))
  case case5 hx ih => exact ((sameHarts_of_entry hx).trans (.ite (sameHarts_walkFill ..) (.refl _))).trans ih
  all_goals
    rename_i hx
    exact sameHarts_of_entry hx

theorem sameHarts_logErr (s : State) (d : Nat) (vi : Option Nat) (cls info hart : Nat) (addr data : Word) :
    SameHarts s (s.logErr d vi cls info hart addr data) := by
  unfold State.logErr
  dsimp only
  split
  · exact .ite ⟨rfl, rfl⟩ ⟨rfl, rfl⟩
  · exact ⟨rfl, rfl⟩

theorem sameHarts_devWalk (s : State) (w : Who) (inst : Bool) (k : AKind) (va : Word) :
    SameHarts s (s.devWalk w inst k va).2 := by
  have hw : SameHarts s (s.walk w inst va.toNat true).2 := sameHarts_walkFrom ..
  unfold State.devWalk
  dsimp only
  split
  · exact .refl s
  · split
    · exact hw
    · exact hw
    · dsimp only
      exact hw.trans (sameHarts_logErr ..)
    · split
      · exact hw
      · exact hw.trans (.ite (.refl _) (sameHarts_physWrite ..))

theorem sameHarts_devXlate (s : State) (w : Who) (k : AKind) (va : Word) : SameHarts s (s.devXlate w k va).2 := by
  have hw := sameHarts_devWalk s w false k va
  unfold State.devXlate
  dsimp only
  split
  · exact hw
  · exact hw.trans (.ite (.ite (.refl _) (sameHarts_physWrite ..)) (.refl _))

theorem sameHarts_devWrite {s t : State} {w : Who} {va : Word} {bs : List Byte} (h : s.devWrite w va bs = some t) :
    SameHarts s t := by
  obtain ⟨p, hp, rfl⟩ := Option.map_eq_some_iff.mp h
  refine List.foldlRecOn bs _ (motive := fun acc => ∀ p, acc = some p → SameHarts s p.1) ?_ (fun acc hacc b _ q hq => ?_) p hp
  · rintro _ ⟨⟩
    exact .refl s
  · cases acc with
    | none => cases hq
    | some r =>
      have hx := (hacc r rfl).trans (sameHarts_devXlate r.1 w .store (va + BitVec.ofNat 64 r.2))
      dsimp only at hq
      split at hq
      · cases hq
      · split at hq
        · cases hq
          dsimp only
          exact hx.trans (sameHarts_homeWrite ..)
        · split at hq <;> cases hq
          exact hx.trans (.ite ⟨rfl, rfl⟩ ⟨rfl, rfl⟩)
        · cases hq

theorem sameHarts_bufWrite {s t : State} {vi : Nat} {a : Word} {bs : List Byte} (h : s.bufWrite vi a bs = some t) :
    SameHarts s t := by
  unfold State.bufWrite at h
  dsimp only at h
  split at h
  · split at h
    · cases h
    · split at h <;> cases h <;> exact ⟨rfl, rfl⟩
  · exact sameHarts_devWrite h

/-! ### Event counters and trace records -/

theorem sameHarts_countEvent (s : State) (c : Nat) (vi : BitVec 7) (e n : Nat) : SameHarts s (s.countEvent c vi e n) :=
  .ite (.refl s) ⟨rfl, rfl⟩

theorem sameHarts_putRec (s : State) (h kind : Nat) (pc info elem data : Word) (tail : List Nat) :
    SameHarts s (s.putRec h kind pc info elem data tail) := by
  unfold State.putRec
  dsimp only
  split
  · exact .refl s
  · split
    · exact .refl s
    · have hs (c : Nat) (f : Core → Core) : SameHarts s (s.modCore c f) := ⟨rfl, rfl⟩
      split
      · exact ⟨rfl, rfl⟩
      · next t ht =>
        have hb := (hs _ _).trans (sameHarts_bufWrite ht)
        split
        · exact hb.trans ⟨rfl, rfl⟩
        · next u hu => exact (hb.trans (sameHarts_bufWrite hu)).trans ⟨rfl, rfl⟩

theorem sameHarts_traceRec (s : State) (h kind : Nat) (pc info elem data : Word) (tail : List Nat) :
    SameHarts s (s.traceRec h kind pc info elem data tail) := by
  unfold State.traceRec
  dsimp only
  have lost (d : Word) :
      SameHarts s ((s.putRec h 0x0F 0 0 0 d [0, 0, 0]).modCore (coreOf h) fun y => { y with lost := 0 }) :=
    (sameHarts_putRec ..).trans ⟨rfl, rfl⟩
  exact .ite (.refl s) (.ite ⟨rfl, rfl⟩ ((SameHarts.ite (lost ..) (.refl s)).trans (sameHarts_putRec ..)))

theorem sameHarts_writeFault (s : State) (core : Nat) (x : Hart) (t : TrapInfo) : SameHarts s (s.writeFault core x t) := by
  have area (u : State) (pa : Nat) (bs : List Byte) : SameHarts u (u.areaWrite core x.who.uid pa bs) :=
    sameHarts_areaWrite ..
  unfold State.writeFault
  dsimp only
  split
  · exact ((area ..).trans (area ..)).trans ((area ..).trans (area ..))
  · exact ((area ..).trans (area ..)).trans (area ..)

/-! ## What completing the windows and leaving the gang leaves of the pc -/

theorem poisonG_core_pc (x : Hart) (r : Reg) (v : Word) (p : Poison) : (x.poisonG r v p).core.pc = x.core.pc := by
  unfold Hart.poisonG
  split
  · rfl
  · exact x.writeG_core_pc r v

theorem putG_core_pc (x : Hart) (r : Reg) (v : Word) (p : Option Poison) : (x.putG r v p).core.pc = x.core.pc := by
  cases p with
  | none => exact x.writeG_core_pc r v
  | some p => exact poisonG_core_pc x r v p

theorem landG_core_pc (x : Hart) (r : Reg) (v : Word) (p : Option Poison) : (x.landG r v p).core.pc = x.core.pc := by
  unfold Hart.landG
  split
  · rfl
  · exact putG_core_pc x r v p

theorem land_core_pc (x : Hart) (w : Window) : (x.land w).core.pc = x.core.pc := by
  have hg : (w.gw.foldl (fun x g => x.landG g.1 g.2.1 g.2.2) x).core.pc = x.core.pc :=
    List.foldlRecOn w.gw _ (motive := fun y => y.core.pc = x.core.pc) rfl fun y hy g _ => (landG_core_pc y ..).trans hy
  unfold Hart.land
  dsimp only
  split_ifs <;> exact hg

theorem landAll_core_pc {x y : Hart} (h : x.landAll = some y) : y.core.pc = x.core.pc := by
  unfold Hart.landAll at h
  split at h
  · rw [Option.some.inj h]
  · split at h
    · rw [← Option.some.inj h]
      exact List.foldlRecOn x.windows _ (motive := fun z => z.core.pc = x.core.pc) rfl fun z hz w _ =>
        (land_core_pc z w).trans hz
    · cases h

/-- From s to t the pc of hart h has not changed, and the turn is the same hart's. -/
structure SamePc (h : Nat) (s t : State) : Prop where
  pc  : (t.hart h).core.pc = (s.hart h).core.pc
  cur : t.cur = s.cur

theorem SamePc.refl (h : Nat) (s : State) : SamePc h s s := ⟨rfl, rfl⟩

theorem SamePc.trans {h : Nat} {s t u : State} (p : SamePc h s t) (q : SamePc h t u) : SamePc h s u :=
  ⟨q.pc.trans p.pc, q.cur.trans p.cur⟩

theorem SameHarts.samePc {s t : State} (hs : SameHarts s t) (h : Nat) : SamePc h s t := ⟨by rw [hs.hart h], hs.cur⟩

/-- A hart written with the pc that it had. -/
theorem samePc_setHart {s : State} {k : Nat} {x : Hart} (hx : x.core.pc = (s.hart k).core.pc) (h : Nat) :
    SamePc h s (s.setHart k x) := by
  refine ⟨?_, rfl⟩
  by_cases hk : h = k
  · rw [hk, State.hart_setHart, hx]
  · rw [State.hart_setHart_other s x hk]

/-- Another hart changed. -/
theorem samePc_modHart_other {s : State} {h k : Nat} (f : Hart → Hart) (hk : h ≠ k) : SamePc h s (s.modHart k f) :=
  ⟨by rw [State.hart_modHart_other s f hk], rfl⟩

theorem samePc_undone (s : State) (h k : Nat) (n : Word) : SamePc h s (s.undone k n) :=
  .trans ((sameHarts_countEvent s ..).samePc h) (samePc_setHart (by rfl) h)

/-- A member that leaves its gang goes back to before the gang's current instruction only if it had completed it. -/
theorem samePc_leaveGang {g : Gang} {h : Nat} (hb : ∀ b ∈ g.before, b.hart ≠ h) (s : State) (k : Nat) :
    SamePc h s (s.leaveGang g k) := by
  unfold State.leaveGang
  dsimp only
  refine .trans ?_ (samePc_setHart (by rfl) h)
  split
  · next b hf =>
    have hbk : b.hart = k := by simpa using List.find?_some hf
    have hk : h ≠ k := fun e => hb b (List.mem_of_find?_eq_some hf) (hbk.trans e.symm)
    refine .trans (.trans ?_ (samePc_undone _ h k _)) (samePc_modHart_other _ hk)
    split <;> exact ⟨rfl, rfl⟩
  · split <;> exact ⟨rfl, rfl⟩

theorem samePc_dissolve {s : State} {h : Nat} (ha : AtInstr (s.hart h) h) : SamePc h s (s.dissolve h) := by
  unfold State.dissolve
  split
  · exact .refl h s
  · next g hg =>
    exact List.foldlRecOn g.members _ (motive := SamePc h s) (.refl h s) fun t ht k _ =>
      ht.trans (samePc_leaveGang (ha g hg) t k)

theorem samePc_landHarts {s u : State} {l : List Nat} (hl : s.landHarts l = some u) (h : Nat) : SamePc h s u := by
  induction l generalizing s with
  | nil => exact Option.some.inj hl ▸ .refl h s
  | cons k ks ih =>
    unfold State.landHarts at hl
    split at hl
    · cases hl
    · next x hx => exact (samePc_setHart (landAll_core_pc hx) h).trans (ih hl)

/-- A hart that has not completed its gang's current instruction is still at it when the gang is dissolved. -/
theorem samePc_quitGang {s u : State} {h : Nat} (ha : AtInstr (s.hart h) h) (hq : s.quitGang h = some u) : SamePc h s u :=
  (samePc_dissolve ha).trans (samePc_landHarts hq h)

end Sys2Proof.HartFrames
end

section
/-! PROOF. The entry of a synchronous trap (spec/18_traps.md R403): the hart as it leaves it. -/

namespace Sys2Proof.TrapTaken

open Sys2Proof Sys2Proof.Machine Sys2Proof.Safety Sys2Proof.HartFrames

/-- The hart x as a trap with this information leaves it, in mode mo. -/
def trapEntered (x : Hart) (t : TrapInfo) (mo : Mode) : Hart :=
  let sys := if mo == .s then { x.sys with strap := x.sys.strap.enter t x.core.pc x.core.mode }
    else { x.sys with mtrap := x.sys.mtrap.enter t x.core.pc x.core.mode }
  { x with
    pendErr := none, caps := x.caps.filter fun e => some e != t.cap, arrival := none, fetched := [], counted := false,
    inval := none, frames := { mode := mo, claimed := false, kept := none, rayTag := 0 } :: x.frames, sys := sys,
    core := { x.core with
      mode := mo, st := .trapped, pc := (if mo == .s then sys.strap.tvec else sys.mtrap.tvec) &&& ~~~ 15#64 } }

/-- The trap set of the handler's mode takes the trap. -/
theorem trapEntered_handlerSet (x : Hart) (t : TrapInfo) {mo : Mode} (hmo : mo ≠ .u) :
    (if (trapEntered x t mo).core.mode = .m then (trapEntered x t mo).sys.mtrap else (trapEntered x t mo).sys.strap) =
      (if mo = .m then x.sys.mtrap else x.sys.strap).enter t x.core.pc x.core.mode := by
  cases mo with
  | u => exact absurd rfl hmo
  | s => rfl
  | m => rfl

theorem trapEntered_sys_space (x : Hart) (t : TrapInfo) (mo : Mode) : (trapEntered x t mo).sys.space = x.sys.space := by
  cases mo <;> rfl

theorem trapEntered_sys_tdeleg (x : Hart) (t : TrapInfo) (mo : Mode) :
    (trapEntered x t mo).sys.tdeleg = x.sys.tdeleg := by
  cases mo <;> rfl

/-- A synchronous trap of a hart that has no error pending, once its gang is dissolved and its windows have completed. -/
theorem takeTrap_of_quitGang {s u : State} {h : Nat} (t : TrapInfo) (hq : s.quitGang h = some u)
    (herr : (u.hart h).pendErr = none) :
    (s.takeTrap h t false false id).hart h = trapEntered (u.hart h) t ((u.hart h).trapMode t.cause false false) ∧
      (s.takeTrap h t false false id).cur = u.cur := by
  have hkept (v : State) (sel : PeerStore → Bool) (p : Bool) (y : Hart) (pc info elem data : Word) :
      SameHarts v ((if p = true then (v.landPeers sel).writeFault (coreOf h) y t else v.landPeers sel).traceRec
        h 1 pc info elem data [0, 0, 0]) :=
    .trans (.ite ((sameHarts_landPeers ..).trans (sameHarts_writeFault ..)) (sameHarts_landPeers ..)) (sameHarts_traceRec ..)
  unfold State.takeTrap
  simp only [hq, herr, Option.isNone_none, Bool.and_true, Bool.false_eq_true, if_false, if_true, State.hart_modHart]
  rw [(hkept ..).hart h, State.hart_setHart, State.modHart_cur, (hkept ..).cur]
  exact ⟨rfl, rfl⟩

theorem trapMode_ne_u (x : Hart) (c : Cause) (intr stop : Bool) : x.trapMode c intr stop ≠ .u := by
  unfold Hart.trapMode
  split
  · split <;> decide
  · split <;> decide
  · decide

/-- The current hart after a synchronous trap that its gang and its windows let it take: it was still at the instruction. -/
theorem becomes_trapEntered {o : Out} {s u : State} {c : Cause} {tval : Word} (ht : Traps o s c tval)
    (hq : s.quitGang s.cur = some u) (herr : u.me.pendErr = none) (ha : AtInstr s.me s.cur) :
    u.me.core.pc = s.me.core.pc ∧
      Becomes o fun t => t.me = trapEntered u.me { cause := c, tval := tval } (u.me.trapMode c false false) := by
  obtain ⟨hpc, hcur⟩ := samePc_quitGang ha hq
  have hme : u.me = u.hart s.cur := congrArg u.hart hcur
  rw [hme] at herr ⊢
  obtain ⟨hx, hc⟩ := takeTrap_of_quitGang { cause := c, tval := tval } hq herr
  exact ⟨hpc, _, ht, (congrArg _ (hc.trans hcur)).trans hx⟩

end Sys2Proof.TrapTaken
end

section
/-! PROOF. ecall and brk (spec/18_traps.md R412), and with them `Obligations.SystemCalls`. -/

namespace Sys2Proof.SystemCalls

open Sys2Proof Sys2Proof.Machine Sys2Proof.Safety Sys2Proof.TrapTaken

/-! ## The words of ecall and brk -/

/-- Every field between OPC and IMM[15:0] is zero. -/
theorem pack_opc_imm (opc : BitVec 10) (n : BitVec 16) :
    Fields.pack { opc := opc, imm := 0#48 ++ n } = n.setWidth 64 ++ opc.setWidth 64 := by
  have hn : n.toNat % 2 ^ 64 = n.toNat := by omega
  have ho : opc.toNat % 2 ^ 64 = opc.toNat := by omega
  refine BitVec.eq_of_toNat_eq ?_
  simp only [Fields.pack, BitVec.toNat_append, BitVec.toNat_setWidth, hn, ho]
  simp [← Nat.shiftLeft_add]

theorem extract_imm (n : BitVec 16) : (0#48 ++ n).extractLsb' 0 16 = n :=
  (Laws.Encoded.extract_lo 0#48 n 0 16 (by decide)).trans BitVec.extractLsb'_eq_self

/-- An instruction with an opcode of its own and one field, IMM[15:0]. -/
structure ImmOnly (opc : BitVec 10) (mk : BitVec 16 → Instr) : Prop where
  fields    : ∀ n, (mk n).toFields = some { opc := opc, imm := 0#48 ++ n }
  wf        : ∀ n, (mk n).wf = true
  candidate : ∀ f : Fields, f.opc = opc → f.candidate = some (mk (f.imm.extractLsb' 0 16))

theorem immOnly_ecall : ImmOnly 0x344 .ecall where
  fields _ := rfl
  wf _ := rfl
  candidate := by rintro ⟨_, _⟩ rfl; rfl

theorem immOnly_brk : ImmOnly 0x346 .brk where
  fields _ := rfl
  wf _ := rfl
  candidate := by rintro ⟨_, _⟩ rfl; rfl

theorem encode_eq_of_decode_eq_ok {w : BitVec 128} {i : Instr} (h : decode w = .ok i) : encode i = some w := by
  unfold decode at h
  split at h
  · cases h
  · split at h
    · next hi => cases h; simpa using (Bool.and_eq_true_iff.mp hi).2
    · cases h

section
variable {opc : BitVec 10} {mk : BitVec 16 → Instr}

theorem ImmOnly.encode_eq (h : ImmOnly opc mk) (n : BitVec 16) :
    encode (mk n) = some (n.setWidth 64 ++ opc.setWidth 64) := by
  rw [encode, h.fields, Option.map_some, pack_opc_imm]

theorem ImmOnly.decode_eq_ok_iff (h : ImmOnly opc mk) (w : BitVec 128) (n : BitVec 16) :
    decode w = .ok (mk n) ↔ w = n.setWidth 64 ++ opc.setWidth 64 := by
  constructor
  · exact fun hd => Option.some.inj ((encode_eq_of_decode_eq_ok hd).symm.trans (h.encode_eq n))
  · rintro rfl
    exact Laws.Encoded.of_fields (h.fields n) (fun _ => by rw [h.candidate _ rfl, extract_imm]) (h.wf n) _ (h.encode_eq n)

/-- A word of the opcode with another field set. -/
theorem ImmOnly.decode_eq_reserved (h : ImmOnly opc mk) {w : BitVec 128} (hopc : w.extractLsb' 0 10 = opc)
    (hw : ∀ k : BitVec 16, w ≠ k.setWidth 64 ++ opc.setWidth 64) : decode w = .reserved := by
  have hc := h.candidate (.unpack w) hopc
  have hne : encode (mk ((Fields.unpack w).imm.extractLsb' 0 16)) ≠ some w := fun he =>
    hw _ (Option.some.inj (he.symm.trans (h.encode_eq _)))
  simp [decode, hc, hne]

end

/-! ## The traps that they raise -/

theorem traps_ecall_of_u {s : State} (n : BitVec 16) (hm : s.me.core.mode = .u) :
    Traps (exec (.ecall n) s) s .ecallU (n.setWidth 64) := by
  rw [exec_ecall, execEcall, hm]
  rfl

theorem traps_ecall_of_s {s : State} (n : BitVec 16) (hm : s.me.core.mode = .s) :
    Traps (exec (.ecall n) s) s .ecallS (n.setWidth 64) := by
  rw [exec_ecall, execEcall, hm]
  rfl

theorem traps_ecall_of_m {s : State} (n : BitVec 16) (hm : s.me.core.mode = .m) :
    Traps (exec (.ecall n) s) s .priv (lowWord (.ecall n)) := by
  rw [exec_ecall, execEcall, hm]
  rfl

theorem traps_brk (s : State) (n : BitVec 16) : Traps (exec (.brk n) s) s .brk (n.setWidth 64) := rfl

/-! ## The statement -/

/-- Settles O18: each of them is the trap of its cause, the entry of a trap writes the trap set of the handler's mode and leaves
the registers, and IMM[15:0] is the one field of their words. -/
theorem systemCalls : Obligations.SystemCalls := by
  unfold Obligations.SystemCalls
  refine ⟨fun s n => ⟨traps_ecall_of_u n, traps_ecall_of_s n, traps_ecall_of_m n, traps_brk s n⟩, ?_, ?_, ?_⟩
  · intro s u n i c x hq herr ha hi
    have ht : Traps (exec i s) s c (n.setWidth 64) := by
      obtain ⟨rfl, hm, rfl⟩ | ⟨rfl, hm, rfl⟩ | ⟨rfl, rfl⟩ := hi
      · exact traps_ecall_of_u n hm
      · exact traps_ecall_of_s n hm
      · exact traps_brk s n
    obtain ⟨hpc, t, ho, hy⟩ := becomes_trapEntered ht hq herr ha
    refine ⟨t, ho, ?_⟩
    dsimp only
    rw [hy, trapEntered_handlerSet _ _ (trapMode_ne_u _ _ _ _), ← hpc]
    exact ⟨rfl, rfl, rfl, rfl, rfl, rfl, rfl, trapEntered_sys_space .., trapEntered_sys_tdeleg .., rfl⟩
  · intro w n
    exact ⟨immOnly_ecall.decode_eq_ok_iff w n, immOnly_brk.decode_eq_ok_iff w n, immOnly_ecall.decode_eq_reserved,
      immOnly_brk.decode_eq_reserved⟩
  · exact ⟨(immOnly_ecall.decode_eq_ok_iff _ 5).mpr (by decide), (immOnly_brk.decode_eq_ok_iff _ 7).mpr (by decide)⟩

end Sys2Proof.SystemCalls
end
